-- ==== Sys2Proof/Word.lean ====
section
/-! DEFINITION. The word types of the Izros and the plainest helpers over them.

`SMap` is the one container of the model: a list of key and value pairs, strictly rising in the key and without an entry
that equals the container's default value. Its operations are in `Machine/Ops.lean`. -/

namespace Sys2Proof

/-- A scalar, mask or index register value (R98). -/
abbrev Word64 := BitVec 64
/-- A lane register value (R122). -/
abbrev Word32 := BitVec 32
/-- One byte of memory (R3). -/
abbrev Byte := BitVec 8

/-- A finite map with a default value, in one canonical form (see the header). -/
abbrev SMap (α : Type) := List (Nat × α)

/-- Device memory and every other byte store: address and byte pairs (R3, R183). -/
abbrev Mem := SMap Byte

/-- Bits hi:lo of a number, as the manual writes them (R2). -/
def bitsOf (x hi lo : Nat) : Nat := x / 2 ^ lo % 2 ^ (hi + 1 - lo)

/-- One bit of a number (R2). -/
def bitOf (x i : Nat) : Bool := x / 2 ^ i % 2 == 1

end Sys2Proof
end

