-- ==== Sys2Proof/Syntax.lean ====
section
/-! DEFINITION. The steps of the part: one constructor of `Instr` per row of the opcode table. Scalar words carry their
fields (R68, R69), lane words a record of their fields (R75, R83, R84), events their place and operands. -/

namespace Sys2Proof

/-- The operand types of `type4` (R44, R49, R79), in code order. -/
inductive LType where
  | i32 | n32 | i64 | n64 | f32 | bf16x2 | f16x2 | i16 | n16 | i8 | n8 | e4m3 | e5m2 | e3m2 | q4g | q3g
  deriving DecidableEq, Repr

/-- A 13-bit operand field (R76). An unused field, a mask field of a low number (R153) and a slot number (R234) read as
`mrf`. -/
inductive Operand where
  /-- Direct MRF register. -/
  | mrf (n : BitVec 8)
  /-- Operand file register. -/
  | orf (n : BitVec 3)
  /-- Last-result file register. -/
  | lrf (n : BitVec 2)
  /-- Special operand of a class and index (R77). -/
  | special (cls : BitVec 5) (idx : BitVec 6)
  /-- MRF register base + x[n]. -/
  | indirect (x : BitVec 2) (base : BitVec 8)
  deriving DecidableEq, Repr

/-- The fields of a lane word of layout L.A (R75). `mod` is the modifier byte of R80, R81. -/
structure LaneOp where
  stall : BitVec 4
  kmask : BitVec 4
  typ : LType
  mod : BitVec 8
  d : Operand
  a : Operand
  b : Operand
  c : Operand
  ext : BitVec 14
  deriving DecidableEq, Repr

/-- The fields of the lane `li` word, layout L.I (R83, R137). Its A field, type4, mod8 and bits 7:0 are 0. -/
structure LiOp where
  stall : BitVec 4
  kmask : BitVec 4
  d : Operand
  imm : BitVec 32
  deriving DecidableEq, Repr

/-- The space field of an L.M word (R84, R177). -/
inductive Space where
  | global | scratch | noLease | view
  deriving DecidableEq, Repr

/-- The width field of an L.M word (R84). -/
inductive Width where
  | b1 | b2 | b4 | b8 | b16
  deriving DecidableEq, Repr

/-- The fields of a lane memory word, layout L.M (R84). D and A are direct MRF registers; `order` 0 plain, 1 acq, 2 rel,
3 acqrel; `scope` 0 core, 1 cluster, 2 package, 3 system. -/
structure MemOp where
  stall : BitVec 4
  kmask : BitVec 4
  typ : LType
  mod : BitVec 8
  d : BitVec 8
  a : BitVec 8
  off : BitVec 26
  space : Space
  order : BitVec 2
  scope : BitVec 2
  width : Width
  hint : BitVec 2
  deriving DecidableEq, Repr

/-- A trailer word (R88): the token assigned, MRF registers and masks named. -/
structure Trailer where
  tok : BitVec 4
  regs : List (BitVec 8)
  masks : List (BitVec 4)
  deriving DecidableEq, Repr

/-- The function through which the host acts: the physical function or a virtual one (R420). -/
inductive HostFn where
  | pf
  | vf (v : Nat)
  deriving DecidableEq, Repr

/-- Where an uncorrectable error arises (R465): device memory, or the scratchpad of a team. -/
inductive ErrorPlace where
  | device
  | scratch (team : Nat)
  deriving DecidableEq, Repr

/-- The sub-operation of an atomic that a peer sends, with the operand type and the compare operand of a cas (R302 to R304, R424). -/
structure PeerAtom where
  sub : BitVec 8
  typ : LType
  cmp : List (BitVec 8)
  deriving DecidableEq, Repr

/-- What a peer asks for (R183, R424): a read, a write of bytes, or an atomic with its operand. -/
inductive PeerAsk where
  | read
  | write (bytes : List (BitVec 8))
  | atomic (bytes : List (BitVec 8)) (atom : PeerAtom)
  deriving DecidableEq, Repr

/-- What a GET_MEASUREMENTS request names: the index, and a nonce where it asks for a signature (R429). -/
structure MeasureAsk where
  index : Nat
  nonce : Option Nat := none
  deriving DecidableEq, Repr

/-- The steps of the part. -/
inductive Instr where
  /-- Scalar add: s[d] := s[a] + s[b], wrapping modulo 2^64. (R105) -/
  | add (d : BitVec 6) (a : BitVec 6) (b : BitVec 6)
  /-- Scalar subtract, wrapping modulo 2^64. (R105) -/
  | sub (d : BitVec 6) (a : BitVec 6) (b : BitVec 6)
  /-- Scalar bitwise and. (R105) -/
  | and (d : BitVec 6) (a : BitVec 6) (b : BitVec 6)
  /-- Scalar bitwise or. (R105) -/
  | or (d : BitVec 6) (a : BitVec 6) (b : BitVec 6)
  /-- Scalar bitwise xor. (R105) -/
  | xor (d : BitVec 6) (a : BitVec 6) (b : BitVec 6)
  /-- Scalar and with the complement of s[b]. (R105) -/
  | andn (d : BitVec 6) (a : BitVec 6) (b : BitVec 6)
  /-- Scalar shift left by bits 5:0 of s[b]. (R105) -/
  | shl (d : BitVec 6) (a : BitVec 6) (b : BitVec 6)
  /-- Scalar logical shift right by bits 5:0 of s[b]. (R105) -/
  | shr (d : BitVec 6) (a : BitVec 6) (b : BitVec 6)
  /-- Scalar arithmetic shift right by bits 5:0 of s[b]. (R105) -/
  | sra (d : BitVec 6) (a : BitVec 6) (b : BitVec 6)
  /-- Scalar signed minimum. (R105) -/
  | min (d : BitVec 6) (a : BitVec 6) (b : BitVec 6)
  /-- Scalar signed maximum. (R105) -/
  | max (d : BitVec 6) (a : BitVec 6) (b : BitVec 6)
  /-- Scalar unsigned minimum. (R105) -/
  | minn (d : BitVec 6) (a : BitVec 6) (b : BitVec 6)
  /-- Scalar unsigned maximum. (R105) -/
  | maxn (d : BitVec 6) (a : BitVec 6) (b : BitVec 6)
  /-- Scalar set to 1 when s[a] equals s[b]. (R105) -/
  | seq (d : BitVec 6) (a : BitVec 6) (b : BitVec 6)
  /-- Scalar signed set-less-than. (R105) -/
  | slt (d : BitVec 6) (a : BitVec 6) (b : BitVec 6)
  /-- Scalar unsigned set-less-than. (R105) -/
  | sltn (d : BitVec 6) (a : BitVec 6) (b : BitVec 6)
  /-- Scalar multiply, low 64 bits. (R106) -/
  | mul (d : BitVec 6) (a : BitVec 6) (b : BitVec 6)
  /-- Scalar signed multiply, high 64 bits. (R106) -/
  | mulh (d : BitVec 6) (a : BitVec 6) (b : BitVec 6)
  /-- Scalar unsigned multiply, high 64 bits. (R106) -/
  | mulhn (d : BitVec 6) (a : BitVec 6) (b : BitVec 6)
  /-- Scalar signed divide with defined results, DZ/OV in GSTAT and optional trap. (R106) -/
  | div (d : BitVec 6) (a : BitVec 6) (b : BitVec 6)
  /-- Scalar unsigned divide. (R106) -/
  | divn (d : BitVec 6) (a : BitVec 6) (b : BitVec 6)
  /-- Scalar signed remainder. (R106) -/
  | rem (d : BitVec 6) (a : BitVec 6) (b : BitVec 6)
  /-- Scalar unsigned remainder. (R106) -/
  | remn (d : BitVec 6) (a : BitVec 6) (b : BitVec 6)
  /-- Scalar population count of s[a]. (R106) -/
  | popc (d : BitVec 6) (a : BitVec 6)
  /-- Scalar count of leading zeros of s[a]. (R106) -/
  | clz (d : BitVec 6) (a : BitVec 6)
  /-- Scalar count of trailing zeros of s[a]. (R106) -/
  | ctz (d : BitVec 6) (a : BitVec 6)
  /-- Scalar sign extension of s[a] from bit position b. (R106) -/
  | sext (d : BitVec 6) (a : BitVec 6) (p : BitVec 6)
  /-- Scalar add of a sign-extended 14-bit immediate. (R107) -/
  | addi (d : BitVec 6) (a : BitVec 6) (i : BitVec 14)
  /-- Scalar and with an immediate. (R107) -/
  | andi (d : BitVec 6) (a : BitVec 6) (i : BitVec 14)
  /-- Scalar or with an immediate. (R107) -/
  | ori (d : BitVec 6) (a : BitVec 6) (i : BitVec 14)
  /-- Scalar xor with an immediate. (R107) -/
  | xori (d : BitVec 6) (a : BitVec 6) (i : BitVec 14)
  /-- Scalar shift left by an immediate 0 to 63. (R107) -/
  | shli (d : BitVec 6) (a : BitVec 6) (i : BitVec 14)
  /-- Scalar logical shift right by an immediate. (R107) -/
  | shri (d : BitVec 6) (a : BitVec 6) (i : BitVec 14)
  /-- Scalar arithmetic shift right by an immediate. (R107) -/
  | srai (d : BitVec 6) (a : BitVec 6) (i : BitVec 14)
  /-- Scalar signed compare with an immediate. (R107) -/
  | slti (d : BitVec 6) (a : BitVec 6) (i : BitVec 14)
  /-- Scalar unsigned compare with an immediate. (R107) -/
  | sltni (d : BitVec 6) (a : BitVec 6) (i : BitVec 14)
  /-- Loads a sign-extended 20-bit immediate into s[d]. (R108) -/
  | li (d : BitVec 6) (i : BitVec 20)
  /-- Places imm20 in bits 39:20 of s[d]. (R108) -/
  | lhi (d : BitVec 6) (i : BitVec 20)
  /-- Places imm20 in bits 59:40 of s[d] and clears bits 63:60. (R108) -/
  | lxi (d : BitVec 6) (i : BitVec 20)
  /-- Writes the byte address of a scalar code word relative to PC. (R108) -/
  | pcrel (d : BitVec 6) (i : BitVec 20)
  /-- Scalar 8-byte load from global space. (R114) -/
  | sld (d : BitVec 6) (a : BitVec 6) (i : BitVec 14)
  /-- Scalar 8-byte store to global space. (R114) -/
  | sst (d : BitVec 6) (a : BitVec 6) (i : BitVec 14)
  /-- Scalar 8-byte load from the team's scratchpad. (R115) -/
  | sldp (d : BitVec 6) (a : BitVec 6) (i : BitVec 14)
  /-- Scalar 8-byte store to the team's scratchpad. (R115) -/
  | sstp (d : BitVec 6) (a : BitVec 6) (i : BitVec 14)
  /-- Conditional branch on a scalar or mask condition by a signed word displacement. (R109) -/
  | bCc (c : BitVec 4) (a : BitVec 6) (i : BitVec 16)
  /-- Sets s63 := PC + 1 and branches by a signed displacement. (R110) -/
  | call (i : BitVec 20)
  /-- Jumps to the word index in s[a]; ret is jr s63. (R111) -/
  | jr (a : BitVec 6)
  /-- Mask and. (R113) -/
  | kand (d : BitVec 4) (a : BitVec 4) (b : BitVec 4)
  /-- Mask or. (R113) -/
  | kor (d : BitVec 4) (a : BitVec 4) (b : BitVec 4)
  /-- Mask xor. (R113) -/
  | kxor (d : BitVec 4) (a : BitVec 4) (b : BitVec 4)
  /-- Mask and-not. (R113) -/
  | kandn (d : BitVec 4) (a : BitVec 4) (b : BitVec 4)
  /-- Mask complement of all 64 bits. (R113) -/
  | knot (d : BitVec 4) (a : BitVec 4)
  /-- Copies a scalar register into a mask register. (R113) -/
  | kmovk (d : BitVec 4) (s : BitVec 6)
  /-- Copies a mask register into a scalar register under interlock. (R113) -/
  | kmovs (a : BitVec 4) (s : BitVec 6)
  /-- Copies the committed value of a mask register without interlock. (R32) -/
  | kmovsNw (a : BitVec 4) (s : BitVec 6)
  /-- Counts the set bits of a mask ANDed with k0. (R113) -/
  | kpop (a : BitVec 4) (s : BitVec 6)
  /-- Index of the lowest set bit of a mask ANDed with k0. (R113) -/
  | kfirst (a : BitVec 4) (s : BitVec 6)
  /-- Sets a mask register to k0. (R113) -/
  | kset (d : BitVec 4)
  /-- Enqueues one run with an await set and load flag. (R117) -/
  | run (w : BitVec 8) (l : BitVec 1) (i : BitVec 17)
  /-- Enqueues a pair of runs on complementary lanes of a selection mask. (R118) -/
  | run2 (w : BitVec 8) (k : BitVec 4) (a : BitVec 6) (b : BitVec 6)
  /-- Stalls the scalar stream until a set of tokens is complete. (R119) -/
  | wait (t : BitVec 8)
  /-- Waits until the GTC reaches a promised time, checking the promise. (R121) -/
  | sleep (a : BitVec 6)
  /-- Checks a tile descriptor and queues a tile copy on the TWE, returning a promise. (R313) -/
  | cpy (a : BitVec 6) (b : BitVec 6)
  /-- Queues a tile multicast to the scratchpads of several cores. (R312) -/
  | cpym (a : BitVec 6) (b : BitVec 6)
  /-- Queues a participant of a cross-die collective. (R318) -/
  | cpyc (a : BitVec 6) (b : BitVec 6)
  /-- Offers a launch packet to a command queue of the issuing virtual function. (R322) -/
  | qpush (a : BitVec 6) (b : BitVec 6) (n : BitVec 1)
  /-- Writes a snapshot of a command queue's state. (R325) -/
  | qpoll (a : BitVec 6) (b : BitVec 6)
  /-- Sets a barrier slot's mode and expectation and resets it. (R385) -/
  | barInit (a : BitVec 6) (b : BitVec 6)
  /-- Releasing arrival of n on a barrier slot, returning a phase token. (R386) -/
  | barArr (a : BitVec 6) (b : BitVec 6)
  /-- Sets a barrier slot's EXPECT, completing phases if met. (R387) -/
  | barExp (a : BitVec 6) (b : BitVec 6)
  /-- Waits for a barrier phase with a timeout, writing a status. (R388) -/
  | barWait (a : BitVec 6) (b : BitVec 6)
  /-- Queues a load of coupling entries into the Firefly buffer. (R275) -/
  | ffaLdj (a : BitVec 6) (b : BitVec 6)
  /-- Queues a load of node records into the Firefly array. (R275) -/
  | ffaLdh (a : BitVec 6) (b : BitVec 6)
  /-- Queues a setting of the colouring table. (R276) -/
  | ffaLdc (a : BitVec 6)
  /-- Queues a clamp or release of one node. (R277) -/
  | ffaClamp (a : BitVec 6) (b : BitVec 6)
  /-- Queues a setting of the array's beta. (R277) -/
  | ffaBeta (a : BitVec 6)
  /-- Queues a setting of mode, key, lag, array id and sweep number. (R278) -/
  | ffaMode (a : BitVec 6) (b : BitVec 6)
  /-- Queues n sweeps and returns a promise word. (R279) -/
  | ffaSweep (a : BitVec 6) (b : BitVec 6)
  /-- Queues a write of node counts to memory. (R280) -/
  | ffaRdc (a : BitVec 6) (b : BitVec 6)
  /-- Queues a write of the state bitmap to memory. (R280) -/
  | ffaRds (a : BitVec 6)
  /-- Queues a clearing of node counts. (R280) -/
  | ffaZc (a : BitVec 6)
  /-- Queues a mapping or unmapping of a boundary slot. (R281) -/
  | ffaBnd (a : BitVec 6) (b : BitVec 6)
  /-- Writes the array's health word without queueing. (R282) -/
  | ffaHs (a : BitVec 6)
  /-- Creates a child task record in the current scope and pushes it on the deque. (R344) -/
  | spawn (a : BitVec 6) (b : BitVec 6)
  /-- Saves the task's record and returns the runner to its work point. (R345) -/
  | yield (a : BitVec 6)
  /-- Ends the task, marking its views for the fold. (R347) -/
  | tend
  /-- Pushes a new spawn scope. (R348) -/
  | scopeOpen
  /-- Closes the innermost scope, yielding until its folds complete. (R349) -/
  | scopeClose (a : BitVec 6)
  /-- Allocates and fills the task's view of a tile and returns its view-space address. (R350) -/
  | vaddr (a : BitVec 6) (b : BitVec 6)
  /-- Scalar no-operation. (R172) -/
  | nop
  /-- Reads a group status or control register. (R173) -/
  | rdsr (a : BitVec 6) (b : BitVec 6)
  /-- Writes a group status or control register after earlier runs retire. (R173) -/
  | wrsr (a : BitVec 6) (b : BitVec 6)
  /-- Reads the 64-bit GTC into a scalar register. (R174) -/
  | rdgtc (a : BitVec 6)
  /-- Waits for the release horizon plus 2 ticks at the given scope and raises ACQFLOOR. (R217) -/
  | fence (s : BitVec 2)
  /-- Bridges writes on path Q to later reads on path P. (R221) -/
  | xfence (q : BitVec 2) (p : BitVec 2)
  /-- Raises BREAK with a code when s[a] is nonzero. (R175) -/
  | trap (a : BitVec 6) (c : BitVec 4)
  /-- Raises BREAK with a code. (R175) -/
  | brk (c : BitVec 4)
  /-- Ends the group once its runs retire, releasing its resources and ending team and grid as they empty. (R43) -/
  | exit
  /-- Lane integer add, wrapping or saturating. (R132) -/
  | iadd (w : LaneOp)
  /-- Lane integer subtract. (R132) -/
  | isub (w : LaneOp)
  /-- Lane integer multiply. (R132) -/
  | imul (w : LaneOp)
  /-- Lane integer multiply, high half. (R132) -/
  | imulh (w : LaneOp)
  /-- Lane integer multiply-add formed exactly. (R132) -/
  | imad (w : LaneOp)
  /-- Lane integer divide with DZ and OV status. (R133) -/
  | idiv (w : LaneOp)
  /-- Lane integer remainder with DZ and OV status. (R133) -/
  | irem (w : LaneOp)
  /-- Lane integer absolute value. (R132) -/
  | iabs (w : LaneOp)
  /-- Lane integer minimum. (R132) -/
  | imin (w : LaneOp)
  /-- Lane integer maximum. (R132) -/
  | imax (w : LaneOp)
  /-- Lane bitwise and. (R134) -/
  | laneAnd (w : LaneOp)
  /-- Lane bitwise or. (R134) -/
  | laneOr (w : LaneOp)
  /-- Lane bitwise xor. (R134) -/
  | laneXor (w : LaneOp)
  /-- Lane bitwise complement. (R134) -/
  | not (w : LaneOp)
  /-- Lane shift left. (R134) -/
  | laneShl (w : LaneOp)
  /-- Lane logical shift right. (R134) -/
  | laneShr (w : LaneOp)
  /-- Lane arithmetic shift right. (R134) -/
  | laneSra (w : LaneOp)
  /-- Lane population count. (R135) -/
  | lanePopc (w : LaneOp)
  /-- Lane count of leading zeros. (R135) -/
  | laneClz (w : LaneOp)
  /-- Lane bit-field extract. (R135) -/
  | bfe (w : LaneOp)
  /-- Lane bit-field insert. (R135) -/
  | bfi (w : LaneOp)
  /-- Lane register copy. (R136) -/
  | mov (w : LaneOp)
  /-- Lane copy from a scalar register selected by lane data. (R136) -/
  | movs (w : LaneOp)
  /-- Lane load of a 32-bit immediate. (R137) -/
  | laneLi (w : LiOp)
  /-- Lane f32 add, rounded once. (R139) -/
  | fadd (w : LaneOp)
  /-- Lane f32 subtract. (R139) -/
  | fsub (w : LaneOp)
  /-- Lane f32 multiply. (R139) -/
  | fmul (w : LaneOp)
  /-- Lane f32 fused multiply-add. (R139) -/
  | ffma (w : LaneOp)
  /-- Lane f32 minimum. (R141) -/
  | fmin (w : LaneOp)
  /-- Lane f32 maximum. (R141) -/
  | fmax (w : LaneOp)
  /-- Lane f32 divide. (R139) -/
  | fdiv (w : LaneOp)
  /-- Lane f32 square root. (R139) -/
  | fsqrt (w : LaneOp)
  /-- Lane f32 reciprocal. (R140) -/
  | frcp (w : LaneOp)
  /-- Lane f32 reciprocal square root. (R140) -/
  | frsq (w : LaneOp)
  /-- Lane f32 power of two. (R142) -/
  | fex2 (w : LaneOp)
  /-- Lane f32 base-2 logarithm. (R142) -/
  | flg2 (w : LaneOp)
  /-- Lane f32 sine. (R142) -/
  | fsin (w : LaneOp)
  /-- Lane f32 cosine. (R142) -/
  | fcos (w : LaneOp)
  /-- Lane f32 hyperbolic tangent. (R142) -/
  | ftanh (w : LaneOp)
  /-- Lane packed 16-bit add. (R143) -/
  | hadd (w : LaneOp)
  /-- Lane packed 16-bit multiply. (R143) -/
  | hmul (w : LaneOp)
  /-- Lane packed 16-bit fused multiply-add. (R143) -/
  | hfma (w : LaneOp)
  /-- Lane packed 16-bit minimum. (R143) -/
  | hmin (w : LaneOp)
  /-- Lane packed 16-bit maximum. (R143) -/
  | hmax (w : LaneOp)
  /-- Lane conversion between two types, rounded once. (R146) -/
  | cvt (w : LaneOp)
  /-- Lane quantisation of f32 to q4g or q3g. (R147) -/
  | qnt (w : LaneOp)
  /-- Lane dequantisation to f32 with a bf16 scale. (R148) -/
  | dqn (w : LaneOp)
  /-- Lane packing of four e3m2 codes per quad. (R149) -/
  | pk6 (w : LaneOp)
  /-- Lane unpacking of an e3m2 code. (R149) -/
  | up6 (w : LaneOp)
  /-- Lane packing of q4g or q3g elements per octet. (R150) -/
  | pk4 (w : LaneOp)
  /-- Lane unpacking of a q4g or q3g element. (R150) -/
  | up4 (w : LaneOp)
  /-- Lane integer compare writing a mask. (R155) -/
  | icmp (w : LaneOp)
  /-- Lane f32 compare writing a mask. (R156) -/
  | fcmp (w : LaneOp)
  /-- Lane select by a mask. (R157) -/
  | sel (w : LaneOp)
  /-- Lane write of a mask bit from register nonzeroness. (R158) -/
  | kwr (w : LaneOp)
  /-- Cross-lane shuffle within the group. (R160) -/
  | shfl (w : LaneOp)
  /-- Cross-lane broadcast of one lane's value. (R161) -/
  | bcast (w : LaneOp)
  /-- Cross-lane any, all or ballot vote. (R162) -/
  | vote (w : LaneOp)
  /-- Cross-lane tree sum. (R163) -/
  | radd (w : LaneOp)
  /-- Cross-lane tree minimum. (R163) -/
  | rmin (w : LaneOp)
  /-- Cross-lane tree maximum. (R163) -/
  | rmax (w : LaneOp)
  /-- Cross-lane inclusive prefix. (R164) -/
  | scan (w : LaneOp)
  /-- Reads LSTAT into a lane register. (R166) -/
  | rdst (w : LaneOp)
  /-- Clears selected LSTAT bits. (R166) -/
  | clst (w : LaneOp)
  /-- Lane load from global, scratchpad or view space. (R200) -/
  | ld (w : MemOp)
  /-- Lane store to global, scratchpad or view space. (R200) -/
  | st (w : MemOp)
  /-- Scratchpad load waiting for full. (R201) -/
  | ldF (w : MemOp)
  /-- Scratchpad load waiting for full, then setting empty. (R201) -/
  | ldFe (w : MemOp)
  /-- Scratchpad store waiting for empty, then setting full. (R201) -/
  | stEf (w : MemOp)
  /-- Scratchpad store setting full unconditionally. (R201) -/
  | stF (w : MemOp)
  /-- Sets full/empty bits full. (R201) -/
  | feSet (w : MemOp)
  /-- Sets full/empty bits empty. (R201) -/
  | feClr (w : MemOp)
  /-- Reads full/empty bits. (R201) -/
  | feProbe (w : MemOp)
  /-- Prefetches sectors into the caches without faulting. (R202) -/
  | pref (w : MemOp)
  /-- Pins a 128-byte region in L2, returning a status code. (R203) -/
  | pin (w : MemOp)
  /-- Releases a pinned region, returning a status code. (R203) -/
  | unpin (w : MemOp)
  /-- Hands each active lane the next item of a scratchpad queue. (R204) -/
  | lrefill (w : MemOp)
  /-- Atomic at memory returning the old value. (R304) -/
  | atom (w : MemOp)
  /-- Reduction at memory without a returned value. (R304) -/
  | red (w : MemOp)
  /-- Issues quarter requests C += A·B, optionally chained from a slot. (R236) -/
  | mxQ (w : LaneOp)
  /-- Zeroes slot rows in slot order. (R244) -/
  | mxZero (w : LaneOp)
  /-- Reads four columns of slot rows into lane registers. (R245) -/
  | mxRd (w : LaneOp)
  /-- Writes four columns of slot rows from lane registers. (R245) -/
  | mxWr (w : LaneOp)
  /-- Converts and writes slot rows to memory, optionally with absmax and clear. (R246) -/
  | mxDrain (w : LaneOp)
  /-- Lane Weevil32 random value from key and counter. (R152) -/
  | rng (w : LaneOp)
  /-- The head run's words arrive in the decoder buffer and pass or fail the fetch checks. (R22) -/
  | runFetch (g : Nat)
  /-- The scheduler starts a Ready run or pair on decoders and quarters, with word-sharing joins. (R25) -/
  | runStart (core : Nat)
  /-- A fixed-latency result, status and push land at the end of cycle c + λ − 1, raising any enabled arithmetic trap. (R126) -/
  | fixedLatencyLanding (g : Nat)
  /-- A variable-latency operation's reply reaches the group, writing data or a completion time. (R206) -/
  | accessComplete (op : Nat)
  /-- A run parked at an engine word issues it once table or queue entries become free. (R298) -/
  | parkedRunResume (g : Nat)
  /-- At each 1,024-cycle window a grant is armed for the oldest Ready group. (R295) -/
  | issueGrantArm (core : Nat)
  /-- At the end of a 1,024-cycle window the load cap is adjusted from the hit count. (R294) -/
  | lostLocalityWindow (core : Nat)
  /-- A write reaches its home and is assigned its visibility instant V. (R208) -/
  | homeWriteArrival (op lane : Nat)
  /-- At V the home applies the write and returns the completion time. (R208) -/
  | writeVisible
  /-- A read served at home returns data and grants a lease. (R210) -/
  | homeRead (op lane : Nat)
  /-- An L1 block becomes stale at its lease end minus 2 ticks. (R211) -/
  | leaseExpiry (core region : Nat)
  /-- A translation walk completes with a mapping, XLATE or ACCESS. (R181) -/
  | pageWalk (vf : Nat) (va : Word64)
  /-- A host page request answer arrives, releasing or faulting the waiting access. (R182) -/
  | priResponse (vf page : Nat) (granted : Bool)
  /-- A host invalidation removes TLB entries and completes once old users complete. (R186) -/
  | translationInvalidation (vf : Nat) (va : Word64)
  /-- A full/empty wait runs out of FEBOUND and raises FE_WAIT. (R197) -/
  | feWaitBoundExpiry (op : Nat)
  /-- An Ant applies one request's lanes as read-modify-writes in home order. (R300) -/
  | antRequest (op home : Nat)
  /-- The GTC reaches a sleep's promised time; the sleep ends or raises PROMISE_MISSED. (R121) -/
  | sleepDeadline (g : Nat)
  /-- A barrier wait reaches the end of tick D unsatisfied and ends with status 1. (R388) -/
  | barWaitTimeout (g : Nat)
  /-- A request's 32-cycle fusion window closes. (R241) -/
  | mxFusionWindowClose (req : Nat)
  /-- At each 1,024-engine-cycle window an anti-starvation grant is armed. (R240) -/
  | mxGrantArm (cluster : Nat)
  /-- The arbiter grants a pass to a head and its fusable requests when the array is free. (R240) -/
  | mxPassGrant (cluster : Nat)
  /-- A pass commits its quarters' slots 24 cycles after its last chunk. (R242) -/
  | mxPassCommit (cluster : Nat)
  /-- A zero, read, write or drain request is applied to its slot in slot order. (R238) -/
  | slotPortService (req : Nat)
  /-- The array performs the next queued non-sweep command whole. (R270) -/
  | ffaCommandPerform (team : Nat)
  /-- The array performs one sweep: latch ghosts, update phases, count and publish. (R263) -/
  | ffaSweepPerform (team : Nat)
  /-- A tagged state of an exported node arrives in a boundary slot's ring. (R265) -/
  | boundaryPublication (msg : Nat)
  /-- A ghost-latch or ring wait runs out and raises FFA_STALE. (R268) -/
  | boundaryWaitExpiry (team : Nat)
  /-- After 2^16 calibration draws a health window closes, possibly raising FFA_BIAS. (R269) -/
  | healthWindowClose (team count : Nat)
  /-- The TWE, once a receiver's guard is empty, performs its writes and sets the guard full. (R316) -/
  | tweReceiverWrite (cmd receiver : Nat)
  /-- A TWE guard wait exceeds FEBOUND and raises FE_WAIT. (R320) -/
  | guardWaitExpiry (cmd receiver : Nat)
  /-- A TWE command's last write completes, freeing its promise slot. (R315) -/
  | tweCommandComplete (cmd : Nat)
  /-- When all participants have executed, the fold is computed and written to each. (R318) -/
  | collectiveCombine (cmd : Nat)
  /-- A collective participant's wait exceeds FEBOUND and raises FE_WAIT. (R319) -/
  | collectiveWaitExpiry (cmd : Nat)
  /-- A blocking qpush reaches QBOUND and returns FULL. (R323) -/
  | qpushBoundExpiry (g : Nat)
  /-- A waiting qpush finds a free entry or is deferred to the overflow area. (R323) -/
  | qpushEntryFreed (g : Nat)
  /-- At grid end a deferred packet is submitted once its queue has a free entry. (R324) -/
  | deferredSubmit (grid : Nat)
  /-- An idle runner looks for work again after 64 cycles. (R328) -/
  | runnerIdleRetry (g : Nat)
  /-- A yielded task's awaited operation completes and its record enters a deque. (R345) -/
  | yieldOperationComplete (rec : Nat)
  /-- A task runs past its watchdog limit and raises TASK_WATCHDOG. (R40) -/
  | taskWatchdogExpiry (g : Nat)
  /-- The TWE performs a view's fold turn into its scope's accumulator or the parent view. (R341) -/
  | mergeTurn (turn : Nat)
  /-- The firmware core parses one packet per lane from a band of queues. (R362) -/
  | firmwarePass
  /-- Every 4,096 ticks waiting packets' counters are read again. (R363) -/
  | dependencyRecheck (part : Nat)
  /-- A NOP packet executes and completes. (R358) -/
  | packetNop (pkt : Nat)
  /-- A SIGNAL packet adds V to a signal through its Ant. (R358) -/
  | signal (pkt : Nat)
  /-- A LAUNCH packet is checked and its grid placed team by team. (R358) -/
  | launch (pkt : Nat)
  /-- A COPY packet is walked by the TWE of the partition's lowest cluster. (R358) -/
  | copy (pkt : Nat)
  /-- A WAIT packet holds its queue until its signal reaches V. (R358) -/
  | packetWait (pkt : Nat)
  /-- A WAIT packet's signal is re-read every 4,096 ticks or after an update. (R358) -/
  | waitRecheck (pkt : Nat)
  /-- A TIMESTAMP packet writes the GTC at execution. (R358) -/
  | timestamp (pkt : Nat)
  /-- After a packet completes and GTC ≥ H + 2, its decrement addresses are decremented. (R364) -/
  | completionDecrement (pkt : Nat)
  /-- The dispatcher serves restore, main and back-fill lists, placing or pre-empting teams. (R365) -/
  | dispatchRound (part : Nat)
  /-- A pre-empted group reaches its save point and its context is saved. (R296) -/
  | savePoint (g : Nat)
  /-- The host requests that a team be saved. (R375) -/
  | hostSaveRequest (team : Nat)
  /-- VDEV_FCMD resume answers the oldest halt record as RETRY. (R372) -/
  | resume (vf : Nat)
  /-- VDEV_FCMD resume-skip answers the oldest halt record as IGNORE. (R372) -/
  | resumeSkip (vf : Nat)
  /-- VDEV_FCMD kill ends the halted group's whole grid. (R372) -/
  | kill (vf : Nat)
  /-- A write to a queue doorbell submits packets and wakes a collapsed virtual device. (R402) -/
  | doorbell (vf queue : Nat) (packet : BitVec 512)
  /-- Setting VDEV_CTL.BIND binds a virtual function to its partition. (R400) -/
  | bind (vf : Nat)
  /-- Clearing VDEV_CTL.BIND resets and unbinds the virtual device. (R400) -/
  | unbind (vf : Nat)
  /-- VDEV_CMD.COLLAPSE begins collapse of an idle virtual device. (R406) -/
  | collapse (vf : Nat)
  /-- A virtual device idle for its IDLE time begins to collapse. (R406) -/
  | idleCollapse (vf : Nat)
  /-- A collapse finishes; the partition is gated when all its devices are collapsed. (R406) -/
  | collapseComplete (vf : Nat)
  /-- A write to VDEV_WAKE wakes a collapsed virtual device. (R407) -/
  | wake (vf : Nat)
  /-- A waking virtual device reaches STATE 1 and its queues are parsed. (R407) -/
  | wakeComplete (vf : Nat)
  /-- A PART_CFGn write with VALID = 1 creates a partition. (R396) -/
  | partitionCreate (part : Nat) (value : Word64)
  /-- A PART_CFGn write with VALID = 0 tears a partition down. (R399) -/
  | partitionTeardown (part : Nat)
  /-- PART_RESET bit n begins a reset of partition n. (R398) -/
  | partitionReset (part : Nat)
  /-- A partition reset or teardown finishes and signals its PF vector. (R398) -/
  | partitionResetComplete (part : Nat)
  /-- A host write to a register with no behaviour of its own, by its access codes. (R5) -/
  | registerWrite (fn : HostFn) (off : Nat) (value : Word64)
  /-- A host read of device memory served at home without a lease. (R225) -/
  | hostBar4Read (fn : HostFn) (off n : Nat)
  /-- A host write to device memory made visible at its home. (R225) -/
  | hostBar4Write (fn : HostFn) (off : Nat) (bytes : List Byte)
  /-- A host PCIe FetchAdd applied by the home Ant. (R225) -/
  | hostFetchadd (fn : HostFn) (off bits : Nat) (v : Word64)
  /-- A host PCIe Swap applied by the home Ant. (R225) -/
  | hostSwap (fn : HostFn) (off bits : Nat) (v : Word64)
  /-- A host PCIe CAS applied by the home Ant; 128-bit CAS is refused. (R225) -/
  | hostCas (fn : HostFn) (off bits : Nat) (cmp v : Word64)
  /-- A peer access arrives from the fabric and is checked against the destination partition. (R424) -/
  | peerRequest (part addr n : Nat) (ask : PeerAsk)
  /-- A switch's answer to a fence token arrives, resolving Hs. (R222) -/
  | fenceTokenAnswer (token : Nat)
  /-- The completion of a PCIe flush read arrives, ordering host stores. (R223) -/
  | flushReadCompletion (token : Nat)
  /-- A fabric port goes down and its traffic is held. (R425) -/
  | fabricPortDown (port : Nat)
  /-- A fabric port retrains, replaying and releasing held traffic. (R425) -/
  | fabricPortRetrain (port : Nat)
  /-- An unrecoverable Futor link error resets partitions on both dies. (R426) -/
  | futorLinkError (die0 die1 : Nat)
  /-- The hub measures every follower, realigning and resetting partitions when skew exceeds 1 tick. (R379) -/
  | gtcMeasure (offsets : List Int)
  /-- A write to SNAP_AT arms a snapshot latch. (R393) -/
  | snapAtWrite (t : Word64)
  /-- Writing 1 to HUB_SNAP.GO arms a latch at GTC + 256. (R393) -/
  | hubSnapGo
  /-- A rising edge on the SNAP pin arms a latch when enabled. (R393) -/
  | snapPin
  /-- At tick T every block latches its counters and SEQ rises. (R393) -/
  | snapshotLatch
  /-- A write to PWR_STEP.LEVEL commands a power-step level. (R409) -/
  | powerStepCommand (level : BitVec 3)
  /-- A change on the PSTEP2:0 pins commands a level. (R409) -/
  | pstepPins (level : BitVec 3)
  /-- Every 10 µs the controller measures power and enters or releases a throttle sub-step. (R411) -/
  | powerMeasurement (watts : BitVec 16)
  /-- 1 ms after a level becomes effective, an unmet level sets UNMET. (R411) -/
  | levelDeadline
  /-- A supply sag halves the common clock within 20 ns. (R415) -/
  | sag
  /-- After supply recovery the clock is restored and SAGCNT rises. (R415) -/
  | sagRecovery
  /-- An assertion of the PWRFAIL pin stops issue and starts the Cicada drain. (R416) -/
  | pwrfail (ns : Nat)
  /-- The Cicada drain ends and the package stays stopped. (R417) -/
  | drainComplete (railsHeld : Bool)
  /-- Writing 1 to PWR_DRAIN.VALID discards the drain image. (R414) -/
  | drainDiscard
  /-- A cold reset restarts the GTC and runs the boot ROM checks. (R427) -/
  | coldReset
  /-- Writing HUB_BOOT.REBOOT while FAIL re-runs the boot ROM. (R428) -/
  | reboot
  /-- SPDM GET_VERSION request over DOE. (R429) -/
  | getVersion
  /-- SPDM GET_CAPABILITIES request. (R429) -/
  | getCapabilities
  /-- SPDM NEGOTIATE_ALGORITHMS request. (R429) -/
  | negotiateAlgorithms
  /-- SPDM GET_DIGESTS request. (R429) -/
  | getDigests
  /-- SPDM GET_CERTIFICATE request. (R429) -/
  | getCertificate
  /-- SPDM CHALLENGE request signed with the device key. (R429) -/
  | challenge (nonce : Nat)
  /-- SPDM GET_MEASUREMENTS request returning image, key and partition measurements. (R429) -/
  | getMeasurements (ask : MeasureAsk)
  /-- Side-port command 0x01 returns die temperatures. (R430) -/
  | sideReadTemperature (temps : List Byte)
  /-- Side-port command 0x02 returns measured power. (R430) -/
  | sideReadPower
  /-- Side-port command 0x03 returns the effective level. (R430) -/
  | sideReadLevel
  /-- Side-port command 0x10 commands a power-step level. (R430) -/
  | sidePortLevelWrite (level : Byte)
  /-- Side-port command 0x11 returns the side-port level last written. (R430) -/
  | sideReadPortLevel
  /-- An uncorrectable error arises in a sector of device memory or a word of scratchpad and is held there until the data are replaced. (R465) -/
  | uncorrectableError (place : ErrorPlace) (addr : Nat)
  /-- The GTC reaches the time T that a fence, xfence, release, acquire floor, qpush, bar.arr or yield waits for, and the waiting word or access proceeds. (R217) -/
  | horizonTimeReached (g : Nat)
  deriving DecidableEq, Repr

end Sys2Proof
end

