-- ==== Sys2Proof/WellFormed.lean ====
section
/-! DEFINITION. Which terms of `Instr` are instruction words (R71 to R74, R76 to R89, and each word's own description). An
ill-formed term is refused with the name of the check that it fails; such a word is an ILLEGAL_OP. -/

namespace Sys2Proof

/-- The checks that make a word an ILLEGAL_OP (R74, R87). -/
inductive Illegal where
  /-- A reserved op6 or op10. -/
  | opcode
  /-- An unlisted function code. -/
  | function
  /-- A field that must be 0 is not 0. -/
  | field
  /-- k0 named as a mask destination (R17). -/
  | k0
  /-- A shift count outside 0 to 63 (R107). -/
  | shift
  /-- An unlisted condition, or its register field (R72). -/
  | cond
  /-- A group register that may not be named (R167). -/
  | register
  /-- A type4 that the word does not accept (R79). -/
  | type
  /-- A mod8 that the word does not accept (R80, R81). -/
  | modifier
  /-- An operand field that breaks R76, R77, R85 or R153. -/
  | operand
  /-- ext14 (R75, R82). -/
  | ext
  /-- A field of an L.M word (R84, R199, R302). -/
  | memory
  /-- A trailer slot (R89). -/
  | trailer
  deriving DecidableEq, Repr

/-- type4 code of a type (R79). -/
def LType.code : LType → BitVec 4
  | .i32 => 0 | .n32 => 1 | .i64 => 2 | .n64 => 3 | .f32 => 4 | .bf16x2 => 5 | .f16x2 => 6 | .i16 => 7
  | .n16 => 8 | .i8 => 9 | .n8 => 10 | .e4m3 => 11 | .e5m2 => 12 | .e3m2 => 13 | .q4g => 14 | .q3g => 15

/-- The type of a code (R79). -/
def LType.ofCode (c : BitVec 4) : LType :=
  match c.toNat with
  | 0 => .i32 | 1 => .n32 | 2 => .i64 | 3 => .n64 | 4 => .f32 | 5 => .bf16x2 | 6 => .f16x2 | 7 => .i16
  | 8 => .n16 | 9 => .i8 | 10 => .n8 | 11 => .e4m3 | 12 => .e5m2 | 13 => .e3m2 | 14 => .q4g | _ => .q3g

/-- A type held in a register pair (R49). -/
def LType.is64 (t : LType) : Bool := t == .i64 || t == .n64

/-- bf16x2 or f16x2 (R47). -/
def LType.packed (t : LType) : Bool := t == .bf16x2 || t == .f16x2

/-- How a lane word uses an operand field. -/
inductive Use where
  /-- Not used: all zeros (R76). -/
  | none
  /-- A source of 32 bits, or of 64 bits when `wide`. -/
  | src (wide : Bool)
  /-- A fixed-latency destination: MRF, direct or indirect, or ORF (R124, R125). -/
  | dst (wide : Bool)
  /-- A direct MRF register (R85). -/
  | direct
  /-- A mask destination, not k0, or a mask source (R153). -/
  | maskDst
  | maskSrc
  /-- A class 0 special operand (R234). -/
  | scalar
  /-- A class 0 special, or an integer constant of class 2 (R161). -/
  | scalarOrInt
  /-- The inline constant `#0` or `#1` (R145). -/
  | zeroOrOne
  /-- An accumulator slot number (R234). -/
  | slot
  deriving DecidableEq, Repr

/-- A special operand that R77 lists. -/
def specialOk (cls : BitVec 5) (idx : BitVec 6) (wide : Bool) : Bool :=
  match cls.toNat with
  | 0 => true
  | 1 => decide (idx.toNat ≤ 9)
  | 2 => !(wide && decide (32 ≤ idx.toNat))
  | _ => false

/-- Whether an operand may stand in a field of this use (R76, R77, R85, R125, R153, R161, R234). -/
def Use.ok (u : Use) (o : Operand) : Bool :=
  match u, o with
  | .none, .mrf n => n == 0
  | .src _, .mrf _ => true
  | .src wide, .orf n => !(wide && n == 7)
  | .src wide, .lrf n => !(wide && n == 3)
  | .src wide, .special c i => specialOk c i wide
  | .src _, .indirect _ _ => true
  | .dst _, .mrf _ => true
  | .dst wide, .orf n => !(wide && n == 7)
  | .dst _, .indirect _ _ => true
  | .direct, .mrf _ => true
  | .maskDst, .mrf n => decide (n.toNat < 16) && n != 0
  | .maskSrc, .mrf n => decide (n.toNat < 16)
  | .scalar, .special c _ => c == 0
  | .scalarOrInt, .special c i => c == 0 || (c == 2 && decide (i.toNat < 32))
  | .zeroOrOne, .special c i => c == 2 && (i == 0 || i == 1)
  | .slot, .mrf _ => true
  | _, _ => false

/-- What a lane word of layout L.A accepts. -/
structure LaneSpec where
  types : List LType
  /-- Accepted values of mod8. -/
  mod : BitVec 8 → Bool
  d : Use
  a : Use
  b : Use
  c : Use
  ext : BitVec 14 → Bool

/-- The eight integer types (R131). -/
def intAll : List LType := [.i32, .n32, .i64, .n64, .i16, .n16, .i8, .n8]
/-- The signed types (R131). -/
def intSigned : List LType := [.i32, .i64, .i16, .i8]
/-- The word types (R131). -/
def intWord : List LType := [.i32, .n32, .i64, .n64]
/-- The types of `sel`, `shfl` and `bcast` (R157, R159). -/
def moveTypes : List LType := [.i32, .n32, .i64, .n64, .f32, .bf16x2, .f16x2]

/-- mod8 with no bit outside `m`. -/
def modIn (m : BitVec 8) (x : BitVec 8) : Bool := x &&& ~~~m == 0

/-- The op10 and fields of a word of layout L.A. -/
def laneForm : Instr → Option (BitVec 10 × LaneOp)
  | .iadd w => some (0x000, w)
  | .isub w => some (0x001, w)
  | .imul w => some (0x002, w)
  | .imulh w => some (0x003, w)
  | .imad w => some (0x004, w)
  | .idiv w => some (0x005, w)
  | .irem w => some (0x006, w)
  | .iabs w => some (0x007, w)
  | .imin w => some (0x008, w)
  | .imax w => some (0x009, w)
  | .laneAnd w => some (0x00A, w)
  | .laneOr w => some (0x00B, w)
  | .laneXor w => some (0x00C, w)
  | .not w => some (0x00D, w)
  | .laneShl w => some (0x00E, w)
  | .laneShr w => some (0x00F, w)
  | .laneSra w => some (0x010, w)
  | .lanePopc w => some (0x011, w)
  | .laneClz w => some (0x012, w)
  | .bfe w => some (0x013, w)
  | .bfi w => some (0x014, w)
  | .mov w => some (0x015, w)
  | .movs w => some (0x016, w)
  | .fadd w => some (0x040, w)
  | .fsub w => some (0x041, w)
  | .fmul w => some (0x042, w)
  | .ffma w => some (0x043, w)
  | .fmin w => some (0x044, w)
  | .fmax w => some (0x045, w)
  | .fdiv w => some (0x046, w)
  | .fsqrt w => some (0x047, w)
  | .frcp w => some (0x048, w)
  | .frsq w => some (0x049, w)
  | .fex2 w => some (0x04A, w)
  | .flg2 w => some (0x04B, w)
  | .fsin w => some (0x04C, w)
  | .fcos w => some (0x04D, w)
  | .ftanh w => some (0x04E, w)
  | .hadd w => some (0x060, w)
  | .hmul w => some (0x061, w)
  | .hfma w => some (0x062, w)
  | .hmin w => some (0x063, w)
  | .hmax w => some (0x064, w)
  | .cvt w => some (0x080, w)
  | .qnt w => some (0x081, w)
  | .dqn w => some (0x082, w)
  | .pk6 w => some (0x083, w)
  | .up6 w => some (0x084, w)
  | .pk4 w => some (0x085, w)
  | .up4 w => some (0x086, w)
  | .icmp w => some (0x0A0, w)
  | .fcmp w => some (0x0A1, w)
  | .sel w => some (0x0A2, w)
  | .kwr w => some (0x0A3, w)
  | .shfl w => some (0x0C0, w)
  | .bcast w => some (0x0C1, w)
  | .vote w => some (0x0C2, w)
  | .radd w => some (0x0C3, w)
  | .rmin w => some (0x0C4, w)
  | .rmax w => some (0x0C5, w)
  | .scan w => some (0x0C6, w)
  | .rdst w => some (0x0D0, w)
  | .clst w => some (0x0D1, w)
  | .mxQ w => some (0x180, w)
  | .mxZero w => some (0x181, w)
  | .mxRd w => some (0x182, w)
  | .mxWr w => some (0x183, w)
  | .mxDrain w => some (0x184, w)
  | .rng w => some (0x1C0, w)
  | _ => none

/-- The op10 and fields of a word of layout L.M. -/
def memForm : Instr → Option (BitVec 10 × MemOp)
  | .ld w => some (0x100, w)
  | .st w => some (0x101, w)
  | .ldF w => some (0x102, w)
  | .ldFe w => some (0x103, w)
  | .stEf w => some (0x104, w)
  | .stF w => some (0x105, w)
  | .feSet w => some (0x106, w)
  | .feClr w => some (0x107, w)
  | .feProbe w => some (0x108, w)
  | .pref w => some (0x109, w)
  | .pin w => some (0x10A, w)
  | .unpin w => some (0x10B, w)
  | .lrefill w => some (0x10C, w)
  | .atom w => some (0x140, w)
  | .red w => some (0x141, w)
  | _ => none

/-- Modifier bits of R80: r round, s sat, n and a the negate and absolute bits of A and B, z flush. -/
def mRound : BitVec 8 := 0xC0
def mSat : BitVec 8 := 0x20
def mA : BitVec 8 := 0x18
def mB : BitVec 8 := 0x06
def mFtz : BitVec 8 := 0x01

/-- A two-source integer word (R131). -/
def specInt2 (ts : List LType) (sat : Bool) (w : LaneOp) : LaneSpec :=
  { types := ts, mod := modIn (if sat then mSat else 0), d := .dst w.typ.is64, a := .src w.typ.is64,
    b := .src w.typ.is64, c := .none, ext := (· == 0) }

/-- A one-source integer word (R131). -/
def specInt1 (ts : List LType) (sat : Bool) (w : LaneOp) : LaneSpec :=
  { specInt2 ts sat w with b := .none }

/-- A shift: B is one 32-bit register (R134, R135). -/
def specShift (w : LaneOp) : LaneSpec := { specInt2 intWord false w with b := .src false }

/-- An f or h word with the sources that `n` counts (R138, R143). -/
def specFloat (ts : List LType) (m : BitVec 8) (n : Nat) : LaneSpec :=
  { types := ts, mod := modIn m, d := .dst false, a := .src false, b := if 2 ≤ n then .src false else .none,
    c := if 3 ≤ n then .src false else .none, ext := (· == 0) }

/-- The types that `cvt` converts (R145). -/
def cvtTypes : List LType :=
  [.i32, .n32, .i64, .n64, .i16, .n16, .i8, .n8, .f32, .bf16x2, .f16x2, .e4m3, .e5m2, .e3m2]

/-- The source type of a `cvt`, from ext14 bits 3:0 (R82). -/
def cvtSrc (w : LaneOp) : LType := LType.ofCode (w.ext.extractLsb' 0 4)

/-- `cvt` (R144, R145). -/
def specCvt (w : LaneOp) : LaneSpec :=
  { types := cvtTypes, mod := modIn (mRound ||| mSat ||| mFtz), d := .dst w.typ.is64, a := .src (cvtSrc w).is64,
    b := if (cvtSrc w).packed then (if w.typ.packed then .none else .zeroOrOne)
         else if w.typ.packed then .src (cvtSrc w).is64 else .none,
    c := .none,
    ext := fun x => x.extractLsb' 4 10 == 0 && cvtTypes.contains (cvtSrc w) && cvtSrc w != w.typ }

/-- mod8 of a reduction (R163) or of `scan` (R164). -/
def modReduce (add : Bool) (t : LType) (x : BitVec 8) : Bool :=
  if t == .f32 then modIn ((if add then mRound else 0) ||| mFtz) x else x == 0

def modScan (t : LType) (x : BitVec 8) : Bool :=
  x.extractLsb' 1 3 == 0 && x.extractLsb' 4 2 != 3 &&
    modReduce (x.extractLsb' 4 2 == 0) t (x &&& 0xC1)

/-- A word that works across lanes or compares, with its own field uses. -/
def specOf (ts : List LType) (mod : BitVec 8 → Bool) (d a b c : Use) : LaneSpec :=
  { types := ts, mod := mod, d := d, a := a, b := b, c := c, ext := (· == 0) }

/-- A matrix word: the slot base fills ext14 bits 13:6 (R234). -/
def specMx (t : LType) (mod : BitVec 8 → Bool) (d a b c : Use) (low : Bool) : LaneSpec :=
  { types := [t], mod := mod, d := d, a := a, b := b, c := c,
    ext := fun x => low || x.extractLsb' 0 6 == 0 }

/-- mod8 of `mx.drain` (R247). -/
def modDrain (x : BitVec 8) : Bool :=
  modIn 0x3B x && (x.getLsbD 4 || x.extractLsb' 0 2 == 0)

/-- What each word of layout L.A accepts (R131, R138, R143, R144, R152, R155 to R166, R234, R247). -/
def laneSpec (i : Instr) : Option LaneSpec :=
  match i with
  | .iadd w => some (specInt2 intAll true w)
  | .isub w => some (specInt2 intAll true w)
  | .imul w => some (specInt2 intAll true w)
  | .imulh w => some (specInt2 intAll false w)
  | .imad w => some ({ specInt2 intAll true w with c := .src w.typ.is64 })
  | .idiv w => some (specInt2 intAll false w)
  | .irem w => some (specInt2 intAll false w)
  | .iabs w => some (specInt1 intSigned true w)
  | .imin w => some (specInt2 intAll false w)
  | .imax w => some (specInt2 intAll false w)
  | .laneAnd w => some (specInt2 intWord false w)
  | .laneOr w => some (specInt2 intWord false w)
  | .laneXor w => some (specInt2 intWord false w)
  | .not w => some (specInt1 intWord false w)
  | .laneShl w => some (specShift w)
  | .laneShr w => some (specShift w)
  | .laneSra w => some (specShift w)
  | .lanePopc w => some (specInt1 intWord false w)
  | .laneClz w => some (specInt1 intWord false w)
  | .bfe w => some (specShift w)
  | .bfi w => some ({ specInt2 intWord false w with c := .src false })
  | .mov w => some (specInt1 (intAll ++ [.f32, .bf16x2, .f16x2]) false w)
  | .movs w => some ({ specInt1 intWord false w with a := .src false })
  | .fadd _ => some (specFloat [.f32] (mRound ||| mSat ||| mA ||| mB ||| mFtz) 2)
  | .fsub _ => some (specFloat [.f32] (mRound ||| mSat ||| mA ||| mB ||| mFtz) 2)
  | .fmul _ => some (specFloat [.f32] (mRound ||| mSat ||| mA ||| mB ||| mFtz) 2)
  | .ffma _ => some (specFloat [.f32] (mRound ||| mSat ||| mA ||| mB ||| mFtz) 3)
  | .fmin _ => some (specFloat [.f32] (mA ||| mB ||| mFtz) 2)
  | .fmax _ => some (specFloat [.f32] (mA ||| mB ||| mFtz) 2)
  | .fdiv _ => some (specFloat [.f32] (mRound ||| mSat ||| mA ||| mB ||| mFtz) 2)
  | .fsqrt _ => some (specFloat [.f32] (mRound ||| mSat ||| mA ||| mFtz) 1)
  | .frcp _ => some (specFloat [.f32] (mRound ||| mSat ||| mA ||| mFtz) 1)
  | .frsq _ => some (specFloat [.f32] (mRound ||| mSat ||| mA ||| mFtz) 1)
  | .fex2 _ => some (specFloat [.f32] (mSat ||| mA ||| mFtz) 1)
  | .flg2 _ => some (specFloat [.f32] (mA ||| mFtz) 1)
  | .fsin _ => some (specFloat [.f32] (mA ||| mFtz) 1)
  | .fcos _ => some (specFloat [.f32] (mA ||| mFtz) 1)
  | .ftanh _ => some (specFloat [.f32] (mA ||| mFtz) 1)
  | .hadd _ => some (specFloat [.bf16x2, .f16x2] (mRound ||| mSat ||| mA ||| mB ||| mFtz) 2)
  | .hmul _ => some (specFloat [.bf16x2, .f16x2] (mRound ||| mSat ||| mA ||| mB ||| mFtz) 2)
  | .hfma _ => some (specFloat [.bf16x2, .f16x2] (mRound ||| mSat ||| mA ||| mB ||| mFtz) 3)
  | .hmin _ => some (specFloat [.bf16x2, .f16x2] (mA ||| mB ||| mFtz) 2)
  | .hmax _ => some (specFloat [.bf16x2, .f16x2] (mA ||| mB ||| mFtz) 2)
  | .cvt w => some (specCvt w)
  | .qnt _ => some (specFloat [.q4g, .q3g] (mRound ||| mFtz) 2)
  | .dqn _ => some (specFloat [.q4g, .q3g] (mRound ||| mSat ||| mFtz) 2)
  | .pk6 _ => some (specFloat [.e3m2] 0 1)
  | .up6 _ => some (specFloat [.e3m2] 0 1)
  | .pk4 _ => some (specFloat [.q4g, .q3g] 0 1)
  | .up4 _ => some (specFloat [.q4g, .q3g] 0 1)
  | .icmp w => some (specOf intAll (fun x => decide (x.toNat ≤ 5)) .maskDst (.src w.typ.is64) (.src w.typ.is64) .none)
  | .fcmp _ => some (specOf [.f32] (fun x => decide (x.toNat ≤ 7)) .maskDst (.src false) (.src false) .none)
  | .sel w => some (specOf moveTypes (· == 0) (.dst w.typ.is64) (.src w.typ.is64) (.src w.typ.is64) .maskSrc)
  | .kwr _ => some (specOf [.i32] (· == 0) .maskDst (.src false) .none .none)
  | .shfl w => some (specOf moveTypes (fun x => decide (x.toNat ≤ 3)) .direct (.src w.typ.is64) (.src false) .none)
  | .bcast w => some (specOf moveTypes (· == 0) .direct (.src w.typ.is64) .scalarOrInt .none)
  | .vote w => some (if w.mod.toNat == 2 then specOf [.n32, .n64] (fun _ => true) (.dst w.typ.is64) (.src w.typ.is64) .none .none
      else specOf [.i32] (fun x => decide (x.toNat ≤ 1)) .maskDst (.src false) .none .none)
  | .radd w => some (specOf [.i32, .n32, .i64, .n64, .f32] (modReduce true w.typ) (.dst w.typ.is64) (.src w.typ.is64) .none .none)
  | .rmin w => some (specOf [.i32, .n32, .i64, .n64, .f32] (modReduce false w.typ) (.dst w.typ.is64) (.src w.typ.is64) .none .none)
  | .rmax w => some (specOf [.i32, .n32, .i64, .n64, .f32] (modReduce false w.typ) (.dst w.typ.is64) (.src w.typ.is64) .none .none)
  | .scan w => some (specOf [.i32, .n32, .i64, .n64, .f32] (modScan w.typ) (.dst w.typ.is64) (.src w.typ.is64) .none .none)
  | .rdst _ => some (specOf [.i32] (· == 0) (.dst false) .none .none .none)
  | .clst _ => some ({ specOf [.i32] (· == 0) .none .none .none .none with ext := fun x => x.extractLsb' 7 7 == 0 })
  | .mxQ w => some (if w.mod == 0 then specMx .i32 (fun _ => true) .none .direct .scalar .scalar true
      else specMx .i32 (· == 0x80) .slot .none .scalar .scalar true)
  | .mxZero _ => some (specMx .i32 (· == 0) .none .none .none .none false)
  | .mxRd _ => some (specMx .f32 (· == 0) .direct .none .none .none true)
  | .mxWr _ => some (specMx .f32 (· == 0) .direct .none .none .none true)
  | .mxDrain w => some (specMx (if w.typ == .e4m3 then .e4m3 else .bf16x2) modDrain .none .direct
      (if w.typ == .e4m3 then .scalar else .none) (if w.mod.getLsbD 4 then .scalar else .none) false)
  | .rng _ => some ({ specOf [.n32, .f32] (· == 0) (.dst false) (.src true) (.src false) .none with ext := (· == 0) })
  | _ => none

/-- The first check of layout L.A that the fields fail, or none (R79, R80, R76, R75). -/
def LaneSpec.illegal (sp : LaneSpec) (w : LaneOp) : Option Illegal :=
  if !sp.types.contains w.typ then some .type
  else if !sp.mod w.mod then some .modifier
  else if !(sp.d.ok w.d && sp.a.ok w.a && sp.b.ok w.b && sp.c.ok w.c) then some .operand
  else if !sp.ext w.ext then some .ext
  else none

/-- The types that each atomic sub-operation accepts (R304). -/
def atomTypes (sub : BitVec 8) : List LType :=
  match sub.toNat with
  | 0x00 => intWord
  | 0x01 => [.f32]
  | 0x02 => [.i32, .i64, .f32]
  | 0x03 => [.i32, .i64, .f32]
  | 0x04 => [.n32, .n64]
  | 0x05 => [.n32, .n64]
  | 0x06 => intWord
  | 0x07 => intWord
  | 0x08 => intWord
  | 0x09 => intWord ++ [.f32]
  | 0x0A => intWord ++ [.f32]
  | 0x0B => [.n32, .n64]
  | 0x0C => [.n32, .n64]
  | 0x0D => [.f32]
  | _ => []

/-- An L.M word other than `atom` and `red`: spaces, widths and orders allowed, and whether D must be 0 (R199). -/
def memPlain (spaces : List Space) (widths : List Width) (ordered zeroD : Bool) (w : MemOp) : Bool :=
  w.typ == .i32 && w.mod == 0 && spaces.contains w.space && widths.contains w.width &&
    (ordered || w.order == 0) && (!zeroD || w.d == 0)

def allSpaces : List Space := [.global, .scratch, .noLease, .view]
def allWidths : List Width := [.b1, .b2, .b4, .b8, .b16]

/-- The fields that each L.M word accepts (R199, R302). -/
def memOk (i : Instr) : Bool :=
  match i with
  | .ld w => memPlain allSpaces allWidths true false w
  | .st w => memPlain allSpaces allWidths true false w
  | .ldF w => memPlain [.scratch] [.b8, .b16] true false w
  | .ldFe w => memPlain [.scratch] [.b8, .b16] true false w
  | .stEf w => memPlain [.scratch] [.b8, .b16] true false w
  | .stF w => memPlain [.scratch] [.b8, .b16] true false w
  | .feSet w => memPlain [.scratch] [.b8, .b16] false true w
  | .feClr w => memPlain [.scratch] [.b8, .b16] false true w
  | .feProbe w => memPlain [.scratch] [.b8, .b16] false false w
  | .pref w => memPlain [.global, .noLease] allWidths false true w && decide (w.hint.toNat ≤ 1)
  | .pin w => memPlain [.global, .noLease] allWidths false false w
  | .unpin w => memPlain [.global, .noLease] allWidths false false w
  | .lrefill w => memPlain [.scratch] [.b8] false false w
  | .atom w => atomOk w
  | .red w => atomOk w && w.mod != 0x0A
  | _ => true
where
  /-- `atom` and `red` (R302). -/
  atomOk (w : MemOp) : Bool :=
    (atomTypes w.mod).contains w.typ && (w.space == .global || w.space == .noLease) &&
      w.width == (if w.typ.is64 then .b8 else .b4) && w.hint == 0

/-- The first check that a word fails, or none when it is an instruction. Events are no words and always pass. -/
def illegal (i : Instr) : Option Illegal :=
  match laneForm i, laneSpec i with
  | some (_, w), some sp => sp.illegal w
  | _, _ =>
    match i with
    | .laneLi w => if (Use.dst false).ok w.d then none else some .operand
    | .shli _ _ n => if n.toNat < 64 then none else some .shift
    | .shri _ _ n => if n.toNat < 64 then none else some .shift
    | .srai _ _ n => if n.toNat < 64 then none else some .shift
    | .bCc c a _ =>
      if c.toNat == 0 then (if a == 0 then none else some .cond)
      else if c.toNat < 5 then none
      else if c.toNat < 8 then (if a.toNat < 16 then none else some .cond) else some .cond
    | .kand d _ _ => if d == 0 then some .k0 else none
    | .kor d _ _ => if d == 0 then some .k0 else none
    | .kxor d _ _ => if d == 0 then some .k0 else none
    | .kandn d _ _ => if d == 0 then some .k0 else none
    | .knot d _ => if d == 0 then some .k0 else none
    | .kmovk d _ => if d == 0 then some .k0 else none
    | .kset d => if d == 0 then some .k0 else none
    | .rdsr _ b => if b.toNat < 8 then none else some .register
    | .wrsr _ b => if b.toNat < 4 then none else some .register
    | j => if memOk j then none else some .memory

/-- The word is an instruction. -/
def wf (i : Instr) : Bool := (illegal i).isNone

/-- The first check that a trailer fails (R89): token 9 to 15 is a RUN_FORM and is not tested here. -/
def Trailer.named (t : Trailer) : Bool := decide (t.regs.length ≤ 6) && decide (t.masks.length ≤ 4) && !t.masks.contains 0

end Sys2Proof
end

