-- ==== Sys2Proof/Decode.lean ====
section
/-! DEFINITION. From words to instructions and back (R68 to R90). The decoder is total: a word that is no instruction is
refused with the name of the check it fails, and is an ILLEGAL_OP. The encoder follows the same tables. -/

namespace Sys2Proof

/-- A decoded word, refused by the name of the check it fails (R74, R87). -/
def accept (i : Instr) : Except Illegal Instr :=
  match illegal i with
  | none => .ok i
  | some e => .error e

/-- Accepts `i` when the fields that must be 0 are 0 (R71, R73, R74). -/
def acceptZero (zero : Bool) (i : Instr) : Except Illegal Instr :=
  if zero then accept i else .error .field

/-! The fields of a scalar word (R68). -/

def fOp (w : BitVec 32) : BitVec 6 := w.extractLsb' 26 6
def fD (w : BitVec 32) : BitVec 6 := w.extractLsb' 20 6
def fA (w : BitVec 32) : BitVec 6 := w.extractLsb' 14 6
def fB (w : BitVec 32) : BitVec 6 := w.extractLsb' 8 6
def fFn8 (w : BitVec 32) : BitVec 8 := w.extractLsb' 0 8
def fImm14 (w : BitVec 32) : BitVec 14 := w.extractLsb' 0 14
def fImm20 (w : BitVec 32) : BitVec 20 := w.extractLsb' 0 20
def fCond (w : BitVec 32) : BitVec 4 := w.extractLsb' 22 4
def fBa (w : BitVec 32) : BitVec 6 := w.extractLsb' 16 6
def fDisp (w : BitVec 32) : BitVec 16 := w.extractLsb' 0 16
def fKd (w : BitVec 32) : BitVec 4 := w.extractLsb' 22 4
def fKa (w : BitVec 32) : BitVec 4 := w.extractLsb' 18 4
def fKb (w : BitVec 32) : BitVec 4 := w.extractLsb' 14 4
def fAwait (w : BitVec 32) : BitVec 8 := w.extractLsb' 18 8
def fL (w : BitVec 32) : BitVec 1 := w.extractLsb' 17 1
def fIdx (w : BitVec 32) : BitVec 17 := w.extractLsb' 0 17
def fB2 (w : BitVec 32) : BitVec 6 := w.extractLsb' 2 6
def fLow2 (w : BitVec 32) : BitVec 2 := w.extractLsb' 0 2
def fFn10 (w : BitVec 32) : BitVec 10 := w.extractLsb' 16 10
def fXa (w : BitVec 32) : BitVec 6 := w.extractLsb' 10 6
def fXb (w : BitVec 32) : BitVec 6 := w.extractLsb' 4 6
def fImm4 (w : BitVec 32) : BitVec 4 := w.extractLsb' 0 4
def fTok (w : BitVec 32) : BitVec 8 := w.extractLsb' 4 8

/-- op6 0x00 (R70, R105). -/
def decR0 (w : BitVec 32) : Except Illegal Instr :=
  match (fFn8 w).toNat with
  | 0x00 => accept (.add (fD w) (fA w) (fB w))
  | 0x01 => accept (.sub (fD w) (fA w) (fB w))
  | 0x02 => accept (.and (fD w) (fA w) (fB w))
  | 0x03 => accept (.or (fD w) (fA w) (fB w))
  | 0x04 => accept (.xor (fD w) (fA w) (fB w))
  | 0x05 => accept (.andn (fD w) (fA w) (fB w))
  | 0x06 => accept (.shl (fD w) (fA w) (fB w))
  | 0x07 => accept (.shr (fD w) (fA w) (fB w))
  | 0x08 => accept (.sra (fD w) (fA w) (fB w))
  | 0x09 => accept (.min (fD w) (fA w) (fB w))
  | 0x0A => accept (.max (fD w) (fA w) (fB w))
  | 0x0B => accept (.minn (fD w) (fA w) (fB w))
  | 0x0C => accept (.maxn (fD w) (fA w) (fB w))
  | 0x0D => accept (.seq (fD w) (fA w) (fB w))
  | 0x0E => accept (.slt (fD w) (fA w) (fB w))
  | 0x0F => accept (.sltn (fD w) (fA w) (fB w))
  | _ => .error .function

/-- op6 0x01 (R70, R106). -/
def decR1 (w : BitVec 32) : Except Illegal Instr :=
  match (fFn8 w).toNat with
  | 0x00 => accept (.mul (fD w) (fA w) (fB w))
  | 0x01 => accept (.mulh (fD w) (fA w) (fB w))
  | 0x02 => accept (.mulhn (fD w) (fA w) (fB w))
  | 0x03 => accept (.div (fD w) (fA w) (fB w))
  | 0x04 => accept (.divn (fD w) (fA w) (fB w))
  | 0x05 => accept (.rem (fD w) (fA w) (fB w))
  | 0x06 => accept (.remn (fD w) (fA w) (fB w))
  | 0x07 => acceptZero (fB w == 0) (.popc (fD w) (fA w))
  | 0x08 => acceptZero (fB w == 0) (.clz (fD w) (fA w))
  | 0x09 => acceptZero (fB w == 0) (.ctz (fD w) (fA w))
  | 0x0A => accept (.sext (fD w) (fA w) (fB w))
  | _ => .error .function

/-- op6 0x1C (R70, R71). -/
def decK (w : BitVec 32) : Except Illegal Instr :=
  match (fFn8 w).toNat with
  | 0x00 => acceptZero (fB w == 0) (.kand (fKd w) (fKa w) (fKb w))
  | 0x01 => acceptZero (fB w == 0) (.kor (fKd w) (fKa w) (fKb w))
  | 0x02 => acceptZero (fB w == 0) (.kxor (fKd w) (fKa w) (fKb w))
  | 0x03 => acceptZero (fB w == 0) (.kandn (fKd w) (fKa w) (fKb w))
  | 0x04 => acceptZero (fKb w == 0 && fB w == 0) (.knot (fKd w) (fKa w))
  | 0x05 => acceptZero (fKa w == 0 && fKb w == 0) (.kmovk (fKd w) (fB w))
  | 0x06 => acceptZero (fKd w == 0 && fKb w == 0) (.kmovs (fKa w) (fB w))
  | 0x07 => acceptZero (fKd w == 0 && fKb w == 0) (.kpop (fKa w) (fB w))
  | 0x08 => acceptZero (fKd w == 0 && fKb w == 0) (.kfirst (fKa w) (fB w))
  | 0x09 => acceptZero (fKa w == 0 && fKb w == 0 && fB w == 0) (.kset (fKd w))
  | 0x86 => acceptZero (fKd w == 0 && fKb w == 0) (.kmovsNw (fKa w) (fB w))
  | _ => .error .function

/-- op6 0x22, format S.X (R119). -/
def decX22 (w : BitVec 32) : Except Illegal Instr :=
  match (fFn10 w).toNat with
  | 0x000 => acceptZero (w.extractLsb' 12 4 == 0 && fImm4 w == 0) (.wait (fTok w))
  | _ => .error .function

/-- op6 0x23, format S.X (R121). -/
def decX23 (w : BitVec 32) : Except Illegal Instr :=
  match (fFn10 w).toNat with
  | 0x000 => acceptZero (fXb w == 0 && fImm4 w == 0) (.sleep (fXa w))
  | _ => .error .function

/-- op6 0x24, format S.X (R309). -/
def decX24 (w : BitVec 32) : Except Illegal Instr :=
  match (fFn10 w).toNat with
  | 0x000 => acceptZero (fImm4 w == 0) (.cpy (fXa w) (fXb w))
  | 0x001 => acceptZero (fImm4 w == 0) (.cpym (fXa w) (fXb w))
  | 0x002 => acceptZero (fImm4 w == 0) (.cpyc (fXa w) (fXb w))
  | 0x003 => acceptZero (w.extractLsb' 1 3 == 0) (.qpush (fXa w) (fXb w) (w.extractLsb' 0 1))
  | 0x004 => acceptZero (fImm4 w == 0) (.qpoll (fXa w) (fXb w))
  | _ => .error .function

/-- op6 0x26, format S.X (R383). -/
def decX26 (w : BitVec 32) : Except Illegal Instr :=
  match (fFn10 w).toNat with
  | 0x000 => acceptZero (fImm4 w == 0) (.barInit (fXa w) (fXb w))
  | 0x001 => acceptZero (fImm4 w == 0) (.barArr (fXa w) (fXb w))
  | 0x002 => acceptZero (fImm4 w == 0) (.barExp (fXa w) (fXb w))
  | 0x003 => acceptZero (fImm4 w == 0) (.barWait (fXa w) (fXb w))
  | _ => .error .function

/-- op6 0x28, format S.X (R273). -/
def decX28 (w : BitVec 32) : Except Illegal Instr :=
  match (fFn10 w).toNat with
  | 0x000 => acceptZero (fImm4 w == 0) (.ffaLdj (fXa w) (fXb w))
  | 0x001 => acceptZero (fImm4 w == 0) (.ffaLdh (fXa w) (fXb w))
  | 0x002 => acceptZero (fXb w == 0 && fImm4 w == 0) (.ffaLdc (fXa w))
  | 0x003 => acceptZero (fImm4 w == 0) (.ffaClamp (fXa w) (fXb w))
  | 0x004 => acceptZero (fXb w == 0 && fImm4 w == 0) (.ffaBeta (fXa w))
  | 0x005 => acceptZero (fImm4 w == 0) (.ffaMode (fXa w) (fXb w))
  | 0x006 => acceptZero (fImm4 w == 0) (.ffaSweep (fXa w) (fXb w))
  | 0x007 => acceptZero (fImm4 w == 0) (.ffaRdc (fXa w) (fXb w))
  | 0x008 => acceptZero (fXb w == 0 && fImm4 w == 0) (.ffaRds (fXa w))
  | 0x009 => acceptZero (fXb w == 0 && fImm4 w == 0) (.ffaZc (fXa w))
  | 0x00A => acceptZero (fImm4 w == 0) (.ffaBnd (fXa w) (fXb w))
  | 0x00B => acceptZero (fXb w == 0 && fImm4 w == 0) (.ffaHs (fXa w))
  | _ => .error .function

/-- op6 0x2A, format S.X (R343). -/
def decX2A (w : BitVec 32) : Except Illegal Instr :=
  match (fFn10 w).toNat with
  | 0x000 => acceptZero (fImm4 w == 0) (.spawn (fXa w) (fXb w))
  | 0x001 => acceptZero (fXb w == 0 && fImm4 w == 0) (.yield (fXa w))
  | 0x002 => acceptZero (fXa w == 0 && fXb w == 0 && fImm4 w == 0) .tend
  | 0x003 => acceptZero (fXa w == 0 && fXb w == 0 && fImm4 w == 0) .scopeOpen
  | 0x004 => acceptZero (fXb w == 0 && fImm4 w == 0) (.scopeClose (fXa w))
  | 0x005 => acceptZero (fImm4 w == 0) (.vaddr (fXa w) (fXb w))
  | _ => .error .function

/-- op6 0x30, format S.X (R172, R217, R221). -/
def decX30 (w : BitVec 32) : Except Illegal Instr :=
  match (fFn10 w).toNat with
  | 0x000 => acceptZero (fXa w == 0 && fXb w == 0 && fImm4 w == 0) .nop
  | 0x001 => acceptZero (fImm4 w == 0) (.rdsr (fXa w) (fXb w))
  | 0x002 => acceptZero (fImm4 w == 0) (.wrsr (fXa w) (fXb w))
  | 0x003 => acceptZero (fXb w == 0 && fImm4 w == 0) (.rdgtc (fXa w))
  | 0x004 => acceptZero (fXa w == 0 && fXb w == 0 && w.extractLsb' 2 2 == 0) (.fence (fLow2 w))
  | 0x005 => acceptZero (fXa w == 0 && fXb w == 0) (.xfence (w.extractLsb' 2 2) (fLow2 w))
  | 0x006 => acceptZero (fXb w == 0) (.trap (fXa w) (fImm4 w))
  | 0x007 => acceptZero (fXa w == 0 && fXb w == 0) (.brk (fImm4 w))
  | 0x008 => acceptZero (fXa w == 0 && fXb w == 0 && fImm4 w == 0) .exit
  | _ => .error .function

/-- The scalar decoder (R70). -/
def decodeScalar (w : BitVec 32) : Except Illegal Instr :=
  match (fOp w).toNat with
  | 0x00 => decR0 w
  | 0x01 => decR1 w
  | 0x02 => accept (.addi (fD w) (fA w) (fImm14 w))
  | 0x03 => accept (.andi (fD w) (fA w) (fImm14 w))
  | 0x04 => accept (.ori (fD w) (fA w) (fImm14 w))
  | 0x05 => accept (.xori (fD w) (fA w) (fImm14 w))
  | 0x06 => accept (.shli (fD w) (fA w) (fImm14 w))
  | 0x07 => accept (.shri (fD w) (fA w) (fImm14 w))
  | 0x08 => accept (.srai (fD w) (fA w) (fImm14 w))
  | 0x09 => accept (.slti (fD w) (fA w) (fImm14 w))
  | 0x0A => accept (.sltni (fD w) (fA w) (fImm14 w))
  | 0x0B => accept (.li (fD w) (fImm20 w))
  | 0x0C => accept (.lhi (fD w) (fImm20 w))
  | 0x0D => accept (.lxi (fD w) (fImm20 w))
  | 0x0E => accept (.pcrel (fD w) (fImm20 w))
  | 0x10 => accept (.sld (fD w) (fA w) (fImm14 w))
  | 0x11 => accept (.sst (fD w) (fA w) (fImm14 w))
  | 0x12 => accept (.sldp (fD w) (fA w) (fImm14 w))
  | 0x13 => accept (.sstp (fD w) (fA w) (fImm14 w))
  | 0x18 => accept (.bCc (fCond w) (fBa w) (fDisp w))
  | 0x19 => acceptZero (fD w == 0) (.call (fImm20 w))
  | 0x1A => if fFn8 w == 0 then acceptZero (fD w == 0 && fB w == 0) (.jr (fA w)) else .error .function
  | 0x1C => decK w
  | 0x20 => accept (.run (fAwait w) (fL w) (fIdx w))
  | 0x21 => acceptZero (fLow2 w == 0) (.run2 (fAwait w) (fKb w) (fB w) (fB2 w))
  | 0x22 => decX22 w
  | 0x23 => decX23 w
  | 0x24 => decX24 w
  | 0x26 => decX26 w
  | 0x28 => decX28 w
  | 0x2A => decX2A w
  | 0x30 => decX30 w
  | _ => .error .opcode

/-! Lane words (R75). -/

/-- An operand field (R76). A nonzero bit that must be 0 is refused. -/
def decOperand (f : BitVec 13) : Except Illegal Operand :=
  match (f.extractLsb' 11 2).toNat with
  | 0 => if f.extractLsb' 8 3 == 0 then .ok (.mrf (f.extractLsb' 0 8)) else .error .operand
  | 1 =>
    if f.extractLsb' 8 2 != 0 || f.extractLsb' 3 5 != 0 then .error .operand
    else if f.getLsbD 10 then
      (if f.getLsbD 2 then .error .operand else .ok (.lrf (f.extractLsb' 0 2)))
    else .ok (.orf (f.extractLsb' 0 3))
  | 2 => .ok (.special (f.extractLsb' 6 5) (f.extractLsb' 0 6))
  | _ => if f.getLsbD 10 then .error .operand else .ok (.indirect (f.extractLsb' 8 2) (f.extractLsb' 0 8))

/-- The fields of layout L.A (R75). -/
def decLaneOp (w : BitVec 96) : Except Illegal LaneOp := do
  let d ← decOperand (w.extractLsb' 53 13)
  let a ← decOperand (w.extractLsb' 40 13)
  let b ← decOperand (w.extractLsb' 27 13)
  let c ← decOperand (w.extractLsb' 14 13)
  .ok { stall := w.extractLsb' 82 4, kmask := w.extractLsb' 78 4, typ := LType.ofCode (w.extractLsb' 74 4),
        mod := w.extractLsb' 66 8, d := d, a := a, b := b, c := c, ext := w.extractLsb' 0 14 }

/-- The space of a code below 4 (R84). -/
def Space.ofCode (c : BitVec 4) : Option Space :=
  match c.toNat with
  | 0 => some .global | 1 => some .scratch | 2 => some .noLease | 3 => some .view | _ => none

/-- The width of a code below 5 (R84). -/
def Width.ofCode (c : BitVec 4) : Option Width :=
  match c.toNat with
  | 0 => some .b1 | 1 => some .b2 | 2 => some .b4 | 3 => some .b8 | 4 => some .b16 | _ => none

def Space.code : Space → BitVec 4
  | .global => 0 | .scratch => 1 | .noLease => 2 | .view => 3

def Width.code : Width → BitVec 4
  | .b1 => 0 | .b2 => 1 | .b4 => 2 | .b8 => 3 | .b16 => 4

/-- The fields of layout L.M (R84). D and A must be direct MRF. -/
def decMemOp (w : BitVec 96) : Except Illegal MemOp :=
  match decOperand (w.extractLsb' 53 13), decOperand (w.extractLsb' 40 13), Space.ofCode (w.extractLsb' 10 4),
      Width.ofCode (w.extractLsb' 2 4) with
  | .ok (.mrf d), .ok (.mrf a), some sp, some wd =>
    .ok { stall := w.extractLsb' 82 4, kmask := w.extractLsb' 78 4, typ := LType.ofCode (w.extractLsb' 74 4),
          mod := w.extractLsb' 66 8, d := d, a := a, off := w.extractLsb' 14 26, space := sp,
          order := w.extractLsb' 8 2, scope := w.extractLsb' 6 2, width := wd, hint := w.extractLsb' 0 2 }
  | .ok (.mrf _), .ok (.mrf _), _, _ => .error .memory
  | _, _, _, _ => .error .operand

/-- The fields of layout L.I (R83). -/
def decLiOp (w : BitVec 96) : Except Illegal LiOp := do
  let d ← decOperand (w.extractLsb' 53 13)
  if w.extractLsb' 66 12 == 0 && w.extractLsb' 40 13 == 0 && w.extractLsb' 0 8 == 0 then
    .ok { stall := w.extractLsb' 82 4, kmask := w.extractLsb' 78 4, d := d, imm := w.extractLsb' 8 32 }
  else .error .field

/-- The instruction of layout L.A with an op10 (R86). -/
def ofLaneOp (op : BitVec 10) (f : LaneOp) : Option Instr :=
  match op.toNat with
  | 0x000 => some (.iadd f)
  | 0x001 => some (.isub f)
  | 0x002 => some (.imul f)
  | 0x003 => some (.imulh f)
  | 0x004 => some (.imad f)
  | 0x005 => some (.idiv f)
  | 0x006 => some (.irem f)
  | 0x007 => some (.iabs f)
  | 0x008 => some (.imin f)
  | 0x009 => some (.imax f)
  | 0x00A => some (.laneAnd f)
  | 0x00B => some (.laneOr f)
  | 0x00C => some (.laneXor f)
  | 0x00D => some (.not f)
  | 0x00E => some (.laneShl f)
  | 0x00F => some (.laneShr f)
  | 0x010 => some (.laneSra f)
  | 0x011 => some (.lanePopc f)
  | 0x012 => some (.laneClz f)
  | 0x013 => some (.bfe f)
  | 0x014 => some (.bfi f)
  | 0x015 => some (.mov f)
  | 0x016 => some (.movs f)
  | 0x040 => some (.fadd f)
  | 0x041 => some (.fsub f)
  | 0x042 => some (.fmul f)
  | 0x043 => some (.ffma f)
  | 0x044 => some (.fmin f)
  | 0x045 => some (.fmax f)
  | 0x046 => some (.fdiv f)
  | 0x047 => some (.fsqrt f)
  | 0x048 => some (.frcp f)
  | 0x049 => some (.frsq f)
  | 0x04A => some (.fex2 f)
  | 0x04B => some (.flg2 f)
  | 0x04C => some (.fsin f)
  | 0x04D => some (.fcos f)
  | 0x04E => some (.ftanh f)
  | 0x060 => some (.hadd f)
  | 0x061 => some (.hmul f)
  | 0x062 => some (.hfma f)
  | 0x063 => some (.hmin f)
  | 0x064 => some (.hmax f)
  | 0x080 => some (.cvt f)
  | 0x081 => some (.qnt f)
  | 0x082 => some (.dqn f)
  | 0x083 => some (.pk6 f)
  | 0x084 => some (.up6 f)
  | 0x085 => some (.pk4 f)
  | 0x086 => some (.up4 f)
  | 0x0A0 => some (.icmp f)
  | 0x0A1 => some (.fcmp f)
  | 0x0A2 => some (.sel f)
  | 0x0A3 => some (.kwr f)
  | 0x0C0 => some (.shfl f)
  | 0x0C1 => some (.bcast f)
  | 0x0C2 => some (.vote f)
  | 0x0C3 => some (.radd f)
  | 0x0C4 => some (.rmin f)
  | 0x0C5 => some (.rmax f)
  | 0x0C6 => some (.scan f)
  | 0x0D0 => some (.rdst f)
  | 0x0D1 => some (.clst f)
  | 0x180 => some (.mxQ f)
  | 0x181 => some (.mxZero f)
  | 0x182 => some (.mxRd f)
  | 0x183 => some (.mxWr f)
  | 0x184 => some (.mxDrain f)
  | 0x1C0 => some (.rng f)
  | _ => none

/-- The instruction of layout L.M with an op10 (R86). -/
def ofMemOp (op : BitVec 10) (f : MemOp) : Option Instr :=
  match op.toNat with
  | 0x100 => some (.ld f)
  | 0x101 => some (.st f)
  | 0x102 => some (.ldF f)
  | 0x103 => some (.ldFe f)
  | 0x104 => some (.stEf f)
  | 0x105 => some (.stF f)
  | 0x106 => some (.feSet f)
  | 0x107 => some (.feClr f)
  | 0x108 => some (.feProbe f)
  | 0x109 => some (.pref f)
  | 0x10A => some (.pin f)
  | 0x10B => some (.unpin f)
  | 0x10C => some (.lrefill f)
  | 0x140 => some (.atom f)
  | 0x141 => some (.red f)
  | _ => none

/-- op10 values of layout L.M (R84, R86). -/
def isMemOp10 (op : BitVec 10) : Bool := decide (0x100 ≤ op.toNat) && decide (op.toNat ≤ 0x141)

/-- A reserved op10, refused (R86). -/
def orReserved (i : Option Instr) : Except Illegal Instr :=
  match i with
  | some i => accept i
  | none => .error .opcode

/-- The lane decoder (R86, R87). The trailer, op10 0x3FF, is no instruction: see `decodeTrailer`. -/
def decodeLane (w : BitVec 96) : Except Illegal Instr :=
  let op := w.extractLsb' 86 10
  if op == 0x017 then
    match decLiOp w with
    | .ok f => accept (.laneLi f)
    | .error e => .error e
  else if isMemOp10 op then
    match ofMemOp op { stall := 0, kmask := 0, typ := .i32, mod := 0, d := 0, a := 0, off := 0, space := .global,
                       order := 0, scope := 0, width := .b1, hint := 0 }, decMemOp w with
    | none, _ => .error .opcode
    | some _, .ok f => orReserved (ofMemOp op f)
    | some _, .error e => .error e
  else
    match ofLaneOp op { stall := 0, kmask := 0, typ := .i32, mod := 0, d := .mrf 0, a := .mrf 0, b := .mrf 0,
                        c := .mrf 0, ext := 0 }, decLaneOp w with
    | none, _ => .error .opcode
    | some _, .ok f => orReserved (ofLaneOp op f)
    | some _, .error e => .error e

/-- The word is a trailer (R20, R88). -/
def isTrailer (w : BitVec 96) : Bool := w.extractLsb' 86 10 == 0x3FF

/-- A register slot of a trailer (R88): none when invalid. -/
def trailerReg (w : BitVec 96) (n : Nat) : BitVec 9 := w.extractLsb' (73 - 9 * n) 9

/-- A mask slot of a trailer (R88). -/
def trailerMask (w : BitVec 96) (n : Nat) : BitVec 5 := w.extractLsb' (23 - 5 * n) 5

/-- The fields of a trailer word, whose token is not judged here (R88, R89). -/
def trailerFields (w : BitVec 96) : Trailer :=
  { tok := w.extractLsb' 82 4,
    regs := ((((List.range 6).map (trailerReg w)).filter (·.getLsbD 8)).map (BitVec.extractLsb' 0 8)).eraseDups,
    masks := ((((List.range 4).map (trailerMask w)).filter (·.getLsbD 4)).map (BitVec.extractLsb' 0 4)).eraseDups }

/-- The trailer decoder: a slot that is not valid is 0, no mask slot names k0, and bits 7:0 are 0 (R89). -/
def decodeTrailer (w : BitVec 96) : Except Illegal Trailer :=
  let regs := (List.range 6).map (trailerReg w)
  let masks := (List.range 4).map (trailerMask w)
  if regs.any (fun r => !r.getLsbD 8 && r != 0) || masks.any (fun m => !m.getLsbD 4 && m != 0)
      || masks.any (fun m => m == 0x10) || w.extractLsb' 0 8 != 0 then .error .trailer
  else .ok (trailerFields w)

/-! The encoder. -/

/-- Format S.R (R68). -/
def encR (op : BitVec 6) (d a b : BitVec 6) (fn : BitVec 8) : BitVec 32 := op ++ d ++ a ++ b ++ fn
/-- Format S.I (R68). -/
def encI (op : BitVec 6) (d a : BitVec 6) (i : BitVec 14) : BitVec 32 := op ++ d ++ a ++ i
/-- Format S.L (R68). -/
def encL (op : BitVec 6) (d : BitVec 6) (i : BitVec 20) : BitVec 32 := op ++ d ++ i
/-- Format S.K (R68). -/
def encK (kd ka kb : BitVec 4) (a : BitVec 6) (fn : BitVec 8) : BitVec 32 := (0x1C : BitVec 6) ++ kd ++ ka ++ kb ++ a ++ fn
/-- Format S.X (R68). -/
def encX (op : BitVec 6) (fn : BitVec 10) (a b : BitVec 6) (i : BitVec 4) : BitVec 32 := op ++ fn ++ a ++ b ++ i

/-- The word of a scalar instruction (R68 to R73). -/
def encodeScalar : Instr → Option (BitVec 32)
  | .add d a b => some (encR 0x00 d a b 0x00)
  | .sub d a b => some (encR 0x00 d a b 0x01)
  | .and d a b => some (encR 0x00 d a b 0x02)
  | .or d a b => some (encR 0x00 d a b 0x03)
  | .xor d a b => some (encR 0x00 d a b 0x04)
  | .andn d a b => some (encR 0x00 d a b 0x05)
  | .shl d a b => some (encR 0x00 d a b 0x06)
  | .shr d a b => some (encR 0x00 d a b 0x07)
  | .sra d a b => some (encR 0x00 d a b 0x08)
  | .min d a b => some (encR 0x00 d a b 0x09)
  | .max d a b => some (encR 0x00 d a b 0x0A)
  | .minn d a b => some (encR 0x00 d a b 0x0B)
  | .maxn d a b => some (encR 0x00 d a b 0x0C)
  | .seq d a b => some (encR 0x00 d a b 0x0D)
  | .slt d a b => some (encR 0x00 d a b 0x0E)
  | .sltn d a b => some (encR 0x00 d a b 0x0F)
  | .mul d a b => some (encR 0x01 d a b 0x00)
  | .mulh d a b => some (encR 0x01 d a b 0x01)
  | .mulhn d a b => some (encR 0x01 d a b 0x02)
  | .div d a b => some (encR 0x01 d a b 0x03)
  | .divn d a b => some (encR 0x01 d a b 0x04)
  | .rem d a b => some (encR 0x01 d a b 0x05)
  | .remn d a b => some (encR 0x01 d a b 0x06)
  | .popc d a => some (encR 0x01 d a 0 0x07)
  | .clz d a => some (encR 0x01 d a 0 0x08)
  | .ctz d a => some (encR 0x01 d a 0 0x09)
  | .sext d a p => some (encR 0x01 d a p 0x0A)
  | .addi d a i => some (encI 0x02 d a i)
  | .andi d a i => some (encI 0x03 d a i)
  | .ori d a i => some (encI 0x04 d a i)
  | .xori d a i => some (encI 0x05 d a i)
  | .shli d a i => some (encI 0x06 d a i)
  | .shri d a i => some (encI 0x07 d a i)
  | .srai d a i => some (encI 0x08 d a i)
  | .slti d a i => some (encI 0x09 d a i)
  | .sltni d a i => some (encI 0x0A d a i)
  | .li d i => some (encL 0x0B d i)
  | .lhi d i => some (encL 0x0C d i)
  | .lxi d i => some (encL 0x0D d i)
  | .pcrel d i => some (encL 0x0E d i)
  | .sld d a i => some (encI 0x10 d a i)
  | .sst d a i => some (encI 0x11 d a i)
  | .sldp d a i => some (encI 0x12 d a i)
  | .sstp d a i => some (encI 0x13 d a i)
  | .bCc c a i => some ((0x18 : BitVec 6) ++ c ++ a ++ i)
  | .call i => some (encL 0x19 0 i)
  | .jr a => some (encR 0x1A 0 a 0 0)
  | .kand d a b => some (encK d a b 0 0x00)
  | .kor d a b => some (encK d a b 0 0x01)
  | .kxor d a b => some (encK d a b 0 0x02)
  | .kandn d a b => some (encK d a b 0 0x03)
  | .knot d a => some (encK d a 0 0 0x04)
  | .kmovk d s => some (encK d 0 0 s 0x05)
  | .kmovs a s => some (encK 0 a 0 s 0x06)
  | .kpop a s => some (encK 0 a 0 s 0x07)
  | .kfirst a s => some (encK 0 a 0 s 0x08)
  | .kset d => some (encK d 0 0 0 0x09)
  | .kmovsNw a s => some (encK 0 a 0 s 0x86)
  | .run w l i => some ((0x20 : BitVec 6) ++ w ++ l ++ i)
  | .run2 w k a b => some ((0x21 : BitVec 6) ++ w ++ k ++ a ++ b ++ (0 : BitVec 2))
  | .wait t => some ((0x22 : BitVec 6) ++ (0 : BitVec 14) ++ t ++ (0 : BitVec 4))
  | .sleep a => some (encX 0x23 0x000 a 0 0)
  | .cpy a b => some (encX 0x24 0x000 a b 0)
  | .cpym a b => some (encX 0x24 0x001 a b 0)
  | .cpyc a b => some (encX 0x24 0x002 a b 0)
  | .qpush a b n => some (encX 0x24 0x003 a b ((0 : BitVec 3) ++ n))
  | .qpoll a b => some (encX 0x24 0x004 a b 0)
  | .barInit a b => some (encX 0x26 0x000 a b 0)
  | .barArr a b => some (encX 0x26 0x001 a b 0)
  | .barExp a b => some (encX 0x26 0x002 a b 0)
  | .barWait a b => some (encX 0x26 0x003 a b 0)
  | .ffaLdj a b => some (encX 0x28 0x000 a b 0)
  | .ffaLdh a b => some (encX 0x28 0x001 a b 0)
  | .ffaLdc a => some (encX 0x28 0x002 a 0 0)
  | .ffaClamp a b => some (encX 0x28 0x003 a b 0)
  | .ffaBeta a => some (encX 0x28 0x004 a 0 0)
  | .ffaMode a b => some (encX 0x28 0x005 a b 0)
  | .ffaSweep a b => some (encX 0x28 0x006 a b 0)
  | .ffaRdc a b => some (encX 0x28 0x007 a b 0)
  | .ffaRds a => some (encX 0x28 0x008 a 0 0)
  | .ffaZc a => some (encX 0x28 0x009 a 0 0)
  | .ffaBnd a b => some (encX 0x28 0x00A a b 0)
  | .ffaHs a => some (encX 0x28 0x00B a 0 0)
  | .spawn a b => some (encX 0x2A 0x000 a b 0)
  | .yield a => some (encX 0x2A 0x001 a 0 0)
  | .tend => some (encX 0x2A 0x002 0 0 0)
  | .scopeOpen => some (encX 0x2A 0x003 0 0 0)
  | .scopeClose a => some (encX 0x2A 0x004 a 0 0)
  | .vaddr a b => some (encX 0x2A 0x005 a b 0)
  | .nop => some (encX 0x30 0x000 0 0 0)
  | .rdsr a b => some (encX 0x30 0x001 a b 0)
  | .wrsr a b => some (encX 0x30 0x002 a b 0)
  | .rdgtc a => some (encX 0x30 0x003 a 0 0)
  | .fence s => some (encX 0x30 0x004 0 0 ((0 : BitVec 2) ++ s))
  | .xfence q p => some (encX 0x30 0x005 0 0 (q ++ p))
  | .trap a c => some (encX 0x30 0x006 a 0 c)
  | .brk c => some (encX 0x30 0x007 0 0 c)
  | .exit => some (encX 0x30 0x008 0 0 0)
  | _ => none

/-- An operand field (R76). -/
def encOperand : Operand → BitVec 13
  | .mrf n => (0 : BitVec 5) ++ n
  | .orf n => (0x08 : BitVec 5) ++ (0 : BitVec 5) ++ n
  | .lrf n => (0x0C : BitVec 5) ++ (0 : BitVec 6) ++ n
  | .special c i => (2 : BitVec 2) ++ c ++ i
  | .indirect x b => (6 : BitVec 3) ++ x ++ b

/-- Layout L.A (R75). -/
def encLaneOp (op : BitVec 10) (f : LaneOp) : BitVec 96 :=
  op ++ f.stall ++ f.kmask ++ f.typ.code ++ f.mod ++ encOperand f.d ++ encOperand f.a ++ encOperand f.b ++
    encOperand f.c ++ f.ext

/-- Layout L.M (R84). -/
def encMemOp (op : BitVec 10) (f : MemOp) : BitVec 96 :=
  op ++ f.stall ++ f.kmask ++ f.typ.code ++ f.mod ++ encOperand (.mrf f.d) ++ encOperand (.mrf f.a) ++ f.off ++
    f.space.code ++ f.order ++ f.scope ++ f.width.code ++ f.hint

/-- Layout L.I (R83). -/
def encLiOp (f : LiOp) : BitVec 96 :=
  (0x017 : BitVec 10) ++ f.stall ++ f.kmask ++ (0 : BitVec 12) ++ encOperand f.d ++ (0 : BitVec 13) ++ f.imm ++
    (0 : BitVec 8)

/-- The word of a lane instruction (R75, R83, R84, R86). -/
def encodeLane (i : Instr) : Option (BitVec 96) :=
  match i with
  | .laneLi f => some (encLiOp f)
  | j =>
    match laneForm j, memForm j with
    | some (op, f), _ => some (encLaneOp op f)
    | none, some (op, f) => some (encMemOp op f)
    | none, none => none

/-- Register slot n of an encoded trailer (R88). -/
def encSlot (l : List (BitVec 8)) (n : Nat) : BitVec 9 :=
  match l[n]? with
  | some r => (1 : BitVec 1) ++ r
  | none => 0

/-- Mask slot n of an encoded trailer (R88). -/
def encMaskSlot (l : List (BitVec 4)) (n : Nat) : BitVec 5 :=
  match l[n]? with
  | some r => (1 : BitVec 1) ++ r
  | none => 0

/-- The word of a trailer with at most six registers and four masks (R88). -/
def encodeTrailer (t : Trailer) : BitVec 96 :=
  (0x3FF : BitVec 10) ++ t.tok ++ encSlot t.regs 0 ++ encSlot t.regs 1 ++ encSlot t.regs 2 ++ encSlot t.regs 3 ++
    encSlot t.regs 4 ++ encSlot t.regs 5 ++ encMaskSlot t.masks 0 ++ encMaskSlot t.masks 1 ++ encMaskSlot t.masks 2 ++
    encMaskSlot t.masks 3 ++ (0 : BitVec 8)

/-- The words of an instruction, with their length in bits; events have none (R68, R75). -/
def encode (i : Instr) : Option (Nat × Nat) :=
  match encodeScalar i with
  | some w => some (32, w.toNat)
  | none =>
    match encodeLane i with
    | some w => some (96, w.toNat)
    | none => none

/-- What an `Except` accepts. -/
def accepted (r : Except Illegal Instr) : Option Instr :=
  match r with
  | .ok i => some i
  | .error _ => none

/-- The instruction of a word of `nbits` bits, numbered as the opcode table numbers them: a scalar word of 32 bits, or a
lane word of 96 bits (R68, R75; byte order R3 keeps bit 0 the least significant bit of the first byte). -/
def decodeTableWord (nbits w : Nat) : Option Instr :=
  if nbits ≤ 32 then accepted (decodeScalar (BitVec.ofNat 32 w)) else accepted (decodeLane (BitVec.ofNat 96 w))

end Sys2Proof
end

