-- ==== Sys2Proof/Config.lean ====
section
/-! DEFINITION. The free values of the model: what the manual leaves open. Each is an opaque constant, so that no proof can
see what it is. Each is applied to the plain counter `State.fresh` or to the operands it depends on. -/

namespace Sys2Proof.Config

/-- Ticks from the start of an access, fetch, command or message to its next stage. The manual gives no figure for any of
them (R22, R206, R286, R300, R311, R362). [DESIGN CHOICE, log entry 4] -/
opaque latency : Nat → Nat

/-- The physical noise of a Firefly array, one 16-bit draw a use (R262). [DESIGN CHOICE, log entry 5] -/
opaque noise : Nat → BitVec 16

/-- The number of +1 outcomes of a closed health window, 0 to 65,536 after reduction (R269). [DESIGN CHOICE, log entry 5] -/
opaque healthCount : Nat → Nat

/-- Which of the states that R219, R239 or R467 allow one read of one aligned 16-byte sector returns. [DESIGN CHOICE, log entry 6] -/
opaque staleChoice : Nat → Nat

/-- Whether a request to an L2 slice found the line lock of its region held (R191). [DESIGN CHOICE, log entry 18] -/
opaque lockHeld : Nat → Nat

/-- Whether a peer package turns an access to its memory away (R424). [DESIGN CHOICE, log entry 3] -/
opaque peerRefuses : Nat → Bool

/-- What a read of a host or device MMIO address returns, by the count of IO reads (R182). [DESIGN CHOICE, log entry 7] -/
opaque ioRead : Nat → Word64

/-- SPDM response bodies the manual does not give: capabilities, algorithms and certificates (R429). [PRESUMED, log entry 10] -/
opaque spdmBody : Nat → List Byte

/-- Measured package power in watts, by the count of measurements (R411). [DESIGN CHOICE, log entry 12] -/
opaque power : Nat → BitVec 16

/-- The bytes of the reply to a load that meets an address outside the device: host memory and peers before anyone wrote
them (R182, R223). [DESIGN CHOICE, log entry 3] -/
opaque outsideByte : Nat → Byte

/-- Offset of a follower from the master as a measurement finds it when no step has set it (R378, R379). [DESIGN CHOICE, log entry 13] -/
opaque followerDrift : Nat → Int

/-- Joules left at the package rails when the power fails: true when the board holds at least 45 J (R417). [DESIGN CHOICE, log entry 14] -/
opaque railsHold : Nat → Bool

/-- Entries of a command queue less 1, by 16 × virtual function + queue; the manual gives no size (R323, R325).
[DESIGN CHOICE, log entry 23] -/
opaque queueEntries : Nat → Nat

/-- What the boot ROM's checks find in the board flash, by its listed bytes: 0 when format, flash and both signatures are good,
else the REASON 1, 2, 4 or 5 (R427). The manual gives no image format. [DESIGN CHOICE, log entry 24] -/
opaque bootVerify : List (Nat × Byte) → Nat

/-- Security version of the image in the board flash (R427). [DESIGN CHOICE, log entry 24] -/
opaque bootSvn : List (Nat × Byte) → BitVec 8

/-- The fused minimum security version (R427). [DESIGN CHOICE, log entry 24] -/
opaque minSvn : BitVec 8

/-- SHA-384 digest of the image in the board flash (R427, R429). [DESIGN CHOICE, log entry 24] -/
opaque imageDigest : List (Nat × Byte) → List Byte

/-- The fused key hashes (R427, R429). [DESIGN CHOICE, log entry 24] -/
opaque fusedHashes : List Byte

/-- The device key derived at boot, 48 bytes of ECDSA P-384 (R429). [DESIGN CHOICE, log entry 10] -/
opaque deviceKey : List Byte

/-- The two halves of an ECDSA P-384 signature with a key over a message, 384 bits each, by the count of free values used, since each
signature draws a number of its own (R429). [DESIGN CHOICE, log entry 10] -/
opaque sign : List Byte → List Byte → Nat → Nat

end Sys2Proof.Config
end

