-- ==== Sys2Proof/Machine/State.lean ====
section
/-! DEFINITION. The state of the part, as plain data, and the state right after reset.

Every field's comment ends with its width, the rule of spec/ that names it and its reset value. `A<n>` is row n of the
assumption log. A time is a GTC value in ticks, a cycle a count of core cycles; both are kept as natural numbers. -/

namespace Sys2Proof.Machine

/-- A scalar or lane word was executed although no group is live at the issue position. Raised by every scalar and lane word
when `State.cur` is not live. Safe: the manual has no instruction without a group. -/
inductive Fault where
  /-- No live group stands at `State.cur`. Raised by `withCur` for every scalar and lane word; safe. -/
  | noAgent
  deriving DecidableEq, Repr

/-- What the model declines. -/
inductive Refusal where
  /-- The instruction has no meaning in the model yet. Raised by its arm of `exec` alone; safe. -/
  | notModelled (mnemonic : String)
  deriving DecidableEq, Repr

/-- The fault codes 0x01 to 0x1B (R369), in order. -/
inductive Code where
  | illegalOp | runForm | stallShort | unawaitedRead | regBounds | scrBounds | feWait | xlate | access | atomSpace
  | divZero | intOvf | fpInvalid | fpDivzero | promiseMissed | mxFormat | mxSlot | imageVersion | ffaBias | ffaStale
  | viewPool | mergeFault | taskWatchdog | restoreCapacity | dataError | detPower | brk
  deriving DecidableEq, Repr

/-- Containment policies (R360, R371). -/
inductive Policy where
  | pass | ignore | retry | killSelf | killParent | halt
  deriving DecidableEq, Repr

/-- What a fault resumes into (R371 and the rules it names). -/
inductive FaultSrc where
  /-- A scalar word that has had no effect: RETRY runs it again, IGNORE passes over it. -/
  | scalar
  /-- A scalar word that has completed: both continue at PC + 1 (R60, R175). -/
  | scalarDone
  /-- The fetch checks of the queue entry `seq` (R22). -/
  | fetch (seq : Nat)
  /-- A lane word precise at its position (R37). -/
  | word (seq side : Nat)
  /-- An arithmetic trap of a completed lane word (R37). -/
  | trap (seq side : Nat)
  /-- Lanes of an issued memory operation (R187, R197, R198, R308). -/
  | op (id : Nat)
  /-- A matrix request (R243). -/
  | mx (req : Nat)
  /-- The head command of the Firefly array of a team (R283). -/
  | ffa (team : Nat)
  /-- A tile-walk command, and the receiver whose wait or walk failed (R320). -/
  | twe (cmd recv : Nat)
  /-- The task watchdog (R353). -/
  | watchdog
  /-- A missed promise (R121). -/
  | promise (slot time : Nat)
  deriving DecidableEq, Repr

/-- A raised fault, with what its halt record holds (R373). -/
structure FaultRec where
  code : Code
  src : FaultSrc
  /-- Scalar PC of the faulting word, or the group's next PC for a lane fault. -/
  pc : Nat
  lane : Bool
  run : Nat
  word : Nat
  side : Nat
  lmask : Word64
  faddr : Word64
  gtime : Nat
  imm : BitVec 4
  isBrk : Bool
  prog : BitVec 256
  level : Nat
  deriving DecidableEq, Repr

/-- What a promise slot refers to (R120). -/
inductive PromRef where
  | twe (cmd : Nat)
  | ffa (cmd : Nat)
  deriving DecidableEq, Repr

/-- A held promise slot (R98, R120). -/
structure Promise where
  /-- 1 to 15. -/
  slot : Nat
  /-- Promised time, 60 bits. -/
  time : Nat
  ref : PromRef
  deriving DecidableEq, Repr

/-- What a scalar word does once the tick it waits for is reached (R217, R221, R322, R345, R347, R349, R388). -/
inductive HorizonAct where
  | fence
  | xfence (p : Nat) (differ : Bool)
  /-- The end of a `bar.wait` that was satisfied when it began (R388). -/
  | barEnd (b : BitVec 6)
  | qpush (a b : BitVec 6) (nb : Bool)
  | yield (a : BitVec 6)
  /-- A `sleep` that acts as a yield on its promise word (R346). -/
  | sleepYield (a : BitVec 6)
  | tend
  | scopeClose (a : BitVec 6)
  /-- Scratchpad accesses held by an acquire or a release (R215, R216). -/
  | access
  deriving DecidableEq, Repr

/-- What the scalar stream waits for. -/
inductive Stall where
  | none
  /-- `sleep` until its time (R121). -/
  | sleep (t slot : Nat)
  /-- `sleep` executed again under RETRY: until the operation completes (R121). -/
  | sleepOp (t slot : Nat)
  /-- `bar.wait` on a slot for a phase, to the end of tick `deadline` (R388). -/
  | barWait (slot phase deadline : Nat) (b : BitVec 6)
  /-- A tick to be reached. -/
  | horizon (t : Nat) (act : HorizonAct)
  /-- `fence.sys` waiting for its tokens and flush read, so for Hs (R217, R222, R223). -/
  | fenceSys (ids : List Nat)
  /-- A blocking `qpush` (R323). -/
  | qpush (queue deadline : Nat) (packet : BitVec 512) (a : BitVec 6)
  /-- A task that has yielded or ended: the runner stands at its work point (R328). -/
  | idle (cycle : Nat)
  deriving DecidableEq, Repr

/-- The words of a fetched run: its lane words and its trailer (R20). -/
structure Code1 where
  words : List Instr
  tr : Trailer
  deriving DecidableEq, Repr

/-- A run-queue entry (R117, R118, R286). -/
structure Entry where
  seq : Nat
  pair : Bool
  idxA : Nat
  idxB : Nat
  k4 : BitVec 4
  await : BitVec 8
  lb : Bool
  /-- The decoder buffer: one run, or two for a pair (R286). -/
  code : Option (List Code1)
  /-- Tick at which the fetch finishes, once the entry is head [DESIGN CHOICE, log entry 4]. -/
  readyAt : Nat
  /-- GTC time at which it became Ready (R287). -/
  since : Option Nat
  deriving DecidableEq, Repr

/-- Translation of one lane's address: PA and page attributes (R181, R182). -/
structure Page where
  pa : Nat
  ptype : BitVec 2
  nc : Bool
  nl : Bool
  at_ : Bool
  w : Bool
  rd : Bool
  deriving DecidableEq, Repr

/-- Where a lane's translation stands. -/
inductive Xl where
  | need
  | ok (p : Page)
  | bad (c : Code)
  deriving DecidableEq, Repr

/-- Stage of one lane of an operation. -/
inductive LStage where
  /-- Not performed. -/
  | wait
  /-- A full/empty wait: the tick at which it first found its condition false (R197), and the cycle in which it arrived at its word
  (R196). -/
  | feWait (since arrived : Nat)
  /-- Waiting for a host page (R182). [DEDUCED, log entry 37] -/
  | pri
  /-- A write at its home, visible at V. -/
  | sent (v : Nat)
  /-- Performed; the reply is on its way. -/
  | done
  /-- It read data with an uncorrectable error: its fault is raised once the other lanes are through (R198, R308). -/
  | err
  /-- Passed over: the lane keeps D (R197, R198, R308). -/
  | dropped
  deriving DecidableEq, Repr

/-- One lane of an operation. -/
structure LaneReq where
  lane : Nat
  ea : Int
  /-- Its translation (R187); a replayed access translates again. [DEDUCED, log entry 48] -/
  xl : Xl
  /-- Store data or operand, low byte first. -/
  data : List Byte
  /-- Compare operand of cas. -/
  cmp : List Byte
  /-- Value read. -/
  rd : List Byte
  stage : LStage
  /-- First tick of a full/empty wait that issues again after a restore, the saved time left out (R197, R380). -/
  first : Option Nat := none
  deriving DecidableEq, Repr

/-- One side of a started run (R24, R35): side 0 is A, or a single run. -/
structure Side where
  side : Nat
  idx : Nat
  words : List Instr
  tr : Trailer
  /-- Next lane word. -/
  wi : Nat
  /-- Next pass of that word, 0 or 1 (R27). -/
  pass : Nat
  /-- The trailer has been consumed (R26). -/
  issued : Bool
  /-- All its operations have completed (R30). -/
  retired : Bool
  /-- A fault holds the side at its word (R37). -/
  held : Bool
  /-- First cycle at which its next word may issue (R26, R35). -/
  next : Nat
  /-- What the first pass of the word in progress read: its lanes (R27). [DEDUCED, log entry 27] -/
  half : List LaneReq
  /-- Status that the first pass of the word in progress has left (R55). -/
  acc : List (Nat × BitVec 7)
  /-- GTC that the first pass of the word in progress read, for class 1 index 8 (R77). -/
  tick : Nat
  /-- Cycle, plus 1, in which the first pass of its latest word issued (R35). -/
  last : Nat
  deriving DecidableEq, Repr

/-- A started run or pair (R24). -/
structure Run where
  seq : Nat
  pair : Bool
  /-- Selection mask read at the start (R35). -/
  sel : Word64
  await : BitVec 8
  lb : Bool
  /-- Selection mask number of a pair (R297). -/
  k4 : BitVec 4
  sides : List Side
  /-- Quarters held, bit q for Qq (R11). -/
  quarters : Nat
  /-- Decoders held, bit d (R26). -/
  dec : Nat
  /-- Issue stream: the gid and seq of the run that started on the decoder; seq 0 once split off by a fault (R291). -/
  stream : Nat × Nat
  /-- Parked at an engine word (R298). -/
  parked : Bool
  /-- Restored parked, and still to be fetched again (R298). -/
  again : Bool
  deriving DecidableEq, Repr

/-- An outstanding fixed-latency result (R126). Register keys are lane × 256 + index for MRF, lane × 8 + index for ORF. -/
structure Landing where
  /-- It lands at the end of this cycle. -/
  cyc : Nat
  /-- Issue order. -/
  ord : Nat
  seq : Nat
  side : Nat
  /-- Run index and word of the position (R373). -/
  run : Nat
  word : Nat
  active : Word64
  mrf : List (Nat × Word32)
  orf : List (Nat × Word32)
  /-- Values pushed, by lane, in push order (R125). -/
  push : List (Nat × List Word32)
  /-- A mask written: register, lanes written, bits (R154). -/
  kw : Option (Nat × Word64 × Word64)
  /-- Status bits set, by lane (R165). -/
  st : List (Nat × BitVec 7)
  /-- Status bits cleared in the active lanes (R166). -/
  cl : BitVec 7
  /-- The word writes LSTAT (R166). -/
  wst : Bool
  /-- Status of the word's earlier pass, for its one trap (R55). -/
  acc : List (Nat × BitVec 7)
  /-- The word's trap is judged when this pass lands: it is its last (R37). -/
  final : Bool
  deriving DecidableEq, Repr

/-- A landed mask write of an unfinished run, kept for `kmovs.nw` (R32). -/
structure KWrite where
  k : Nat
  seq : Nat
  side : Nat
  lanes : Word64
  bits : Word64
  deriving DecidableEq, Repr

/-- The task that a runner runs, or that a record holds (R327, R330). -/
structure Task where
  /-- Task id, 20 bits. -/
  id : Nat
  root : Bool
  /-- Scope into which it was spawned, 16 bits. -/
  scope : Nat
  /-- Spawn index, 12 bits. -/
  sidx : Nat
  /-- Open scopes, outermost first: id and next spawn index. -/
  stack : List (Nat × Nat)
  msel : Nat
  sbase : Nat
  ns : Nat
  lbase : Nat
  nl : Nat
  /-- Team whose root task the spawn tree grew from (R326). -/
  tree : Nat
  /-- Hamper address of the task's record (R330, R333); none for a root task that has found no block yet. -/
  addr : Option Nat
  deriving DecidableEq, Repr

/-- The state of one group (R16, R98, R122, R165 to R171). -/
structure Group where
  /-- A number no two groups share; the model's own. -/
  gid : Nat
  /-- The group is resident and has not ended. -/
  live : Bool
  team : Nat
  grid : Nat
  vf : Nat
  /-- Absolute core number 0 to 511. -/
  core : Nat
  /-- Resident-group slot 0 to 47 (R10). -/
  slot : Nat
  gidx : Nat
  /-- 0 producer, 1 consumer (R13). -/
  role : Nat
  /-- 8, 16, 32 or 64 (R10). -/
  width : Nat
  /-- MRF allotment A (R13). -/
  alloc : Nat
  /-- Scalar registers s1 to s63; x0 to x3 are s56 to s59. -/
  s : SMap Word64
  /-- Mask registers k0 to k15, as last landed. -/
  k : SMap Word64
  /-- Committed values of the masks (R32). -/
  kc : SMap Word64
  klog : List KWrite
  /-- Scalar PC, a word index (R101). -/
  pc : Nat
  gctl : Word64
  gstat : Word64
  febound : Word32
  lease : BitVec 14
  acqfloor : Nat
  lcb : Word64
  scb : Word64
  /-- Extents of the code sections in words (R101, R90). -/
  swords : Nat
  lwords : Nat
  /-- MRF, by lane × 256 + index. -/
  v : SMap Word32
  /-- ORF of the Issuing run, by lane × 8 + index (R28). -/
  orf : SMap Word32
  /-- LRF of the Issuing run, by lane × 4 + index (R125). -/
  lrf : SMap Word32
  /-- Variable-latency results of runs that have not retired: register key, run, side, and the value before (R31). [DEDUCED, log entry 28] -/
  late : List (Nat × Nat × Nat × Word32)
  /-- LSTAT by lane: NV FDZ OF UF NX DZ OV from bit 6 down. -/
  lstat : SMap (BitVec 7)
  proms : List Promise
  queue : List Entry
  runs : List Run
  out : List Landing
  /-- Horizons (R214, R220). -/
  hd : Nat
  hs : Nat
  h1 : Nat
  h2 : Nat
  h3 : Nat
  /-- Staging times of the paths lane, TWE, matrix, Firefly (R221). -/
  stamp0 : Nat
  stamp1 : Nat
  stamp2 : Nat
  stamp3 : Nat
  stall : Stall
  /-- First cycle at which the scalar unit may execute its next word (R19, R103). -/
  sready : Nat
  /-- Cycles from which scalar results may be used, by register (R103). -/
  sboard : SMap Nat
  /-- The fault that containment has left open: the group is halted with it (R371). -/
  fault : Option FaultRec
  /-- Faults raised that containment has still to decide, in the order raised (R370). [DEDUCED, log entry 38] -/
  heldFaults : List FaultRec
  /-- A pre-emption request has reached the group (R296). -/
  preempt : Bool
  /-- First cycle at which a run may start after the group's previous run (R25). -/
  nextStart : Nat
  /-- Next sequence number of a run or scalar access. -/
  seqNext : Nat
  /-- The issue position: run and side whose word issues next; the model's own. -/
  pos : Nat × Nat
  task : Option Task
  /-- Cycle at which the current stretch of the task began (R40). -/
  stretch : Nat
  steals : Nat
  /-- Launch values of s1 to s9 (R327). -/
  launch : List Word64
  /-- DET_POWER is to be raised at the next scalar word (R412). [DEDUCED, log entry 71] -/
  detPend : Bool
  /-- The run that the drain abandoned, when the image marks one (R416, R418). -/
  abandoned : Option Nat
  deriving DecidableEq, Repr

/-- One barrier slot (R381). -/
structure Bar where
  mode : Bool
  arrived : Nat
  expect : Nat
  phase : Nat
  deriving DecidableEq, Repr

/-- One Firefly node (R255). -/
structure Node where
  s : Bool
  h : BitVec 16
  colour : BitVec 3
  clamp : Bool
  cval : Bool
  cstart : BitVec 14
  ccount : BitVec 6
  count : BitVec 16
  deriving DecidableEq, Repr

/-- One boundary slot with its ring of tagged states, oldest first (R258, R267). -/
structure BSlot where
  mapped : Bool
  init : Bool
  srcid : Nat
  node : Nat
  start : Nat
  /-- Tick at which the mapping took effect (R265). -/
  at_ : Nat
  /-- Number of the mapping: what was published to an earlier one does not enter the ring (R265). -/
  map : Nat
  ring : List (Nat × Bool)
  deriving DecidableEq, Repr

/-- A queued Firefly command (R270). -/
inductive FfaKind where
  | ldj (addr desc : Word64)
  | ldh (addr desc : Word64)
  | ldc (w : Word64)
  | clamp (node act : Word64)
  | beta (b : Word64)
  | mode (w start : Word64)
  | sweep (left : Nat)
  | rdc (addr desc : Word64)
  | rds (addr : Word64)
  | zc (desc : Word64)
  | bnd (slot src : Word64)
  deriving DecidableEq, Repr

/-- A command with the group that issued it, its PC and what its waits and reads need. -/
structure FfaCmd where
  id : Nat
  gid : Nat
  pc : Nat
  kind : FfaKind
  /-- Place in the scratchpad's superseded states at execution, the tick of execution, and the pages translated then (R271). -/
  mark : Nat
  at_ : Nat
  pages : List (Nat × Page)
  /-- Its effect has taken place; its writes are on their way. -/
  performed : Bool
  /-- FEBOUND of the issuing group (R268). -/
  bound : Nat
  /-- Staging time of the Firefly path (R221). -/
  stamp : Nat
  /-- First tick of the boundary wait in progress. -/
  since : Option Nat
  /-- Proceed with what the rings hold (R283, IGNORE of FFA_STALE). -/
  force : Bool
  /-- Earliest cycle at which the array may perform it, or end the sweep in progress (R264). -/
  ready : Nat
  /-- Ghosts that the sweep in progress has latched, by slot (R263). -/
  latched : Option (List (Nat × Bool))
  /-- Phases of the sweep in progress that have ended (R264). -/
  phase : Nat
  /-- A sweep has ended and its states are still to be published (R267). -/
  ended : Bool
  /-- Writes whose V is not reached yet, and the largest V so far (R220). -/
  pending : Nat
  hmax : Nat
  deriving DecidableEq, Repr

/-- A Firefly array as its team holds it (R255, R282). -/
structure Ffa where
  nodes : SMap Node
  coup : SMap Word32
  slots : SMap BSlot
  beta : BitVec 16
  replay : Bool
  lag : Nat
  arrayId : Option Nat
  key : Word32
  sweep : Nat
  colours : List Nat
  queue : List FfaCmd
  biased : Bool
  nwin : BitVec 8
  lastcnt : Nat
  /-- Core cycle at which the open health window began. -/
  winStart : Nat
  /-- The noise sources are retrimmed until this tick (R283 FFA_BIAS). -/
  trimTill : Nat
  deriving DecidableEq, Repr

/-- A team on a core, or saved (R12). -/
structure Team where
  id : Nat
  grid : Nat
  vf : Nat
  core : Nat
  /-- Linear index within the grid (R14). -/
  lin : Nat
  tx : Nat
  ty : Nat
  tz : Nat
  cls : Nat
  /-- Placement order (R368). -/
  order : Nat
  scrSize : Nat
  /-- Scratchpad bytes, then the `.views sp` share above scrSize (R194, R331). -/
  scr : Mem
  /-- Full/empty bits by 8-byte word (R195). -/
  fe : SMap Bool
  /-- Scratchpad words that hold an uncorrectable error (R465). -/
  errs : List Nat
  bars : List Bar
  nslots : Nat
  /-- Accumulator elements, by slot × 2048 + row × 256 + column (R229). -/
  acc : SMap Word32
  ffa : Option Ffa
  ngroups : Nat
  gen : Nat
  /-- Groups in the save image: saved so far. -/
  saved : List Group
  /-- A save has been requested, with the tick of the request. -/
  saving : Option Nat
  /-- Tick at which the save completed; the team is off its core. -/
  savedAt : Option Nat
  /-- First 4 KiB granule of the core's scratchpad that it holds (R366). -/
  granule : Nat
  /-- Latest completion time of the team's work (R364). -/
  h : Nat
  /-- Superseded states of 16-byte sectors of the scratchpad, in order: what engines may still read there (R239, R271, R315). -/
  past : List (Nat × List Byte)
  /-- Deque of continuation records, top first, and the spill list, oldest first (R334, R356). -/
  deque : List Nat
  spill : List Nat
  deriving DecidableEq, Repr

/-- Kinds of variable-latency operations of lane and scalar words. -/
inductive OpKind where
  | load | store | ldF | ldFe | stEf | stF | feSet | feClr | feProbe | pref | pin | unpin | lrefill
  | atom (sub : BitVec 8) | red (sub : BitVec 8)
  /-- `shfl` and `bcast`: values already gathered (R159). -/
  | gather
  deriving DecidableEq, Repr

/-- A variable-latency operation in flight (R206). -/
structure Op where
  /-- Issue order. -/
  id : Nat
  gid : Nat
  /-- A scalar access: `seq` is then its place in program order (R213). -/
  scalar : Bool
  seq : Nat
  side : Nat
  run : Nat
  word : Nat
  pc : Nat
  kind : OpKind
  space : Space
  /-- 0 plain, 1 acq, 2 rel, 3 acqrel (R215, R216). -/
  order : Nat
  scope : Nat
  typ : LType
  nbytes : Nat
  hint : Nat
  /-- First destination register: MRF of a lane word, scalar of `sld` or `sldp`; of a scalar store, the register of its data. -/
  dst : Nat
  /-- Base register and offset of a scalar access, which a host that rewrites the register moves (R116, R374). -/
  base : Nat
  off : Word64
  lanes : List LaneReq
  /-- Page checks passed (R187). -/
  checked : Bool
  /-- The destination packages of its peer lanes have accepted them (R424). -/
  asked : Bool
  /-- Time before which it may not perform (R215). -/
  floor : Nat
  issuedAt : Nat
  /-- Tick of its next event [DESIGN CHOICE, log entry 4]. -/
  ready : Nat
  bound : Nat
  /-- Staging time of its path when it was issued (R221). -/
  stamp : Nat
  /-- Largest completion time returned so far. -/
  vmax : Nat
  /-- A fault is open on it. -/
  held : Bool
  /-- Fence tokens and flush read that a release at system scope has sent and waits for; none before they are sent (R216). -/
  sent : Option (List Nat)
  deriving DecidableEq, Repr

/-- Whose write a pending write is. -/
inductive WRef where
  | op (id lane : Nat)
  | req (id : Nat)
  | twe (cmd recv : Nat)
  | ffa (team cmd : Nat)
  | pkt (id : Nat)
  | host
  | hub
  deriving DecidableEq, Repr

/-- A write at its home that becomes visible at `v` (R208). -/
structure PWrite where
  id : Nat
  pa : Nat
  bytes : List Byte
  v : Nat
  path : Nat
  ref : WRef
  /-- Places among the bytes that the write leaves as they are: those between the elements of one sector (R311). -/
  keep : List Nat
  /-- Core of the group that wrote it: every read of these bytes there misses until `v` (R212). -/
  core : Option Nat
  /-- Virtual function and 64 KiB page of the address whose translation a write of the hub used (R186). -/
  via : Option (Nat × Nat)
  deriving DecidableEq, Repr

/-- A superseded state of an aligned 16-byte sector (R219). -/
structure Old where
  sector : Nat
  /-- V of the write that ended it. -/
  till : Nat
  /-- Path of that write. -/
  path : Nat
  bytes : List Byte
  deriving DecidableEq, Repr

/-- A block in an L1 (R188, R211). -/
structure Block where
  vf : Nat
  /-- Physical region number m (R183). -/
  region : Nat
  first : Nat
  n : Nat
  leaseEnd : Nat
  slot : Nat
  pred : Nat
  touched : Nat
  evictFirst : Bool
  /-- Its lease has run to within 2 ticks (R211). -/
  stale : Bool
  /-- Way of its set, 0 to 15 (R188). -/
  way : Nat
  /-- Local tick of its fill: an access with a later staging time does not hit it (R221). -/
  filled : Nat
  deriving DecidableEq, Repr

/-- A block in an L2 slice (R188, R192). -/
structure Line where
  region : Nat
  first : Nat
  n : Nat
  /-- Grid that pinned it (R193). -/
  pin : Option Nat
  /-- Way of its set, 0 to 15 (R188). -/
  way : Nat
  deriving DecidableEq, Repr

/-- A TLB entry (R185). -/
structure TlbEntry where
  vf : Nat
  /-- Level of the leaf: 0, 1 or 2. -/
  level : Nat
  vpn : Nat
  /-- Leaf entry. -/
  entry : Word64
  deriving DecidableEq, Repr

/-- State of a core that no group owns. -/
structure Core where
  l1 : List Block
  /-- Spatial-locality predictor: sizes in sectors less 1 (R189). -/
  pred : SMap Nat
  tlb : List TlbEntry
  /-- Load cap C, 48 less the field, so that 0 is the reset (R293). -/
  capDrop : Nat
  /-- Evicted regions, latest first: partition tag, region, slot (R294). -/
  victims : List (Nat × Nat × Nat)
  lost : Nat
  /-- Windows of 1,024 cycles whose grant has been armed (R295). -/
  grantWin : Nat
  grant : Bool
  /-- Windows whose load cap has been adjusted (R294). -/
  lossWin : Nat
  deriving DecidableEq, Repr

/-- Kinds of matrix requests (R234). -/
inductive MxKind where
  | q | zero | rd | wr | drain
  deriving DecidableEq, Repr

/-- Where a matrix request stands (R240, R250). -/
inductive MxStage where
  | waiting
  | inPass (pass : Nat)
  | frozen
  /-- Drained or read; its writes or reply are on their way. -/
  | finishing
  deriving DecidableEq, Repr

/-- A quarter request (R230). -/
structure MxReq where
  id : Nat
  gid : Nat
  team : Nat
  vf : Nat
  core : Nat
  slot : Nat
  octet : Nat
  cls : Nat
  seq : Nat
  side : Nat
  run : Nat
  word : Nat
  kind : MxKind
  /-- Active rows, bit i (R230). -/
  rows : BitVec 8
  dst : Nat
  src : Option Nat
  /-- K / 16. -/
  chunks : Nat
  next : Nat
  bAddr : Word64
  /-- Format block as read (R231). -/
  fmt : BitVec 256
  aScale : Word32
  bScale : Word32
  /-- Scratchpad offsets of the A rows, or drain row addresses, by row. -/
  rowAddr : List Nat
  /-- Place in the scratchpad's superseded states at issue: A rows are read as they stood then or later (R239). -/
  mark : Nat
  reg : Nat
  col : Nat
  wdata : List (List Word32)
  mod : BitVec 8
  e4m3 : Bool
  scale : Word32
  amaxAddr : Word64
  /-- The absmax value still to be applied (R248). -/
  amax : Option Word32
  /-- Pages as translated at issue, by 64 KiB page of the address (R235): B, scales, drain rows, absmax word. -/
  pages : List (Nat × Page)
  stamp : Nat
  /-- Ready cycle (R240). -/
  since : Option Nat
  /-- Cycle at which its fusion window closes; none once closed (R241). -/
  window : Option Nat
  /-- Its window stays closed: it was frozen or saved (R250, R252). -/
  closed : Bool
  stage : MxStage
  /-- Running accumulators of a frozen quarter, row × 256 + column. -/
  part : SMap Word32
  /-- Sums discarded for DATA_ERROR (R243). -/
  held : Bool
  /-- Writes and reductions outstanding, and the largest completion time so far (R220, R249). -/
  pending : Nat
  hmax : Nat
  /-- Drained sectors that wait for the port of their peer page, by address (R249, R425). -/
  unsent : List (Nat × List Byte)
  deriving DecidableEq, Repr

/-- A pass of the array (R242). -/
structure Pass where
  id : Nat
  members : List Nat
  start : Nat
  /-- GTC tick at the start (R219). -/
  tick : Nat
  /-- First cycle after its last chunk. -/
  free : Nat
  commit : Nat
  /-- Snapshots of chained sources, taken at the start (R236), by request. -/
  snaps : List (Nat × SMap Word32)
  /-- Chunks after which it stops, because a quarter of it was killed (R250, R253). -/
  stop : Option Nat
  deriving DecidableEq, Repr

/-- State of a cluster: matrix engine, TWE, L2 slice (R1). -/
structure Cluster where
  reqs : List MxReq
  passes : List Pass
  mxGrantWin : Nat
  mxGrant : Bool
  l2 : List Line
  /-- The last tick in which the TWE wrote, and the bytes it wrote in it: 128 a tick at most (R314). -/
  tweAt : Nat
  tweUsed : Nat
  deriving DecidableEq, Repr

/-- State of one receiver of a tile-walk command (R316). -/
structure Recv where
  team : Nat
  /-- Bytes already written (R320). -/
  progress : Nat
  since : Option Nat
  /-- Cycle in which its write arrived at the guard word (R196). -/
  arrived : Nat
  done : Bool
  /-- Writes on their way, and the 64 KiB pages that they went to (R186). -/
  pending : Nat
  pages : List Nat
  /-- A FE_WAIT of its guard is open (R320). -/
  held : Bool
  /-- Bytes that the command has written there, which its later elements read (R311). -/
  own : SMap (Option Byte)
  /-- Tick at which it is tried next [DESIGN CHOICE, log entry 4]. -/
  next : Nat
  deriving DecidableEq, Repr

/-- Kinds of tile-walk commands. -/
inductive TweKind where
  | cpy | cpym | cpyc
  /-- A COPY packet (R358). -/
  | packet (pkt : Nat)
  deriving DecidableEq, Repr

/-- Where a tile-walk command stands. -/
inductive TweStage where
  /-- Checked; its word waits for a promise slot or for a queue entry (R120, R314). -/
  | checked
  | queued
  /-- A participant that has ended by IGNORE and counts as executed for the others (R319). -/
  | past
  deriving DecidableEq, Repr

/-- A tile-walk command (R314). -/
structure TweCmd where
  id : Nat
  gid : Nat
  team : Nat
  grid : Nat
  vf : Nat
  cluster : Nat
  die : Nat
  kind : TweKind
  pc : Nat
  desc : BitVec 512
  recvs : List Recv
  bound : Nat
  stamp : Nat
  issuedAt : Nat
  /-- Place in the superseded states of the issuing team's scratchpad at execution, for a scratchpad source (R315). -/
  mark : Nat
  /-- Result of a collective, once combined (R318). -/
  result : Option (List Byte)
  since : Nat
  held : Bool
  hmax : Nat
  ready : Nat
  stage : TweStage
  deriving DecidableEq, Repr

/-- A published state on its way to a boundary slot (R265). -/
structure Pub where
  id : Nat
  team : Nat
  slot : Nat
  /-- Number of the mapping that it was published to. -/
  map : Nat
  tag : Nat
  val : Bool
  ready : Nat
  deriving DecidableEq, Repr

/-- A view (R339, R340). -/
structure View where
  tile : Nat
  task : Nat
  scope : Nat
  sidx : Nat
  /-- Hamper address of the header; data follow it. -/
  addr : Nat
  /-- Team that holds it, for `.views sp`. -/
  team : Nat
  /-- 1 live, 2 ended-pending, 3 merging; blank and merged views have no entry. -/
  st : Nat
  /-- Adopted as the accumulator of its scope (R341). -/
  acc : Bool
  deriving DecidableEq, Repr

/-- A continuation record (R330). -/
structure Rec where
  id : Nat
  task : Task
  pc : Nat
  mask : Word64
  svals : List Word64
  vvals : List (List Word32)
  wait : Option Promise
  /-- Team in whose deque it stands, or on whose core it yielded (R334). -/
  home : Nat
  /-- Waits for its scope's turns (R349). [DEDUCED, log entry 57] -/
  closing : Bool
  /-- Staging time of its lane path when it resumes after a fold (R342). -/
  stamp : Nat
  deriving DecidableEq, Repr

/-- A scope (R341). -/
structure Scope where
  id : Nat
  /-- Owning task. -/
  owner : Nat
  /-- Children that have ended or been killed, not yet folded. -/
  ended : List Nat
  /-- Next child to take its turn. -/
  turn : Nat
  /-- Number of children, known once the parent has reached `scope.close`. -/
  total : Option Nat
  /-- The fold into the parent's view has completed. -/
  folded : Bool
  aborted : Bool
  deriving DecidableEq, Repr

/-- Whose word started a turn, or let it start: its group, its core by absolute number and by core id, its PC, and the place that a halt
record names (R342, R351, R373). -/
structure Starter where
  gid : Nat
  core : Nat
  pc : Nat
  gidx : Nat
  cid : Nat
  tx : Nat
  ty : Nat
  tz : Nat
  deriving DecidableEq, Repr

/-- A turn of the fold in progress (R341, R351). -/
structure Turn where
  id : Nat
  grid : Nat
  scope : Nat
  /-- Child index, or none for the fold into the parent's view. -/
  sidx : Option Nat
  tile : Nat
  off : Nat
  /-- The event that completed its conditions (R342). [DESIGN CHOICE, log entry 54] -/
  who : Starter
  /-- Latest V of its writes (R342). -/
  h : Nat
  stopped : Bool
  /-- CAUSE of the fault that stops it, or 0, and its faulting address (R351). -/
  cause : Nat
  faddr : Nat
  /-- Tick of its next element [DESIGN CHOICE, log entry 4]. -/
  ready : Nat
  deriving DecidableEq, Repr

/-- One role of a grid (R360 w6, w7). -/
structure Role where
  entry : Nat
  alloc : Nat
  count : Nat
  deriving DecidableEq, Repr

/-- One declared tile (R360 w12 to w19). -/
structure VTile where
  valid : Bool
  trap : Bool
  op : Nat
  size : Nat
  deriving DecidableEq, Repr

/-- A launched grid (R360, R361). -/
structure Grid where
  id : Nat
  vf : Nat
  part : Nat
  pkt : Nat
  scb : Word64
  lcb : Word64
  swords : Nat
  lwords : Nat
  args : Word64
  data : Word64
  ffa : Bool
  gang : Nat
  width : Nat
  check : Bool
  prio : Nat
  det : Bool
  task : Bool
  x : Nat
  y : Nat
  z : Nat
  lease : Nat
  scratch : Nat
  accum : Nat
  bars : Nat
  lanes : Nat
  prod : Role
  cons : Role
  ovf : Word64
  ovfSize : Nat
  hamper : Word64
  hsp : Bool
  hsize : Nat
  vtiles : List VTile
  contain : BitVec 128
  arglen : Nat
  statusAddr : Word64
  /-- GTC at the launch; fetch sees the code as it stood then or later (R467). -/
  launchedAt : Nat
  nextTeam : Nat
  endedTeams : Nat
  kfault : Nat
  discard : BitVec 8
  hostKilled : Bool
  restoreFail : Bool
  /-- Teams whose end was a kill by containment (R324). -/
  killedTeams : Nat
  /-- Deferred packets: overflow slot, queue, packet (R323). [DEDUCED, log entry 58] -/
  deferred : List (Nat × Nat × BitVec 512)
  nextDefer : Nat
  nextTask : Nat
  liveTasks : Nat
  nextScope : Nat
  recs : List Rec
  views : List View
  scopes : List Scope
  /-- Hamper blocks in use: team (for sp), address, bytes. -/
  blocks : List (Nat × Nat × Nat)
  /-- Latest completion time of the grid's work (R364). -/
  h : Nat
  ended : Bool
  deriving DecidableEq, Repr

/-- Where a packet stands (R362 to R364). -/
inductive PktState where
  | waiting
  | ready
  /-- Executing: its work is in progress. -/
  | running
  /-- Work complete; decrements to be performed, from index `n` (R364). -/
  | completing (n : Nat)
  deriving DecidableEq, Repr

/-- A packet that the firmware core has taken (R357). -/
structure Pkt where
  id : Nat
  vf : Nat
  queue : Nat
  part : Nat
  bits : BitVec 512
  st : PktState
  /-- The packet was rejected (R359). -/
  rejected : Bool
  /-- Latest completion time of its work. -/
  h : Nat
  /-- Next recheck of a waiting packet's counter or a WAIT's signal, and the physical address of that word. -/
  recheck : Nat
  pa : Nat
  deriving DecidableEq, Repr

/-- A command queue (R323, R362). -/
structure Queue where
  entries : List (BitVec 512)
  widx : Word32
  deriving DecidableEq, Repr

/-- An unanswered halt (R372, R401). -/
structure Halt where
  addr : Nat
  /-- The halted group, or the turn when `merge`. -/
  gid : Nat
  merge : Bool
  turn : Nat
  grid : Nat
  /-- The saved team whose restore failed its checks, or 0 (R376). -/
  team : Nat
  /-- The architected part of the record as it was written: what differs from it at the answer is the host's (R374). -/
  ctx : List Byte
  deriving DecidableEq, Repr

/-- Room that a team holds in the save area, in 64 KiB units (R468). -/
structure Room where
  team : Nat
  base : Nat
  units : Nat
  deriving DecidableEq, Repr

/-- Registers and queues of one virtual function (R401). -/
structure VDev where
  bind : Bool
  idle : BitVec 4
  wclass : BitVec 2
  /-- 0 unbound, 1 active, 2 collapsing, 3 collapsed, 4 waking. -/
  state : BitVec 3
  root : BitVec 38
  save : BitVec 36
  savesz : Word32
  contain0 : Word64
  contain1 : Word64
  qerrV : Bool
  qerrQueue : BitVec 4
  qerrOp : BitVec 8
  qerrReason : BitVec 8
  /-- QBOUND of each queue less its reset value 2^20, modulo 2^32. -/
  qbound : SMap Word32
  queues : SMap Queue
  halts : List Halt
  rooms : List Room
  /-- Tick from which it has been idle. -/
  idleSince : Nat
  /-- Tick of a collapse or wake in progress. -/
  moveAt : Nat
  /-- A wake recorded at level 7 (R408). -/
  wakeReq : Bool
  deriving DecidableEq, Repr

/-- Registers and lists of one partition (R396). -/
structure Part where
  valid : Bool
  prot : Bool
  dfloor : BitVec 3
  rsvc : BitVec 5
  age : BitVec 16
  baseq : BitVec 4
  log2q : BitVec 3
  /-- 0 free, 1 active, 2 resetting, 3 gated. -/
  state : BitVec 2
  depth : BitVec 2
  /-- Shape hash (R403). -/
  shape : BitVec 256
  /-- Wait table: packet ids by ascending index (R363). -/
  table : List (Nat × Nat)
  /-- Ready lists: class, back-fill, packet, in order of appending. -/
  ready : List (Nat × Bool × Nat)
  /-- Restore lists: class and team, in order of saving (R375). -/
  restore : List (Nat × Nat)
  /-- Blocked rounds of the main head, by class (R367). -/
  ages : SMap Nat
  /-- Cluster picked for the blocked head, plus 1, by class (R367). -/
  heldFor : SMap Nat
  needRound : Bool
  lastRound : Nat
  lastCheck : Nat
  /-- End of a reset or teardown in progress. -/
  resetAt : Option Nat
  teardown : Bool
  /-- A teardown written during a reset, held until the reset completes (R399). -/
  heldDown : Bool
  /-- Tick until which its fabric ports retrain after a wake from W3 (R407). [DESIGN CHOICE, log entry 68] -/
  retrainAt : Nat
  deriving DecidableEq, Repr

/-- A store that has left the device: to a host, peer or MMIO address, in order of leaving (R222, R223, R182). -/
structure OutStore where
  ptype : BitVec 2
  addr : Nat
  bytes : List Byte
  /-- Source partition. -/
  part : Nat
  /-- Virtual function that it is sent for (R398, R400). -/
  vf : Nat
  /-- Group that issued it, or on whose behalf it was sent; 0 for the hub (R214). -/
  gid : Nat
  /-- A token or flush read sent behind it has been answered (R222, R223). -/
  settled : Bool
  deriving DecidableEq, Repr

/-- A fabric port and its fence counters, of 32 bits (R222, R391, R425). -/
structure Port where
  down : Bool
  /-- Tick at which a port that is down is up again (R425) [DESIGN CHOICE, log entry 4]. -/
  upAt : Nat
  /-- Stores of the hub that wait for the port, in order (R425). -/
  waiting : List OutStore
  /-- Stores sent, by source partition. -/
  sent : SMap Nat
  /-- Stores covered by an answered token, by source partition. -/
  covered : SMap Nat
  /-- Stores sent before the last token, by source partition. -/
  token : SMap Nat
  deriving DecidableEq, Repr

/-- A fence token or flush read on its way (R222, R223). -/
structure Token where
  id : Nat
  flush : Bool
  port : Nat
  part : Nat
  count : Nat
  /-- Stores that had left the device before it: those it stands behind. -/
  behind : Nat
  /-- Tick at which its answer arrives [DESIGN CHOICE, log entry 4]. -/
  ready : Nat
  deriving DecidableEq, Repr

/-- Hub registers: boot, skew measurement and snapshots (R378, R394, R427). -/
structure Hub where
  /-- 0 booting, 1 READY, 2 FAIL. -/
  bootState : BitVec 4
  bootReason : BitVec 4
  svn : BitVec 8
  /-- The device key derived at boot, none before (R429). -/
  key : List Byte
  gtcSkew : BitVec 16
  gtcErr : Bool
  gtcDie : BitVec 4
  lastMeasure : Nat
  snapAt : Word64
  snapPin : Bool
  armed : Option Nat
  snapSeq : Word32
  snapLost : BitVec 16
  snapTime : Word64
  /-- Dies whose blocks have taken the armed latch: bit d for die d, bit 4 for the hub (R393). -/
  latched : Nat
  /-- Snapshot copies, by BAR2 byte offset (R392, R402). -/
  copies : SMap Word64
  /-- Live counters, by BAR2 byte offset (R392). -/
  counters : SMap Word64
  froute : SMap Byte
  /-- MSI-X tables: bytes, by function × 2^16 + table byte, the mask bit of each entry inverted (R421). [PRESUMED, log entry 25] -/
  msix : Mem
  /-- Pending bits, by function × 2^16 + vector. -/
  pba : SMap Bool
  /-- Vectors signalled: function (0 PF, v + 1 VF v) and vector. -/
  signalled : List (Nat × Nat)
  /-- Board flash: the boot image as the host wrote it (R428). -/
  flash : Mem
  /-- SPDM responses sent (R429). -/
  doe : List (List Byte)
  /-- Replies on the side port (R430). -/
  sideOut : List (List Byte)
  /-- Replies to host reads: a status (0 success, 1 Unsupported Request) and the bytes. -/
  hostOut : List (Nat × List Byte)
  firmwarePass : Nat
  lastPass : Nat
  deriving DecidableEq, Repr

/-- The power controller (R409 to R417). -/
structure Power where
  level : BitVec 3
  pins : BitVec 3
  side : BitVec 3
  eff : BitVec 3
  effSince : Nat
  deadline : Option Nat
  tstep : Nat
  unmet : Bool
  meas : BitVec 16
  sagcnt : BitVec 16
  sag : Bool
  /-- Ticks of recovery still to come after a sag. -/
  recover : Nat
  /-- Energy measured that does not make a whole millijoule yet, in units of 10 µJ (R392). -/
  energyRest : Nat
  lowSince : Option Nat
  lastMeasure : Nat
  measCount : Nat
  drainValid : Bool
  drainSize : Word32
  /-- PWRFAIL has been latched at this tick (R419). -/
  fail : Option Nat
  /-- The drain is over; the package stays stopped (R419). -/
  stopped : Bool
  /-- The drain image: shape of the partition, grid and team (R416, R418). -/
  image : List (BitVec 256 × Grid × Team)
  /-- The turns in progress of the image's grids (R356, R416). -/
  turns : List Turn
  /-- Teams that the drain directory records as not drained: virtual function, grid and linear index (R417). -/
  lost : List (Nat × Nat × Nat)
  deriving DecidableEq, Repr

/-- The whole package. -/
structure State where
  /-- GTC master; 64 bits; R377; 0. -/
  gtc : Nat
  /-- Offset of each die's follower, dies 0 to 3; −1 to 1; R377; 0 each. -/
  skew : List Int
  /-- Offset that each follower drifts to, at most one tick a tick; −1 to 1; R377, R379; 0 each. -/
  skewGoal : List Int
  /-- Count of core cycles; natural number; R4; 0. -/
  cycle : Nat
  /-- Sixteenths of a cycle left in this tick; natural number; R4; 0. -/
  phase : Nat
  /-- A word has been executed in this cycle, so that no more runs start in it; the model's own; Bool; R26; DESIGN CHOICE false, log entry 1. -/
  worked : Bool
  /-- Common clock in 1/16 GHz before a sag halves it; natural number; R410, R415; 24 (1.5 GHz, R1). -/
  clk : Nat
  /-- Count of free values used; the model's own; natural number; R22; DESIGN CHOICE 0, log entry 2. -/
  fresh : Nat
  /-- Next number for a group, team, grid, operation, request, command, packet, write or turn; the model's own; R10; DESIGN CHOICE 1, log entry 2. -/
  nextId : Nat
  /-- The group at which the next scalar or lane word acts; see Group; R10; not live. -/
  cur : Group
  /-- Every other resident group; R10; none. -/
  others : List Group
  /-- Teams, placed or saved; R12; none. -/
  teams : List Team
  /-- Grids that have not left the device; R10; none. -/
  grids : List Grid
  /-- Per-core caches, TLBs, load cap, grants and deques, by absolute core; R188, R185, R293, R295, R334; empty. -/
  cores : SMap Core
  /-- Per-cluster matrix engine and L2 slice, by absolute cluster; R240, R192; empty. -/
  clusters : SMap Cluster
  /-- L2 TLBs, by quadrant; R185; empty. -/
  tlb2 : SMap (List TlbEntry)
  /-- Variable-latency operations in flight; R206; none. -/
  ops : List Op
  /-- Writes at their homes that are not visible yet; R208; none. -/
  writes : List PWrite
  /-- Device memory, by device physical address; R183; every byte 0, DESIGN CHOICE, log entry 15. -/
  mem : Mem
  /-- Sectors that hold an uncorrectable error, ascending; R465; none. -/
  errs : List Nat
  /-- Latest lease end granted, by 128-byte region; R210; 0 each. -/
  leases : SMap Nat
  /-- First instant at which a later write of a byte may become visible, P + 1; by byte; R208; 0 each. -/
  lastV : SMap Nat
  /-- Superseded sector states that staged reads may still return; R219; none. -/
  olds : List Old
  /-- Instant since which a path has staged a sector, by path, core or cluster, and sector: no read there returns a state that ended by
  then; R219; 0 each. -/
  staged : SMap Nat
  /-- Stores that left the device; R182, R222, R223; none. -/
  outStores : List OutStore
  /-- Host pages that ATS translates, as (vf, 4 KiB page of the bus address); R182, R420; none. -/
  atsPages : List (Nat × Nat)
  /-- Page requests outstanding, as (vf, page); at most 256 per VF; R420; none. -/
  priReqs : List (Nat × Nat)
  /-- Refused page requests that an engine has still to see, as (vf, page); R182; none. -/
  priRefused : List (Nat × Nat)
  /-- Outstanding page requests on which an engine, the hub or a fetch waits, as (vf, page); R182; none. -/
  priEngines : List (Nat × Nat)
  /-- Tile-walk commands; R314; none. -/
  twe : List TweCmd
  /-- Boundary publications in flight; R265; none. -/
  pubs : List Pub
  /-- Fold turns in progress; R341; none. -/
  turns : List Turn
  /-- Packets the firmware core has taken; R362; none. -/
  pkts : List Pkt
  /-- Partitions 0 to 15; R396; free. -/
  parts : SMap Part
  /-- Virtual functions 0 to 127; R401; unbound. -/
  vdevs : SMap VDev
  /-- Fabric ports 0 to 17; R424, R425; up, counters 0. -/
  ports : SMap Port
  /-- Fence tokens and flush reads in flight; R222, R223; none. -/
  tokens : List Token
  /-- Pending translation invalidations, as (vf, va, level of the entry); R186; none. -/
  invals : List (Nat × Word64 × Nat)
  /-- Hub registers; R378, R394, R427; booting. -/
  hub : Hub
  /-- Power controller; R414; 0. -/
  power : Power
  /-- Cores that harvest has disabled, absolute numbers ascending; R18; DESIGN CHOICE none, log entry 16. -/
  harvest : List Nat
  /-- Steps of the outside world still to come, each with the tick at which it comes; the model's own; none. [DESIGN CHOICE, log entry 1] -/
  inputs : List (Nat × Instr)
  deriving DecidableEq, Repr

/-- A node at placement (R255). -/
def Node.reset : Node :=
  { s := false, h := 0, colour := 0, clamp := false, cval := false, cstart := 0, ccount := 0, count := 0 }

/-- A boundary slot at placement (R255). -/
def BSlot.reset : BSlot :=
  { mapped := false, init := false, srcid := 0, node := 0, start := 0, at_ := 0, map := 0, ring := [] }

/-- A barrier slot at placement (R381). -/
def Bar.reset : Bar := { mode := false, arrived := 0, expect := 0, phase := 0 }

/-- A core that holds nothing. -/
def Core.reset : Core :=
  { l1 := [], pred := [], tlb := [], capDrop := 0, victims := [], lost := 0, grantWin := 0, grant := false, lossWin := 0 }

/-- A cluster whose engines are idle. -/
def Cluster.reset : Cluster := { reqs := [], passes := [], mxGrantWin := 0, mxGrant := false, l2 := [], tweAt := 0, tweUsed := 0 }

/-- An empty command queue (R398). -/
def Queue.reset : Queue := { entries := [], widx := 0 }

/-- An unbound virtual function (R401). -/
def VDev.reset : VDev :=
  { bind := false, idle := 0, wclass := 0, state := 0, root := 0, save := 0, savesz := 0, contain0 := 0, contain1 := 0,
    qerrV := false, qerrQueue := 0, qerrOp := 0, qerrReason := 0, qbound := [], queues := [], halts := [], rooms := [],
    idleSince := 0, moveAt := 0, wakeReq := false }

/-- A free partition (R396). -/
def Part.reset : Part :=
  { valid := false, prot := false, dfloor := 0, rsvc := 0, age := 0, baseq := 0, log2q := 0, state := 0, depth := 0,
    shape := 0, table := [], ready := [], restore := [], ages := [], heldFor := [], needRound := false, lastRound := 0,
    lastCheck := 0, resetAt := none, teardown := false, heldDown := false, retrainAt := 0 }

/-- A port at reset (R391). -/
def Port.reset : Port := { down := false, upAt := 0, waiting := [], sent := [], covered := [], token := [] }

/-- A group slot that holds no group. [DESIGN CHOICE, log entry 2] -/
def Group.empty : Group :=
  { gid := 0, live := false, team := 0, grid := 0, vf := 0, core := 0, slot := 0, gidx := 0, role := 1, width := 8,
    alloc := 8, s := [], k := [], kc := [], klog := [], pc := 0, gctl := 0, gstat := 0, febound := 0x100000,
    lease := 512, acqfloor := 0, lcb := 0, scb := 0, swords := 0, lwords := 0, v := [], late := [], orf := [], lrf := [],
    lstat := [], proms := [], queue := [], runs := [], out := [], hd := 0, hs := 0, h1 := 0, h2 := 0, h3 := 0,
    stamp0 := 0, stamp1 := 0, stamp2 := 0, stamp3 := 0, stall := .none, sready := 0, sboard := [], fault := none,
    heldFaults := [], preempt := false, nextStart := 0, seqNext := 1, pos := (0, 0), task := none, stretch := 0, steals := 0,
    launch := [], detPend := false, abandoned := none }

/-- The hub at cold reset (R378, R394, R427). -/
def Hub.reset : Hub :=
  { bootState := 0, bootReason := 0, svn := 0, key := [], gtcSkew := 0, gtcErr := false, gtcDie := 0, lastMeasure := 0,
    snapAt := 0, snapPin := false, armed := none, snapSeq := 0, snapLost := 0, snapTime := 0, latched := 0, copies := [],
    counters := [], froute := [], msix := [], pba := [], signalled := [], flash := [], doe := [], sideOut := [],
    hostOut := [], firmwarePass := 0, lastPass := 0 }

/-- The power controller at cold reset (R414). -/
def Power.reset : Power :=
  { level := 0, pins := 0, side := 0, eff := 0, effSince := 0, deadline := none, tstep := 0, unmet := false, meas := 0,
    sagcnt := 0, sag := false, recover := 0, energyRest := 0, lowSince := none, lastMeasure := 0, measCount := 0, drainValid := false,
    drainSize := 0, fail := none, stopped := false, image := [], turns := [], lost := [] }

/-- The machine right after package cold reset: GTC 0, no partition, no virtual device bound, the boot ROM running
(R377, R396, R401, R414, R427). Values that the manual does not give are named in log entries 2, 15 and 16 (DESIGN CHOICE). -/
def State.reset : State :=
  { gtc := 0, skew := [0, 0, 0, 0], skewGoal := [0, 0, 0, 0], cycle := 0, phase := 0, worked := false, clk := 24, fresh := 0, nextId := 1,
    cur := Group.empty, others := [], teams := [], grids := [], cores := [], clusters := [], tlb2 := [], ops := [],
    writes := [], mem := [], errs := [], leases := [], lastV := [], olds := [], staged := [], outStores := [], atsPages := [],
    priReqs := [], priRefused := [], priEngines := [], twe := [], pubs := [], turns := [], pkts := [], parts := [], vdevs := [], ports := [], tokens := [],
    invals := [], hub := Hub.reset, power := Power.reset, harvest := [], inputs := [] }

end Sys2Proof.Machine
end

