-- ==== Sys2Proof/Machine/Base.lean ====
section
/-! DEFINITION. Plain operations: sparse maps, bytes, registers, and looking up groups, teams and grids. -/

namespace Sys2Proof.Machine

/-! Sparse maps (see `SMap`). -/

/-- The value at a key; `d` for an unlisted one. -/
def sget {α : Type} (m : SMap α) (d : α) (k : Nat) : α :=
  match m with
  | [] => d
  | (j, v) :: r => if k = j then v else if k < j then d else sget r d k

/-- The map with one key changed, in the canonical form: an entry equal to the default is not listed. -/
def sset {α : Type} [DecidableEq α] (m : SMap α) (d : α) (k : Nat) (v : α) : SMap α :=
  match m with
  | [] => if v = d then [] else [(k, v)]
  | (j, u) :: r =>
    if k < j then (if v = d then (j, u) :: r else (k, v) :: (j, u) :: r)
    else if k = j then (if v = d then r else (k, v) :: r)
    else (j, u) :: sset r d k v

/-- Every key is above `lo`, keys rise, and no entry equals the default. -/
def smapFrom {α : Type} [DecidableEq α] (lo : Nat) (d : α) : SMap α → Bool
  | [] => true
  | (j, v) :: r => decide (lo ≤ j) && !decide (v = d) && smapFrom (j + 1) d r

/-- The canonical form (see `SMap`). -/
def smapWf {α : Type} [DecidableEq α] (d : α) (m : SMap α) : Bool := smapFrom 0 d m

/-- The canonical form of a byte store whose unlisted bytes read 0. [DESIGN CHOICE, log entry 15] -/
def Memory.wf (m : Mem) : Bool := smapWf 0 m

/-- Every listed value changed; entries that become the default are dropped. -/
def smapUpd {α : Type} [DecidableEq α] (m : SMap α) (d : α) (f : α → α) : SMap α :=
  (m.map (fun kv => (kv.1, f kv.2))).filter (fun kv => !decide (kv.2 = d))

/-- Several keys changed, in the order listed. -/
def ssetAll {α : Type} [DecidableEq α] (m : SMap α) (d : α) (l : List (Nat × α)) : SMap α :=
  l.foldl (fun m kv => sset m d kv.1 kv.2) m

/-- The lowest bytes of a number, lowest first (R3). -/
def toBytes (n x : Nat) : List Byte :=
  match n with
  | 0 => []
  | n + 1 => BitVec.ofNat 8 x :: toBytes n (x / 256)

/-- The number of a little-endian byte string (R3). -/
def ofBytes : List Byte → Nat
  | [] => 0
  | b :: r => b.toNat + 256 * ofBytes r

/-- `n` bytes from address `a` upwards. [DESIGN CHOICE, log entry 15] -/
def readBytes (m : Mem) (a n : Nat) : List Byte :=
  match n with
  | 0 => []
  | n + 1 => sget m 0 a :: readBytes m (a + 1) n

/-- Bytes written from address `a` upwards. -/
def writeBytes (m : Mem) (a : Nat) : List Byte → Mem
  | [] => m
  | b :: r => writeBytes (sset m 0 a b) (a + 1) r

/-- A number replaced in a list. -/
def setAt {α : Type} (l : List α) (n : Nat) (v : α) : List α := l.set n v

/-- The elements of a list replaced where a test holds. -/
def mapIf {α : Type} (l : List α) (p : α → Bool) (f : α → α) : List α := l.map (fun x => if p x then f x else x)

/-- An insertion into an ascending list of numbers without repeats. -/
def insertNat (n : Nat) : List Nat → List Nat
  | [] => [n]
  | m :: r => if n < m then n :: m :: r else if n = m then m :: r else m :: insertNat n r

/-! Fault codes. -/

/-- The number of a code (R369). -/
def Code.num : Code → Nat
  | .illegalOp => 0x01 | .runForm => 0x02 | .stallShort => 0x03 | .unawaitedRead => 0x04 | .regBounds => 0x05
  | .scrBounds => 0x06 | .feWait => 0x07 | .xlate => 0x08 | .access => 0x09 | .atomSpace => 0x0A | .divZero => 0x0B
  | .intOvf => 0x0C | .fpInvalid => 0x0D | .fpDivzero => 0x0E | .promiseMissed => 0x0F | .mxFormat => 0x10
  | .mxSlot => 0x11 | .imageVersion => 0x12 | .ffaBias => 0x13 | .ffaStale => 0x14 | .viewPool => 0x15
  | .mergeFault => 0x16 | .taskWatchdog => 0x17 | .restoreCapacity => 0x18 | .dataError => 0x19 | .detPower => 0x1A
  | .brk => 0x1B

/-- The default policy of a code (R369). -/
def Code.default : Code → Policy
  | .promiseMissed => .retry
  | .ffaBias => .retry
  | _ => .halt

/-- The policy of a nibble 1 to 6 (R360); 7 and above count as HALT (R401). -/
def Policy.ofNibble (n : Nat) : Policy :=
  match n with
  | 1 => .pass | 2 => .ignore | 3 => .retry | 4 => .killSelf | 5 => .killParent | _ => .halt

/-! Places (R1, R18): cores are numbered 0 to 511 over the package, 32 a quadrant, 128 a die. -/

def clusterOf (core : Nat) : Nat := core / 4
def quadOf (core : Nat) : Nat := core / 32
def dieOf (core : Nat) : Nat := core / 128

/-- The quadrant whose stack holds a device address (R183). -/
def stackOf (pa : Nat) : Nat := pa / 2 ^ 36

/-- The 128-byte region of a device address (R183). -/
def regionOf (pa : Nat) : Nat := pa / 128

/-- The home cluster of a device address, over the package (R183). -/
def homeOf (pa : Nat) : Nat :=
  let m := regionOf pa
  stackOf pa * 8 + (m % 8 ^^^ m / 64 % 8)

/-- The die of a home cluster (R395). -/
def dieOfCluster (c : Nat) : Nat := c / 32

/-- The byte lies where a stack window holds no memory (R184), or above HBM. -/
def noMemory (pa : Nat) : Bool := decide (0xEE6B28000 ≤ pa % 2 ^ 36) || decide (2 ^ 40 ≤ pa)

/-! Scalar and mask registers. -/

/-- Reads a scalar register; s0 reads zero (R100). -/
def Group.readS (g : Group) (n : BitVec 6) : Word64 := if n = 0 then 0 else sget g.s 0 n.toNat

/-- Writes a scalar register; a write to s0 is discarded (R100). x0 to x3 are s56 to s59 (R99). -/
def Group.writeS (g : Group) (n : BitVec 6) (v : Word64) : Group :=
  if n = 0 then g else { g with s := sset g.s 0 n.toNat v }

/-- Reads a mask register (R98). -/
def Group.readK (g : Group) (n : BitVec 4) : Word64 := sget g.k 0 n.toNat

/-- The launch mask (R17). -/
def Group.k0 (g : Group) : Word64 := sget g.k 0 0

/-- Writes a mask register from the scalar stream: no run is left that writes it (R33), so it is committed at once. -/
def Group.writeK (g : Group) (n : BitVec 4) (v : Word64) : Group :=
  { g with k := sset g.k 0 n.toNat v, kc := sset g.kc 0 n.toNat v }

/-- PC := PC + 1 (R101). -/
def Group.advance (g : Group) : Group := { g with pc := g.pc + 1 }

/-- The class of a group, from GCTL bits 7:6 (R168). -/
def Group.cls (g : Group) : Nat := (g.gctl.extractLsb' 6 2).toNat
/-- Stall checking (R129, R168). -/
def Group.check (g : Group) : Bool := g.gctl.getLsbD 0
/-- Deterministic mode (R168). -/
def Group.det (g : Group) : Bool := g.gctl.getLsbD 5

/-- The path horizon H0 to H3 (R220). -/
def Group.horizon (g : Group) (q : Nat) : Nat :=
  match q with | 0 => g.hd | 1 => g.h1 | 2 => g.h2 | _ => g.h3

/-- The staging time of a path (R221). -/
def Group.stamp (g : Group) (p : Nat) : Nat :=
  match p with | 0 => g.stamp0 | 1 => g.stamp1 | 2 => g.stamp2 | _ => g.stamp3

def Group.setStamp (g : Group) (p t : Nat) : Group :=
  match p with
  | 0 => { g with stamp0 := max g.stamp0 t }
  | 1 => { g with stamp1 := max g.stamp1 t }
  | 2 => { g with stamp2 := max g.stamp2 t }
  | _ => { g with stamp3 := max g.stamp3 t }

/-! Lane registers. -/

/-- A lane register as a lane word reads it: a variable-latency result is not seen before its run has retired (R31). [DEDUCED, log entry 28] -/
def Group.readV (g : Group) (lane r : Nat) : Word32 :=
  match g.late.find? (fun e => e.1 == lane * 256 + r) with
  | some (_, _, _, x) => x
  | none => sget g.v 0 (lane * 256 + r)

/-- A fixed-latency write of a lane register; it replaces what landed before it (R127, R130). -/
def Group.writeV (g : Group) (key : Nat) (x : Word32) : Group :=
  { g with v := sset g.v 0 key x, late := g.late.filter (fun e => e.1 != key) }

/-- A variable-latency result of a side lands (R130): it is read once the side has retired. -/
def Group.writeLate (g : Group) (seq side key : Nat) (x : Word32) : Group :=
  { g with v := sset g.v 0 key x, late := g.late ++ [(key, seq, side, sget g.v 0 key)] }

/-- Lane numbers below a bound whose bit is 1, ascending (R7). -/
def lanesOf (m : Word64) : List Nat := (List.range 64).filter (fun j => m.getLsbD j)

/-- The mask of a set of lanes. -/
def maskOf (l : List Nat) : Word64 := l.foldl (fun m j => m ||| BitVec.ofNat 64 (2 ^ j)) 0

/-- The number of 1 bits (R113). -/
def popcount (x : Word64) : Nat := ((List.range 64).filter (fun j => x.getLsbD j)).length

/-! Runs and tokens. -/

/-- Every started and not retired side of the group's runs. -/
def Group.sides (g : Group) : List Side := g.runs.flatMap (·.sides)

/-- The token is pending: a consumed trailer assigns it and that run has not retired (R102, R30). Two runs of a pair whose trailers
both assign it hold it until both have retired (R35). -/
def Group.tokenPending (g : Group) (t : Nat) : Bool :=
  g.runs.any (fun r =>
    let l := r.sides.filter (fun d => d.tr.tok.toNat == t)
    l.any (·.issued) && !l.all (·.retired))

/-- Every token of a set is complete (R34). -/
def Group.tokensDone (g : Group) (set : BitVec 8) : Bool :=
  (List.range 8).all (fun t => !set.getLsbD t || !g.tokenPending t)

/-- Every enqueued run has retired (a run leaves `runs` at its retirement). -/
def Group.runsRetired (g : Group) : Bool := g.queue.isEmpty && g.runs.isEmpty

/-- Every run has retired and every fixed-latency write has landed (R43, R173). -/
def Group.quiet (g : Group) : Bool := g.runsRetired && g.out.isEmpty

/-- A fault of the group is open: raised and not decided, or halted with (R287, R370). -/
def Group.stopped (g : Group) : Bool := g.fault.isSome || !g.heldFaults.isEmpty

/-- The latest completion time of a group's accesses so far (R214, R220). -/
def Group.latest (g : Group) : Nat := max (max g.hd g.hs) (max g.h1 (max g.h2 g.h3))

/-! Groups, teams, grids. -/

/-- The group with a number, if it is resident. -/
def State.group? (s : State) (gid : Nat) : Option Group :=
  if s.cur.live && s.cur.gid == gid then some s.cur else s.others.find? (fun g => g.gid == gid)

/-- A group replaced by its new self. -/
def State.setGroup (s : State) (g : Group) : State :=
  if s.cur.gid == g.gid && s.cur.live then { s with cur := g }
  else { s with others := mapIf s.others (·.gid == g.gid) (fun _ => g) }

/-- A group changed in place. -/
def State.modGroup (s : State) (gid : Nat) (f : Group → Group) : State :=
  if s.cur.gid == gid && s.cur.live then { s with cur := f s.cur }
  else { s with others := mapIf s.others (·.gid == gid) f }

/-- The issue position moved to a resident group. -/
def State.focus (s : State) (gid : Nat) : State :=
  if s.cur.live && s.cur.gid == gid then s
  else
    match s.others.find? (fun g => g.live && g.gid == gid) with
    | none => s
    | some g =>
      let rest := s.others.filter (fun h => h.gid != gid)
      { s with cur := g, others := if s.cur.live then s.cur :: rest else rest }

/-- An insertion by a numeric key, after equal keys. -/
def insertBy {α : Type} (key : α → Nat) (x : α) : List α → List α
  | [] => [x]
  | y :: r => if key x < key y then x :: y :: r else y :: insertBy key x r

/-- A list sorted by a numeric key, equal keys in their order. -/
def sortBy {α : Type} (key : α → Nat) (l : List α) : List α := l.foldl (fun acc x => insertBy key x acc) []

/-- Order of two keys, first difference deciding. -/
def lexLt : List Nat → List Nat → Bool
  | a :: r, b :: t => decide (a < b) || (a == b && lexLt r t)
  | [], _ :: _ => true
  | _, [] => false

/-- The least element of a list by a key. -/
def leastBy {α : Type} (key : α → List Nat) (l : List α) : Option α :=
  l.foldl (fun (a : Option α) x => match a with | none => some x | some y => if lexLt (key x) (key y) then some x else some y) none

/-- Every resident group, in ascending core and resident-group slot order (R288, R41). -/
def State.groups (s : State) : List Group :=
  sortBy (fun g => g.core * 64 + g.slot) (if s.cur.live then s.cur :: s.others else s.others)

def State.team? (s : State) (id : Nat) : Option Team := s.teams.find? (fun t => t.id == id)
def State.modTeam (s : State) (id : Nat) (f : Team → Team) : State := { s with teams := mapIf s.teams (·.id == id) f }
def State.grid? (s : State) (id : Nat) : Option Grid := s.grids.find? (fun t => t.id == id)
def State.modGrid (s : State) (id : Nat) (f : Grid → Grid) : State := { s with grids := mapIf s.grids (·.id == id) f }
def State.op? (s : State) (id : Nat) : Option Op := s.ops.find? (fun o => o.id == id)
def State.modOp (s : State) (id : Nat) (f : Op → Op) : State := { s with ops := mapIf s.ops (·.id == id) f }
def State.core (s : State) (c : Nat) : Core := sget s.cores Core.reset c
def State.modCore (s : State) (c : Nat) (f : Core → Core) : State :=
  { s with cores := sset s.cores Core.reset c (f (s.core c)) }
def State.cluster (s : State) (c : Nat) : Cluster := sget s.clusters Cluster.reset c
def State.modCluster (s : State) (c : Nat) (f : Cluster → Cluster) : State :=
  { s with clusters := sset s.clusters Cluster.reset c (f (s.cluster c)) }
def State.part (s : State) (n : Nat) : Part := sget s.parts Part.reset n
def State.modPart (s : State) (n : Nat) (f : Part → Part) : State :=
  { s with parts := sset s.parts Part.reset n (f (s.part n)) }
def State.vdev (s : State) (n : Nat) : VDev := sget s.vdevs VDev.reset n
def State.modVDev (s : State) (n : Nat) (f : VDev → VDev) : State :=
  { s with vdevs := sset s.vdevs VDev.reset n (f (s.vdev n)) }
def State.pkt? (s : State) (id : Nat) : Option Pkt := s.pkts.find? (fun p => p.id == id)
def State.modPkt (s : State) (id : Nat) (f : Pkt → Pkt) : State := { s with pkts := mapIf s.pkts (·.id == id) f }
def State.twe? (s : State) (id : Nat) : Option TweCmd := s.twe.find? (fun p => p.id == id)
def State.modTwe (s : State) (id : Nat) (f : TweCmd → TweCmd) : State := { s with twe := mapIf s.twe (·.id == id) f }
def State.req? (s : State) (id : Nat) : Option MxReq :=
  (s.clusters.flatMap (fun kc => kc.2.reqs)).find? (fun r => r.id == id)
def State.modReq (s : State) (id : Nat) (f : MxReq → MxReq) : State :=
  match s.req? id with
  | none => s
  | some r => s.modCluster (clusterOf r.core) (fun c => { c with reqs := mapIf c.reqs (·.id == id) f })
def State.port (s : State) (n : Nat) : Port := sget s.ports Port.reset n
def State.modPort (s : State) (n : Nat) (f : Port → Port) : State :=
  { s with ports := sset s.ports Port.reset n (f (s.port n)) }

/-- The resident groups of a team, in group order. -/
def State.groupsOf (s : State) (team : Nat) : List Group := s.groups.filter (fun g => g.team == team)

/-- The team of the current group, or one that holds nothing. -/
def Team.none_ : Team :=
  { id := 0, grid := 0, vf := 0, core := 0, lin := 0, tx := 0, ty := 0, tz := 0, cls := 0, order := 0, scrSize := 0,
    scr := [], fe := [], errs := [], bars := [], nslots := 0, acc := [], ffa := none, ngroups := 0, gen := 0, saved := [],
    saving := none, savedAt := none, granule := 0, h := 0, past := [], deque := [], spill := [] }

def State.teamOf (s : State) (g : Group) : Team := (s.team? g.team).getD Team.none_

/-- The partition that holds a quadrant, if one does (R395). -/
def State.partOfQuad (s : State) (q : Nat) : Option Nat :=
  (List.range 16).find? (fun n =>
    let p := s.part n
    p.valid && decide (p.baseq.toNat ≤ q) && decide (q < p.baseq.toNat + 2 ^ p.log2q.toNat))

/-- The partition of a virtual function: the one that holds its quadrant (R400). -/
def State.partOfVf (s : State) (vf : Nat) : Option Nat := s.partOfQuad (vf / 8)

/-- The ports of a virtual function's partition retrain after a wake from W3 (R407). -/
def retraining (s : State) (vf : Nat) : Bool :=
  match s.partOfVf vf with
  | some n => decide (s.gtc < (s.part n).retrainAt)
  | none => false

/-- The cores of a partition, ascending and without those that harvest has disabled: position is the core id (R18). [DESIGN CHOICE, log entry 16] -/
def State.coresOf (s : State) (n : Nat) : List Nat :=
  let p := s.part n
  ((List.range (32 * 2 ^ p.log2q.toNat)).map (· + 32 * p.baseq.toNat)).filter (fun c => !s.harvest.contains c)

/-- The core id of an absolute core within its partition (R18). -/
def State.coreId (s : State) (core : Nat) : Nat :=
  match s.partOfQuad (quadOf core) with
  | none => 0
  | some n => ((s.coresOf n).filter (fun c => decide (c < core))).length

/-- The partition of a virtual function holds a running deterministic grid (R412). -/
def State.detRuns (s : State) (vf : Nat) : Bool :=
  s.grids.any (fun d => d.det && !d.ended && d.nextTeam != 0 && s.partOfVf d.vf == s.partOfVf vf)

/-- The throttle sub-steps that act on a virtual function's partition, those of step 5 apart: none while it holds a running
deterministic grid (R410, R412). -/
def State.tstepOf (s : State) (vf : Nat) : Nat := if s.detRuns vf then 0 else s.power.tstep

/-- Hd of a group is pending: a tile-walk command writes a scratchpad on its behalf and has not completed (R214). -/
def State.hdPending (s : State) (gid : Nat) : Bool := s.twe.any (fun c => c.gid == gid && c.stage != .past && c.desc.getLsbD 127)

/-- A group as what starts a turn by its word at the PC (R342, R351). -/
def State.starter (s : State) (g : Group) : Starter :=
  let t := s.teamOf g
  { gid := g.gid, core := g.core, pc := g.pc, gidx := g.gidx, cid := s.coreId g.core, tx := t.tx, ty := t.ty, tz := t.tz }

/-! Time. -/

/-- The GTC as a die sees it (R377). -/
def State.time (s : State) (die : Nat) : Nat := ((s.gtc : Int) + s.skew.getD die 0).toNat

/-- The GTC as a group sees it. -/
def State.timeOf (s : State) (g : Group) : Nat := s.time (dieOf g.core)

/-- What a command of the host does: nothing while the package is stopped (R419). -/
def unlessStopped (s f : State) : Host.Outcome State Fault Refusal := .next (if s.power.stopped then s else f)

/-- One tick of drift towards an offset. [DESIGN CHOICE, log entry 13] -/
def moveSkew (a goal : Int) : Int := if a < goal then a + 1 else if goal < a then a - 1 else a

/-- The GTC that a die sees in the next tick. -/
def State.timeNext (s : State) (die : Nat) : Nat :=
  ((s.gtc : Int) + 1 + moveSkew (s.skew.getD die 0) (s.skewGoal.getD die 0)).toNat

/-- The groups of a team that hold to its time: the resident ones, and those at their save point while the team is still being saved
(R380). -/
def timedGroups (s : State) : List Group :=
  s.groups ++ (s.teams.filter (fun t => t.savedAt.isNone)).flatMap (fun t => t.saved)

/-- A group that holds to the time. -/
def State.timed? (s : State) (gid : Nat) : Option Group := (timedGroups s).find? (fun g => g.gid == gid)

/-- A group changed, resident or saved. -/
def State.modGroupAny (s : State) (gid : Nat) (f : Group → Group) : State :=
  let s := s.modGroup gid f
  { s with teams := s.teams.map (fun (t : Team) => { t with saved := mapIf t.saved (·.gid == gid) f }) }

/-- A free duration from now, and the state that has used it [DESIGN CHOICE, log entry 4]. -/
def State.later (s : State) : Nat × State := (s.gtc + Config.latency s.fresh, { s with fresh := s.fresh + 1 })

/-- A new number for an object. -/
def State.newId (s : State) : Nat × State := (s.nextId, { s with nextId := s.nextId + 1 })

/-- The sum of a counter's bump (R392), by BAR2 byte offset. -/
def State.count (s : State) (off n : Nat) : State :=
  { s with hub := { s.hub with counters := sset s.hub.counters 0 off (sget s.hub.counters 0 off + BitVec.ofNat 64 n) } }

/-- BAR2 offsets of the counter blocks (R402), and entry n of each (R392). -/
def ctrCore (core n : Nat) : Nat := 0x2000 * quadOf core + 64 * (core % 32) + 8 * n
def ctrL2 (cl n : Nat) : Nat := 0x2000 * (cl / 8) + 0x800 + 64 * (cl % 8) + 8 * n
def ctrMx (cl n : Nat) : Nat := 0x2000 * (cl / 8) + 0xA00 + 64 * (cl % 8) + 8 * n
def ctrTwe (cl n : Nat) : Nat := 0x2000 * (cl / 8) + 0xC00 + 64 * (cl % 8) + 8 * n
def ctrAnt (cl n : Nat) : Nat := 0x2000 * (cl / 8) + 0xE00 + 64 * (cl % 8) + 8 * n
def ctrFfa (core n : Nat) : Nat := 0x2000 * quadOf core + 0x1000 + 64 * (core % 32) + 8 * n
def ctrPwr (n : Nat) : Nat := 0x2_0000 + 8 * n

/-- Signals an MSI-X vector: function 0 is the PF, v + 1 is VF v. A masked vector sets its pending bit (R422). The mask bit of an
entry is kept inverted, so that every vector is masked at reset, as the PCIe standard has it (R420). [PRESUMED, log entry 25] -/
def State.signal (s : State) (fn vec : Nat) : State :=
  let ctl := sget s.hub.msix 0 (fn * 65536 + 16 * vec + 12)
  if !ctl.getLsbD 0 then { s with hub := { s.hub with pba := sset s.hub.pba false (fn * 65536 + vec) true } }
  else { s with hub := { s.hub with signalled := s.hub.signalled ++ [(fn, vec)] } }

/-- A scalar or lane word acts at the live group of the issue position. -/
def withCur (s : State) (f : State) : Host.Outcome State Fault Refusal :=
  if s.cur.live then .next f else .fault .noAgent

end Sys2Proof.Machine
end

