-- ==== Sys2Proof/Machine/Translate.lean ====
section
/-! DEFINITION. Pages, walks, TLBs and the checks of an address (R177 to R187, R332, R424). -/

namespace Sys2Proof.Machine

/-- What an access asks of its page: read, write, atomic (R181). -/
structure Need where
  rd : Bool
  w : Bool
  at_ : Bool
  deriving DecidableEq, Repr

def needRead : Need := { rd := true, w := false, at_ := false }
def needWrite : Need := { rd := false, w := true, at_ := false }
def needAtomic : Need := { rd := false, w := true, at_ := true }
def needNone : Need := { rd := false, w := false, at_ := false }

/-- Page offset bits of a leaf at a level: 16, 27 or 38 (R180). -/
def pageBits (level : Nat) : Nat := 16 + 11 * level

/-- The page that a leaf gives at an address (R181, R182). -/
def pageOf (entry : Word64) (level : Nat) (va : Nat) : Page :=
  let n := entry.toNat
  { pa := bitsOf n 51 16 * 65536 + va % 2 ^ pageBits level, ptype := entry.extractLsb' 2 2, nc := entry.getLsbD 8,
    nl := entry.getLsbD 7, at_ := entry.getLsbD 6, w := entry.getLsbD 5, rd := entry.getLsbD 4 }

/-- The walk from a table at a level (R180, R181): the leaf and its level, or the fault. An entry that holds an uncorrectable error is
a DATA_ERROR (R465). [DEDUCED, log entry 17] -/
def walkFrom (m : Mem) (errs : List Nat) (va : Nat) (table : Nat) (level : Nat) : Except Code (Word64 × Nat) :=
  let a := table + 8 * bitsOf va (pageBits level + 10) (pageBits level)
  let e : Word64 := BitVec.ofNat 64 (ofBytes (readBytes m a 8))
  if errs.contains (a / 16) then .error .dataError
  else if !e.getLsbD 0 || e.extractLsb' 52 12 != 0 || e.extractLsb' 9 5 != 0 then .error .xlate
  else if e.getLsbD 1 then
    if level == 3 || e.extractLsb' 14 2 != 0 || bitsOf e.toNat 51 16 * 65536 % 2 ^ pageBits level != 0 then .error .xlate
    else .ok (e, level)
  else
    match level with
    | 0 => .error .xlate
    | l + 1 => walkFrom m errs va (bitsOf e.toNat 51 14 * 16384) l

/-- The walk from the translation root of a virtual device (R180). -/
def walk (s : State) (vf : Nat) (va : Nat) : Except Code (Word64 × Nat) :=
  walkFrom s.mem s.errs va ((s.vdev vf).root.toNat * 16384) 3

/-- The quadrant belongs to the partition of the virtual function. -/
def inPartition (s : State) (vf q : Nat) : Bool :=
  match s.partOfVf vf with
  | none => false
  | some n => s.partOfQuad q == some n

/-- A translated page stands (R183, R424): device memory within the partition's stacks, a peer that has a route. -/
def placeOk (s : State) (vf : Nat) (entry : Word64) (p : Page) : Bool :=
  match p.ptype.toNat with
  | 0 =>
    let base := bitsOf entry.toNat 51 16 * 65536
    decide (base < 2 ^ 40) && inPartition s vf (stackOf base) && inPartition s vf (stackOf p.pa)
  | 2 => decide ((sget s.hub.froute 0 (bitsOf p.pa 51 44)).toNat < 18)
  | _ => true

/-- The page permits the access (R181). -/
def Need.permits (n : Need) (p : Page) : Bool := (!n.rd || p.rd) && (!n.w || p.w) && (!n.at_ || p.at_)

/-- A TLB entry that covers an address of a virtual function (R185). -/
def TlbEntry.covers (e : TlbEntry) (vf va : Nat) : Bool := e.vf == vf && e.vpn == va / 2 ^ pageBits e.level

/-- The TLBs searched: the core's, then the quadrant's (R185). [DESIGN CHOICE, log entry 17] -/
def tlbFind (s : State) (vf core va : Nat) : Option TlbEntry :=
  match (s.core core).tlb.find? (·.covers vf va) with
  | some e => some e
  | none => (sget s.tlb2 [] (quadOf core)).find? (·.covers vf va)

/-- An entry put into a TLB of `sets` sets of `ways` ways; the oldest of its set leaves a full set (R185). The set is the page
number's low part. [DESIGN CHOICE, log entry 17] -/
def tlbPut (sets ways : Nat) (e : TlbEntry) (l : List TlbEntry) : List TlbEntry :=
  let l := l.filter (· != e)
  let mine := l.filter (fun x => x.vpn % sets == e.vpn % sets)
  (if mine.length < ways then l else match mine.head? with | some x => l.erase x | none => l) ++ [e]

/-- A walked leaf entered in both TLBs: 64 sets of 4 ways, and 2,048 sets of 8 ways (R185). [DESIGN CHOICE, log entry 17] -/
def tlbInsert (s : State) (core : Nat) (e : TlbEntry) : State :=
  let s := s.modCore core (fun c => { c with tlb := tlbPut 64 4 e c.tlb })
  let q := quadOf core
  { s with tlb2 := sset s.tlb2 [] q (tlbPut 2048 8 e (sget s.tlb2 [] q)) }

/-- The page of an address from a TLB entry, or ACCESS where it may not stand. [DESIGN CHOICE, log entry 17] -/
def pageFrom (s : State) (vf va : Nat) (entry : Word64) (level : Nat) : Except Code Page :=
  let p := pageOf entry level va
  if placeOk s vf entry p then .ok p else .error .access

/-- A translation that misses no walk: the TLBs, else the walk, whose leaf is entered. -/
def translate (s : State) (vf core va : Nat) : Except Code Page × State :=
  match tlbFind s vf core va with
  | some e => (pageFrom s vf va e.entry e.level, s)
  | none =>
    match walk s vf va with
    | .error c => (.error c, s)
    | .ok (e, l) =>
      (pageFrom s vf va e l, tlbInsert s core { vf := vf, level := l, vpn := va / 2 ^ pageBits l, entry := e })

/-- An access of `n` bytes to a page: its permission, and no byte in a hole (R181, R184). -/
def pageCheck (p : Page) (need : Need) (n : Nat) : Option Code :=
  if !need.permits p then some .access
  else if p.ptype == 0 && (noMemory p.pa || noMemory (p.pa + n - 1)) then some .access
  else none

/-- The address range lies in the grid's global Hamper, which no program access reaches (R332). -/
def inHamper (g : Option Grid) (va n : Nat) : Bool :=
  match g with
  | none => false
  | some g => g.task && !g.hsp && g.hsize != 0 && decide (va < g.hamper.toNat + g.hsize) && decide (g.hamper.toNat < va + n)

/-- What keeps an access of an engine, the hub or a fetch from its page. -/
inductive Stop where
  /-- A fault. -/
  | fault (c : Code)
  /-- The host page has been requested, and its answer is awaited (R182). -/
  | page
  deriving DecidableEq, Repr

/-- The code of a stop; a page that is awaited has none. -/
def Stop.code : Stop → Option Code
  | .fault c => some c
  | .page => none

/-- ATS translates the host page (R182). [DEDUCED, log entry 37] -/
def atsHas (s : State) (vf pa : Nat) : Bool := s.atsPages.contains (vf, pa / 4096)

/-- A host page is requested, at most 256 requests outstanding a virtual function (R182, R420). [DEDUCED, log entry 37] -/
def askPage (s : State) (vf pa : Nat) : State :=
  let k := (vf, pa / 4096)
  if s.priReqs.contains k || 256 ≤ (s.priReqs.filter (fun x => x.1 == vf)).length then s else { s with priReqs := s.priReqs ++ [k] }

/-- A page as ATS lets an engine use it: a host page without a translation is requested, and a refused request is an XLATE (R182).
[DEDUCED, log entry 37] -/
def atsStage (s : State) (vf : Nat) (p : Page) : Except Stop Page × State :=
  let k := (vf, p.pa / 4096)
  if p.ptype != 1 || atsHas s vf p.pa then (.ok p, s)
  else if s.priRefused.contains k then (.error (.fault .xlate), { s with priRefused := s.priRefused.erase k })
  else (.error .page, { askPage s vf p.pa with priEngines := if s.priEngines.contains k then s.priEngines else s.priEngines ++ [k] })

/-- The translation and checks of a global access of an engine, of the hub or of a fetch: bits 63:60, Hamper, page, permission and
holes. -/
def reachPage (s : State) (vf core : Nat) (grid : Option Grid) (va n : Nat) (need : Need) : Except Code Page × State :=
  if decide (2 ^ 60 ≤ va) || inHamper grid va n then (.error .access, s)
  else
    match translate s vf core va with
    | (.error c, s) => (.error c, s)
    | (.ok p, s) =>
      match pageCheck p need n with
      | some c => (.error c, s)
      | none => (.ok p, s)

/-! Ports (R391, R424, R425). -/

/-- The port that a peer address leaves by (R424). -/
def portOf (s : State) (pa : Nat) : Nat := (sget s.hub.froute 0 (bitsOf pa 51 44)).toNat

/-- One more store of a partition is counted, modulo 2^32 (R391). -/
def Port.send (p : Port) (part : Nat) : Port := { p with sent := sset p.sent 0 part ((sget p.sent 0 part + 1) % 2 ^ 32) }

/-- The distance from one fence count to another, modulo 2^32 (R391). -/
def fenceGap (from_ to_ : Nat) : Nat := (to_ + 2 ^ 32 - from_) % 2 ^ 32

/-- A source has 2^30 stores on the port that no answered token covers, so that it sends no more (R391). -/
def Port.full (p : Port) (part : Nat) : Bool := decide (2 ^ 30 ≤ fenceGap (sget p.covered 0 part) (sget p.sent 0 part))

/-- The port of a peer page is down or retrains, so that what reads there is held (R407, R425). [DESIGN CHOICE, log entry 68] -/
def peerDown (s : State) (vf : Nat) (p : Page) : Bool := p.ptype == 2 && ((s.port (portOf s p.pa)).down || retraining s vf)

/-- The same, or the fence counter of the port is full, so that stores are held (R391). [DESIGN CHOICE, log entry 68] -/
def peerHeld (s : State) (vf : Nat) (p : Page) : Bool :=
  peerDown s vf p || (p.ptype == 2 && (s.port (portOf s p.pa)).full ((s.partOfVf vf).getD 0))

/-- The same with ATS for a host page (R182), and with the answer of the destination package for a peer page, which may be an ACCESS (R424):
what is turned away has left the device, and a store has been counted. The answer waits while the port is down.
[DEDUCED, log entry 37; DESIGN CHOICE, log entry 3] -/
def reach (s : State) (vf core : Nat) (grid : Option Grid) (va n : Nat) (need : Need) : Except Stop Page × State :=
  match reachPage s vf core grid va n need with
  | (.error c, s) => (.error (.fault c), s)
  | (.ok p, s) =>
    if p.ptype != 2 then atsStage s vf p
    else if if need.w then peerHeld s vf p else peerDown s vf p then (.error .page, s)
    else
      let s' := { s with fresh := s.fresh + 1 }
      if !Config.peerRefuses s.fresh then (.ok p, s')
      else (.error (.fault .access), if need.w then s'.modPort (portOf s p.pa) (·.send ((s.partOfVf vf).getD 0)) else s')

/-- The same for an access to device memory alone: any other page is an ACCESS. -/
def reachDevice (s : State) (vf core : Nat) (grid : Option Grid) (va n : Nat) (need : Need) : Except Code Page × State :=
  match reachPage s vf core grid va n need with
  | (.error c, s) => (.error c, s)
  | (.ok p, s) => if p.ptype == 0 then (.ok p, s) else (.error .access, s)

/-- A range of `n` bytes from `va` cut at 64 KiB page boundaries. -/
def pageCuts (fuel va n : Nat) : List Nat :=
  match fuel with
  | 0 => []
  | f + 1 =>
    if n = 0 then []
    else
      let k := min n (65536 - va % 65536)
      k :: pageCuts f (va + k) (n - k)

/-- The cuts of a range. -/
def cuts (va n : Nat) : List Nat := pageCuts (n / 65536 + 2) va n

end Sys2Proof.Machine
end

