-- ==== Sys2Proof/Machine/Memory.lean ====
section
/-! DEFINITION. Device memory at its homes: instants of writes, leases, staged reads, L1 and L2 blocks, held errors
(R188 to R193, R206 to R212, R219, R465). -/

namespace Sys2Proof.Machine

/-- Paths of R219; code fetch is a path of its own (R467). Host, hub and Ant writes count as lane writes [DEDUCED, log entry 19]. -/
def pathLane : Nat := 0
def pathTwe : Nat := 1
def pathMx : Nat := 2
def pathFf : Nat := 3
def pathFetch : Nat := 4

/-- The GTC at the home of a device address (R208). -/
def State.homeTime (s : State) (pa : Nat) : Nat := s.time (dieOfCluster (homeOf pa))

/-- The bytes that the writes of the home serial order leave, visible or not yet (R207, R300). -/
def overlay (ws : List PWrite) (pa : Nat) (b : Byte) : Byte :=
  match ws with
  | [] => b
  | w :: r => overlay r pa (if decide (w.pa ≤ pa) && decide (pa < w.pa + w.bytes.length) && !w.keep.contains (pa - w.pa) then w.bytes.getD (pa - w.pa) 0 else b)

/-- `n` bytes at their home after every write that has arrived (R300). -/
def homeBytes (s : State) (pa n : Nat) : List Byte :=
  let ws := sortBy (·.v) s.writes
  (List.range n).map (fun i => overlay ws (pa + i) (sget s.mem 0 (pa + i)))

/-- P + 1 for the latest V assigned to any of the bytes at some addresses; 0 where none was (R208). -/
def lastVOf (s : State) (as : List Nat) : Nat := (as.map (sget s.lastV 0)).foldl max 0

/-- V(w) := max(a, E, P + 1) for a write at `pa` of the bytes at some addresses of its region (R208). -/
def instant (s : State) (pa : Nat) (as : List Nat) : Nat :=
  max (max (s.homeTime pa) (sget s.leases 0 (regionOf pa))) (lastVOf s as)

/-- The core of the group whose write it is (R212). -/
def WRef.core (s : State) : WRef → Option Nat
  | .op id _ => ((s.op? id).bind (fun o => s.group? o.gid)).map (fun (g : Group) => g.core)
  | _ => none

/-- A write reaches its home and is assigned its instant (R208); the ticks that the lease alone makes it wait are counted (R392). The
places in `keep` are not written (R311). [DEDUCED, log entry 19] -/
def arriveKeep (s : State) (pa : Nat) (bytes : List Byte) (keep : List Nat) (path : Nat) (ref : WRef) : Nat × State :=
  let as := ((List.range bytes.length).filter (fun i => !keep.contains i)).map (· + pa)
  let v := instant s pa as
  let id := s.nextId
  let s := s.count (ctrL2 (homeOf pa) 3) (sget s.leases 0 (regionOf pa) - s.homeTime pa)
  (v, { s with writes := s.writes ++ [{ id := id, pa := pa, bytes := bytes, v := v, path := path, ref := ref, keep := keep, core := ref.core s, via := none }],
               lastV := ssetAll s.lastV 0 (as.map (fun a => (a, v + 1))), nextId := id + 1 })

/-- A write of every byte of a range reaches its home (R208). -/
def arrive (s : State) (pa : Nat) (bytes : List Byte) (path : Nat) (ref : WRef) : Nat × State := arriveKeep s pa bytes [] path ref

/-- A longer string of bytes, written region by region: the latest instant (R207, R208). [DEDUCED, log entry 19] -/
def arriveAll (s : State) (pa : Nat) (bytes : List Byte) (path : Nat) (ref : WRef) (fuel : Nat) : Nat × State :=
  match fuel with
  | 0 => (0, s)
  | f + 1 =>
    if bytes.isEmpty then (0, s)
    else
      let n := 128 - pa % 128
      let (v, s) := arrive s pa (bytes.take n) path ref
      let (w, s) := arriveAll s (pa + n) (bytes.drop n) path ref f
      (max v w, s)

/-- The aligned 16-byte sectors of a range. -/
def sectorsOf (pa n : Nat) : List Nat :=
  if n = 0 then [] else (List.range ((pa + n - 1) / 16 - pa / 16 + 1)).map (· + pa / 16)

/-- A range holds an uncorrectable error (R465). -/
def hasErr (s : State) (pa n : Nat) : Bool := (sectorsOf pa n).any (fun k => s.errs.contains k)

/-- Bytes put in place at V: the sector states they supersede are kept for staged reads, and a sector written whole loses its
error (R208, R219, R465). -/
def putBytes (s : State) (pa : Nat) (bytes : List Byte) (v path : Nat) : State :=
  let secs := sectorsOf pa bytes.length
  let old := secs.map (fun k => { sector := k, till := v, path := path, bytes := readBytes s.mem (16 * k) 16 : Old })
  let whole := secs.filter (fun k => decide (pa ≤ 16 * k) && decide (16 * k + 16 ≤ pa + bytes.length))
  { s with mem := writeBytes s.mem pa bytes, olds := s.olds ++ old, errs := s.errs.filter (fun k => !whole.contains k) }

/-- The older states of a sector that a read on a path may return, latest first, each with the instant at which it began: those that
writes of other paths ended after the path's staging time, or writes of its own path after the read began, and in either case after
the state began that the path last staged (R219). -/
def staleFrom (path stamp kept : Nat) (own : Option Nat) : List Old → List (List Byte × Nat)
  | [] => []
  | o :: r =>
    let seen := if o.path != path then decide (stamp < o.till) else (match own with | some t => decide (t < o.till) | none => false)
    if seen && decide (kept < o.till) then (o.bytes, ((r.head?).map (·.till)).getD 0) :: staleFrom path stamp kept own r else []

/-- The place of a sector in the staging of a path at a core or cluster (R219). -/
def stageKey (path unit sector : Nat) : Nat := (1024 * path + unit) * 2 ^ 36 + sector

/-- The states of one sector that a read may return, each with its beginning: the present one and the older ones that staging keeps
(R219). -/
def sectorStates (s : State) (path unit stamp : Nat) (own : Option Nat) (sector : Nat) : List (List Byte × Nat) :=
  let old := (s.olds.filter (·.sector == sector)).reverse
  (readBytes s.mem (16 * sector) 16, ((old.head?).map (·.till)).getD 0) ::
    staleFrom path stamp (sget s.staged 0 (stageKey path unit sector)) own old

/-- A pending write put in place at its V: what it does not write stays (R208, R311). -/
def putWrite (s : State) (w : PWrite) : State :=
  if w.keep.isEmpty then putBytes s w.pa w.bytes w.v w.path
  else
    let b := (w.bytes.zipIdx).map (fun x => if w.keep.contains x.2 then sget s.mem 0 (w.pa + x.2) else x.1)
    { putBytes s w.pa b w.v w.path with errs := s.errs }

/-- One of several things; a free choice when there are two or more [DESIGN CHOICE, log entry 6]. -/
def pickOf {α : Type} (s : State) (d : α) (l : List α) : α × State :=
  match l with
  | [] => (d, s)
  | [x] => (x, s)
  | x :: l => ((x :: l).getD (Config.staleChoice s.fresh % (l.length + 1)) x, { s with fresh := s.fresh + 1 })

/-- One of several states. [DESIGN CHOICE, log entry 6] -/
def pickOne (s : State) (l : List (List Byte)) : List Byte × State := pickOf s [] l

/-- One state of each sector, in order; the path has then staged it, and returns no older one again (R219). [DESIGN CHOICE, log entry 6] -/
def pickSectors (s : State) (path unit stamp : Nat) (own : Option Nat) : List Nat → List Byte × State
  | [] => ([], s)
  | k :: r =>
    let (x, s) := pickOf s ([], 0) (sectorStates s path unit stamp own k)
    let key := stageKey path unit k
    let s := { s with staged := sset s.staged 0 key (max x.2 (sget s.staged 0 key)) }
    let (y, s) := pickSectors s path unit stamp own r
    (x.1 ++ y, s)

/-- A read on a path of a core or cluster that began at a tick (R209, R219): each sector whole. -/
def stagedSince (s : State) (path unit stamp : Nat) (own : Option Nat) (pa n : Nat) : List Byte × State :=
  let (x, s) := pickSectors s path unit stamp own (sectorsOf pa n)
  ((x.drop (pa % 16)).take n, s)

/-- A read on a path, at this instant (R209, R219). [DESIGN CHOICE, log entry 6] -/
def stagedRead (s : State) (path unit stamp pa n : Nat) : List Byte × State := stagedSince s path unit stamp none pa n

/-! L1 and L2 blocks. They decide timing, counters and leases; a hit returns what memory holds, because a write waits for
every lease (R208 to R211). -/

/-- The smallest block of 1, 2, 4 or 8 sectors of its region that covers sectors `f` to `f + n − 1` (R188). -/
def coverBlock (size f n : Nat) : Nat × Nat :=
  let fit := fun k => decide (f / k = (f + n - 1) / k) && decide (size ≤ k)
  if fit 1 then (f, 1) else if fit 2 then (f / 2 * 2, 2) else if fit 4 then (f / 4 * 4, 4) else (0, 8)

/-- The sectors of a block. -/
def blockSectors (f n : Nat) : List Nat := (List.range n).map (· + f)

def Block.covers (b : Block) (vf region f n : Nat) : Bool :=
  b.vf == vf && b.region == region && decide (b.first ≤ f) && decide (f + n ≤ b.first + b.n)

/-- A fresh block that serves a hit at time `t` (R211). -/
def Block.fresh (b : Block) (t : Nat) : Bool := !b.stale && decide (t + 2 < b.leaseEnd)

/-- The size in sectors that the predictor entry of an evicted block is set to (R189). -/
def touchedSize (b : Block) : Nat :=
  let t := (List.range 8).filter (fun i => bitOf b.touched i)
  match t.head?, t.getLast? with
  | some f, some l => (coverBlock 1 f (l + 1 - f)).2
  | _, _ => 1

/-- Evicts a block: the predictor learns (R189) and the victim array records it (R294). [DESIGN CHOICE, log entry 18] -/
def evict (c : Core) (b : Block) : Core :=
  { c with l1 := c.l1.filter (· != b), pred := sset c.pred 0 b.pred (touchedSize b - 1),
           victims := ((b.vf, b.region, b.slot) :: c.victims).take 1024 }

/-- The lowest of 16 ways that has room for `n` more sectors, by what each holds (R188). -/
def freeWay (held : List (Nat × Nat)) (n : Nat) : Option Nat :=
  (List.range 16).find? (fun w => decide (((held.filter (fun x => x.1 == w)).map (fun x => x.2)).foldl (· + ·) 0 + n ≤ 8))

/-- Evicts blocks of a set until one of its 16 ways of 8 sectors has room for the block, and puts it there: blocks marked to go first,
then the oldest (R188, R190) [DESIGN CHOICE, log entry 18]. -/
def l1Put (fuel : Nat) (b : Block) (c : Core) : Core :=
  match fuel with
  | 0 => c
  | f + 1 =>
    let l := c.l1.filter (fun x => x.region % 64 == b.region % 64)
    match freeWay (l.map (fun x => (x.way, x.n))) b.n with
    | some w => { c with l1 := c.l1 ++ [{ b with way := w }] }
    | none =>
      match (l.find? (·.evictFirst)).orElse (fun _ => l.head?) with
      | some x => l1Put f b (evict c x)
      | none => c

/-- The size in sectors that a miss asks for by its hint (R189, R190): the predicted one, or the smallest. `throttle`: hint-0 fills take
the smallest block (R410 step 1). -/
def fillSize (pred : SMap Nat) (throttle : Bool) (hint idx : Nat) : Nat :=
  if hint == 1 || (throttle && hint == 0) then 1 else sget pred 0 idx + 1

/-- The sectors that a word needs in one region, as first and count (R189). -/
structure Span where
  first : Nat
  n : Nat

/-- The smallest span of sectors of a region that holds several ones. -/
def Span.join (a b : Span) : Span :=
  let f := min a.first b.first
  { first := f, n := max (a.first + a.n) (b.first + b.n) - f }

/-- The lane path of a core has staged a whole block at an instant: no read there returns a state that ended by then (R219). -/
def stageBlock (s : State) (core region : Nat) (block : Nat × Nat) (h : Nat) : State :=
  { s with staged := ssetAll s.staged 0 ((blockSectors block.1 block.2).map (fun i =>
      let key := stageKey pathLane core (8 * region + i)
      (key, max h (sget s.staged 0 key)))) }

/-- An L1 fill of a block with its lease end (R210). A lease of fewer than 4 ticks is not allocated. `touch` are the sectors that the
access reads. [DESIGN CHOICE, log entry 18] -/
def l1Fill (s : State) (core vf slot region hint idx : Nat) (block : Nat × Nat) (touch : Span) (leaseEnd h : Nat) : State :=
  if leaseEnd < h + 4 then s
  else
    let s := stageBlock s core region block h
    let b : Block :=
      { vf := vf, region := region, first := block.1, n := block.2, leaseEnd := leaseEnd, slot := slot, pred := idx,
        touched := (blockSectors touch.first touch.n).foldl (fun a i => a + 2 ^ i) 0, evictFirst := hint == 1, stale := false, way := 0,
        filled := s.time (dieOf core) }
    s.modCore core (fun c => l1Put (c.l1.length + 1) b { c with l1 := c.l1.filter (fun x =>
      !(x.vf == vf && x.region == region && decide (x.first < b.first + b.n) && decide (b.first < x.first + x.n))) })

/-- Removes from a core's L1 every block that holds a byte written (R212). -/
def l1Drop (s : State) (core pa n : Nat) : State :=
  s.modCore core (fun c => { c with l1 := c.l1.filter (fun b => !(b.region == regionOf pa &&
    decide (b.first < pa % 128 / 16 + (n + 15) / 16) && decide (pa % 128 / 16 < b.first + b.n))) })

/-- Marks sectors of a block touched (R189). [DESIGN CHOICE, log entry 18] -/
def l1Touch (s : State) (core vf region f n : Nat) : State :=
  s.modCore core (fun c => { c with l1 := mapIf c.l1 (fun b => b.covers vf region f n) (fun b =>
    { b with touched := (blockSectors f n).foldl (fun a i => if bitOf a i then a else a + 2 ^ i) b.touched }) })

/-- The bank and set of a region, as one number (R183). -/
def l2Set (region : Nat) : Nat := (bitsOf region 4 3 ^^^ bitsOf region 10 9) * 256 + bitsOf region 18 11

/-- The lines of a slice in one set. -/
def inSet (l : List Line) (set_ : Nat) : List Line := l.filter (fun x => l2Set x.region == set_)

/-- Ways that pins take in a set (R192). -/
def pinsIn (l : List Line) (set_ : Nat) : Nat := ((inSet l set_).filter (fun x => x.pin.isSome)).length

/-- Evicts unpinned blocks of a set, the oldest first, until one of its 16 ways of 8 sectors has room for the block, and puts it there
(R188, R192). [DESIGN CHOICE, log entry 18] -/
def l2Put (fuel : Nat) (b : Line) (l : List Line) : List Line :=
  match fuel with
  | 0 => l
  | f + 1 =>
    let mine := inSet l (l2Set b.region)
    match freeWay (mine.map (fun x => (x.way, x.n))) b.n with
    | some w => l ++ [{ b with way := w }]
    | none =>
      match mine.find? (fun x => x.pin.isNone) with
      | some x => l2Put f b (l.erase x)
      | none => l

/-- The block enters its slice in place of those of its region that it overlaps. -/
def l2Fill (b : Line) (l : List Line) : List Line :=
  l2Put (l.length + 1) b (l.filter (fun x =>
    !(x.region == b.region && x.pin.isNone && decide (x.first < b.first + b.n) && decide (b.first < x.first + x.n))))

/-- An access to an L2 slice that asks for a block of a size over the sectors that its word needs: hit, allocation, or bypass when every
way of the set is pinned (R189, R190, R192). A `pref` is no demand access and counts nothing. Whether the request found its region's line lock held, and so entered the
conflict queue, is a free choice: the manual gives no time for which a lock is held (R191, R392). [DESIGN CHOICE, log entry 18] -/
def l2Access (s : State) (demand : Bool) (pa n hint size : Nat) (need : Span) : State :=
  let cl := homeOf pa
  let region := regionOf pa
  let f := pa % 128 / 16
  let k := (sectorsOf pa n).length
  let l := (s.cluster cl).l2
  let queued := { s.count (ctrL2 cl 2) (Config.lockHeld s.fresh % 2) with fresh := s.fresh + 1 }
  let tick := fun (e : Nat) (s : State) => if demand then s.count (ctrL2 cl e) 1 else s
  if l.any (fun x => x.region == region && decide (x.first ≤ f) && decide (f + k ≤ x.first + x.n)) then tick 0 queued
  else
    let s := tick 1 queued
    if pinsIn l (l2Set region) = 16 then tick 4 s
    else if hint == 3 then s
    else
      let b := if hint == 2 then (0, 8) else coverBlock size need.first need.n
      s.modCluster cl (fun c => { c with l2 := l2Fill { region := region, first := b.1, n := b.2, pin := none, way := 0 } c.l2 })

/-- A demand access of an engine, an Ant, the hub or the host to an L2 slice: the smallest covering block. [DESIGN CHOICE, log entry 18] -/
def l2Touch (s : State) (pa n : Nat) : State :=
  l2Access s true pa n 1 1 { first := pa % 128 / 16, n := (sectorsOf pa n).length }

/-- A demand access to a longer range, region by region. -/
def l2TouchAll (fuel : Nat) (s : State) (pa n : Nat) : State :=
  match fuel with
  | 0 => s
  | f + 1 =>
    if n = 0 then s
    else
      let k := min n (128 - pa % 128)
      l2TouchAll f (l2Touch s pa k) (pa + k) (n - k)

/-- Bytes that the hub or the task machinery writes in device memory: each region is one demand access and one write in the home serial
order (R192, R207). [DEDUCED, log entry 19] -/
def hubWrite (s : State) (pa : Nat) (bytes : List Byte) (path : Nat) : Nat × State :=
  arriveAll (l2TouchAll (bytes.length / 128 + 2) s pa bytes.length) pa bytes path .hub (bytes.length / 128 + 2)

/-- The writes that have joined those of an earlier state used the translation of an address of a virtual function (R186). -/
def State.usedPage (before : State) (vf va : Nat) (s : State) : State :=
  let n := before.writes.length
  { s with writes := s.writes.take n ++ (s.writes.drop n).map (fun w => { w with via := some (vf, va / 65536) }) }

/-- The earliest instant of a write pending for a region (R210). -/
def pendingV (s : State) (region : Nat) : Option Nat :=
  (s.writes.filter (fun w => regionOf w.pa == region)).foldl (fun a w =>
    match a with | none => some w.v | some x => some (min x w.v)) none

/-- The lease end that a read served at home grants (R210), and the home's record of it. -/
def grantLease (s : State) (pa len : Nat) : Nat × State :=
  let h := s.homeTime pa
  let e := match pendingV s (regionOf pa) with | none => h + len | some v => min (h + len) v
  if e < h + 4 then (e, s)
  else (e, { s with leases := sset s.leases 0 (regionOf pa) (max (sget s.leases 0 (regionOf pa)) e) })

/-- Puts an uncorrectable error into a sector (R465). -/
def poison (s : State) (sector : Nat) : State := { s with errs := insertNat sector s.errs }

end Sys2Proof.Machine
end

