-- ==== Sys2Proof/Machine/Runs.lean ====
section
/-! DEFINITION. What a lane word reads and writes, as its encoding says (R21, R23, R33, R85, R136), the words of a run in
memory, and the ends of a run's life: trailer, retirement and the committed masks (R26, R30, R32). -/

namespace Sys2Proof.Machine

/-! The encoding's reads and writes. -/

/-- kmask4 and stall4 of a lane word. -/
def laneHead (i : Instr) : Option (BitVec 4 × BitVec 4) :=
  match laneForm i, memForm i, i with
  | some (_, w), _, _ => some (w.kmask, w.stall)
  | _, some (_, w), _ => some (w.kmask, w.stall)
  | _, _, .laneLi w => some (w.kmask, w.stall)
  | _, _, _ => none

def kmaskOf (i : Instr) : BitVec 4 := match laneHead i with | some (k, _) => k | none => 0
def stallOf (i : Instr) : Nat := match laneHead i with | some (_, n) => n.toNat | none => 0

/-- The operand fields of a lane word. -/
def operandsOf (i : Instr) : List Operand :=
  match laneForm i, i with
  | some (_, w), _ => [w.d, w.a, w.b, w.c]
  | _, .laneLi w => [w.d]
  | _, _ => []

/-- Scalar registers a lane word reads: class 0 specials and indirect bases (R33). -/
def scalarsRead (i : Instr) : List Nat :=
  (operandsOf i).filterMap (fun o =>
    match o with
    | .special c n => if c == 0 then some n.toNat else none
    | .indirect x _ => some (56 + x.toNat)
    | _ => none)

/-- A `movs`, which counts as reading every scalar register (R136). -/
def isMovs : Instr → Bool
  | .movs _ => true
  | _ => false

/-- The mask named in D of a word that writes one (R153). -/
def maskWritten : Instr → Option Nat
  | .icmp w => maskNum w.d
  | .fcmp w => maskNum w.d
  | .kwr w => maskNum w.d
  | .vote w => if w.mod.toNat == 2 then none else maskNum w.d
  | _ => none
where
  /-- The number in a mask field. -/
  maskNum : Operand → Option Nat
    | .mrf n => some n.toNat
    | _ => none

/-- Masks a lane word reads: its governing mask, and the selector of `sel` (R154). -/
def masksRead (i : Instr) : List Nat :=
  (kmaskOf i).toNat :: (match i with | .sel w => (match w.c with | .mrf n => [n.toNat] | _ => []) | _ => [])

/-- A load-bearing word (R21). -/
def loadBearing : Instr → Bool
  | .ld _ => true
  | .ldF _ => true
  | .ldFe _ => true
  | .lrefill _ => true
  | .atom _ => true
  | _ => false

/-- Registers of one 32-bit value of a width in bytes. -/
def regsOf (d : BitVec 8) (nbytes : Nat) : List Nat := (List.range ((nbytes + 3) / 4)).map (· + d.toNat)

/-- Bytes of a width (R84). -/
def Width.bytes : Width → Nat
  | .b1 => 1 | .b2 => 2 | .b4 => 4 | .b8 => 8 | .b16 => 16

/-- The MRF registers that a variable-latency word writes (R22, R23, R89). -/
def variableDests (i : Instr) : List Nat :=
  match i with
  | .shfl w => moved w
  | .bcast w => moved w
  | .ld w => regsOf w.d (Width.bytes w.width)
  | .ldF w => regsOf w.d (Width.bytes w.width)
  | .ldFe w => regsOf w.d (Width.bytes w.width)
  | .feProbe w => [w.d.toNat]
  | .pin w => [w.d.toNat]
  | .unpin w => [w.d.toNat]
  | .lrefill w => regsOf w.d 8
  | .atom w => regsOf w.d (if w.typ.is64 then 8 else 4)
  | .mxRd w => (match w.d with | .mrf n => regsOf n 16 | _ => [])
  | _ => []
where
  /-- The destination of a cross-lane gather. -/
  moved (w : LaneOp) : List Nat :=
    match w.d with | .mrf n => regsOf n (if w.typ.is64 then 8 else 4) | _ => []

/-- A variable-latency word (R23). -/
def isVariable (i : Instr) : Bool :=
  match i with
  | .shfl _ => true
  | .bcast _ => true
  | .mxQ _ => true
  | .mxZero _ => true
  | .mxRd _ => true
  | .mxWr _ => true
  | .mxDrain _ => true
  | j => (memForm j).isSome

/-- Registers that one value of a field takes (R49). -/
def useRegs (u : Use) : Nat :=
  match u with
  | .src w => if w then 2 else 1
  | .dst w => if w then 2 else 1
  | .direct => 1
  | _ => 0

/-- Registers of the data field of a memory word, 0 where D is not a register (R177, R204, R303). -/
def memData (i : Instr) (w : MemOp) : Nat :=
  match i with
  | .atom _ => (if w.typ.is64 then 2 else 1) * (if w.mod == 0x0A then 2 else 1)
  | .red _ => if w.typ.is64 then 2 else 1
  | .feProbe _ => 1
  | .pin _ => 1
  | .unpin _ => 1
  | .pref _ => 0
  | .feSet _ => 0
  | .feClr _ => 0
  | .lrefill _ => 2
  | _ => (Width.bytes w.width + 3) / 4

/-- D of a memory word is a source: a store's data, or the operand of an atomic. -/
def memReadsD (i : Instr) : Bool :=
  match i with
  | .st _ => true
  | .stEf _ => true
  | .stF _ => true
  | .atom _ => true
  | .red _ => true
  | _ => false

/-- Lane-register fields that a word reads, each with its count of registers. -/
def sourceFields (i : Instr) : List (Operand × Nat) :=
  match i with
  | .mxRd _ => []
  | .mxWr w => [(w.d, 4)]
  | .mxDrain w => [(w.a, 2)]
  | _ =>
    match laneForm i, laneSpec i, memForm i with
    | some (_, w), some sp, _ => [(w.a, useRegs sp.a), (w.b, useRegs sp.b), (w.c, useRegs sp.c)].filter (fun f => f.2 != 0)
    | _, _, some (_, w) =>
      (.mrf w.a, if w.space == .global || w.space == .noLease then 2 else 1) ::
        (if memReadsD i then [(.mrf w.d, memData i w)] else [])
    | _, _, _ => []

/-- The lane-register field that a fixed-latency word writes, with its count of registers. -/
def destField (i : Instr) : List (Operand × Nat) :=
  match i with
  | .laneLi w => [(w.d, 1)]
  | _ =>
    match laneForm i, laneSpec i with
    | some (_, w), some sp => match sp.d with | .dst wide => [(w.d, if wide then 2 else 1)] | _ => []
    | _, _ => []

/-- The highest direct MRF index of each field of a word (R123). -/
def directRegs (i : Instr) : List Nat :=
  let top := fun (f : Operand × Nat) => match f.1 with | .mrf n => [n.toNat + f.2 - 1] | _ => []
  (sourceFields i ++ destField i).flatMap top ++ variableDests i

/-! Code in memory (R90, R467). -/

/-- The page of code at its address, or the fetch fault (R467): RD needed, any type but IO, and no byte of the Hamper (R332). -/
def codeAt (s : State) (g : Group) (va n : Nat) : Except Stop Page × State :=
  match reach s g.vf g.core (s.grid? g.grid) va n needRead with
  | (.error c, s) => (.error c, s)
  | (.ok p, s) =>
    if p.ptype.toNat == 3 then (.error (.fault .access), s)
    else if p.ptype.toNat == 0 && hasErr s p.pa n then (.error (.fault .dataError), s)
    else (.ok p, s)

/-- Free bytes in place of what lies outside the device (R182). [DESIGN CHOICE, log entry 3] -/
def freeBytes (s : State) (n : Nat) : List Byte × State :=
  ((List.range n).map (fun i => Config.outsideByte (s.fresh + i)), { s with fresh := s.fresh + n })

/-- The bytes of code over pieces that each lie in one page, each sector as the launch or a later write left it: a demand access of the L2
slice (R90, R192, R467). What stands behind a port that is down waits (R425). [DESIGN CHOICE, log entry 18] -/
def fetchPieces (s : State) (g : Group) (launched va : Nat) : List Nat → Except Stop (List Byte) × State
  | [] => (.ok [], s)
  | n :: r =>
    match codeAt s g va n with
    | (.error c, s) => (.error c, s)
    | (.ok p, s) =>
      let (b, s) :=
        if p.ptype == 0 then stagedRead (if p.nc then s else l2TouchAll 2 s p.pa n) pathFetch g.core launched p.pa n else freeBytes s n
      match fetchPieces s g launched (va + n) r with
      | (.error c, s) => (.error c, s)
      | (.ok l, s) => (.ok (b ++ l), s)

/-- The bytes of code at an address, page by page (R467). -/
def fetchCode (s : State) (g : Group) (launched va n : Nat) : Except Stop (List Byte) × State :=
  fetchPieces s g launched va (cuts va n)

/-- The bits of a lane word (R90). -/
def fetchLane (s : State) (g : Group) (launched i : Nat) : Except Stop (BitVec 96) × State :=
  match fetchCode s g launched (g.lcb.toNat + 12 * i) 12 with
  | (.error c, s) => (.error c, s)
  | (.ok b, s) => (.ok (BitVec.ofNat 96 (ofBytes b)), s)

/-- Bytes of code as device memory holds them now, over pieces that each lie in one page; none where they cannot be read now, or stand
outside the device. -/
def peekPieces (s : State) (g : Group) (va : Nat) : List Nat → Option (List Byte)
  | [] => some []
  | n :: r =>
    match (codeAt s g va n).1 with
    | .error _ => none
    | .ok p => if p.ptype == 0 then (peekPieces s g (va + n) r).map (readBytes s.mem p.pa n ++ ·) else none

/-- The lane word at an index as device memory holds it now. -/
def peekWord (s : State) (g : Group) (idx : Nat) : Option (BitVec 96) :=
  let va := g.lcb.toNat + 12 * idx
  (peekPieces s g va (cuts va 12)).map (fun b => BitVec.ofNat 96 (ofBytes b))

/-- Some word of a run that is not fetched yet, up to its trailer, is of a kind, as memory holds them now. A word that cannot be read
before the fetch may be of any kind. [DEDUCED, log entry 40] -/
def peekAny (s : State) (g : Group) (f : Instr → Bool) (idx : Nat) (fuel : Nat) : Bool :=
  match fuel with
  | 0 => false
  | n + 1 =>
    if g.lwords ≤ idx then false
    else
      match (peekWord s g idx).map decodeLane with
      | none => true
      | some (.ok i) => f i || peekAny s g f (idx + 1) n
      | some (.error _) => false

/-- Some word of a queue entry, of either run of a pair, is of a kind: what the interlocks of R32 and R33 ask. -/
def entryAny (s : State) (g : Group) (e : Entry) (f : Instr → Bool) : Bool :=
  match e.code with
  | some l => l.any (fun c => c.words.any f)
  | none => peekAny s g f e.idxA 24 || (e.pair && peekAny s g f e.idxB 24)

/-- The words of a started run not yet issued. -/
def Run.ahead (r : Run) : List Instr := (r.sides.filter (fun d => !d.issued)).flatMap (fun d => d.words.drop d.wi)

/-- Every word of a started run. -/
def Run.words (r : Run) : List Instr := r.sides.flatMap (·.words)

/-- The write set of words has a mask (R23). -/
def setsMask (n : Nat) (ws : List Instr) : Bool := ws.any (fun i => maskWritten i == some n)

/-- The landing writes the mask. -/
def Landing.ofMask (l : Landing) (n : Nat) : Bool := match l.kw with | some (k, _, _) => k == n | none => false

/-- A run that is not issued yet reads the scalar register (R33, R136). -/
def readsScalar (s : State) (g : Group) (n : Nat) : Bool :=
  let f := fun i => isMovs i || (scalarsRead i).contains n
  g.queue.any (fun e => entryAny s g e f) || g.sides.any (fun d => !d.issued && d.words.any f)

/-- A run that is not issued yet reads the mask, as a governing mask, a selector, or the selection mask of a pair (R33). -/
def readsMask (s : State) (g : Group) (n : Nat) : Bool :=
  let f := fun i => (masksRead i).contains n
  g.queue.any (fun e => (e.pair && e.k4.toNat == n) || entryAny s g e f) ||
    g.runs.any (fun r => r.sides.any (fun d => !d.issued && ((r.pair && r.k4.toNat == n) || d.words.any f)))

/-- A run that has not finished with the mask has it in its write set (R32). -/
def writesMask (s : State) (g : Group) (n : Nat) : Bool :=
  g.queue.any (fun e => entryAny s g e (fun i => maskWritten i == some n)) || g.sides.any (fun d => !d.retired && setsMask n d.words) ||
    g.out.any (·.ofMask n)

/-- An atomic or a reduction. -/
def OpKind.isAtomic : OpKind → Bool
  | .atom _ => true
  | .red _ => true
  | _ => false

/-! The end of a run. -/

/-- Operations of a side still outstanding. -/
def outstanding (s : State) (gid seq side : Nat) : Bool :=
  s.ops.any (fun o => o.gid == gid && !o.scalar && o.seq == seq && o.side == side) ||
    s.clusters.any (fun kc => kc.2.reqs.any (fun r => r.gid == gid && r.seq == seq && r.side == side))

/-- The place of a run in the order of enqueueing; run A of a pair stands before run B. [DEDUCED, log entry 39] -/
def runPlace (seq side : Nat) : Nat := 2 * seq + side

/-- The earliest started run that writes a mask and has not finished with it, by place (R32). Later ones are still queued. -/
def firstWriter (g : Group) (n : Nat) : Option Nat :=
  let l := g.runs.flatMap (fun r => (r.sides.filter (fun d => !d.retired && setsMask n d.words)).map (fun d => runPlace r.seq d.side)) ++
    (g.out.filter (·.ofMask n)).map (fun l => runPlace l.seq l.side)
  l.foldl (fun a x => match a with | none => some x | some y => some (min x y)) none

/-- A run has finished with a mask: it is retired and its writes of it have landed (R32). [DEDUCED, log entry 39] -/
def finishedRun (g : Group) (seq side k : Nat) : Bool :=
  !g.runs.any (fun r => r.seq == seq && r.sides.any (fun d => d.side == side && !d.retired)) &&
    !g.out.any (fun l => l.seq == seq && l.side == side && l.ofMask k)

/-- A landed mask write applied. -/
def applyK (k : SMap Word64) (w : KWrite) : SMap Word64 :=
  sset k 0 w.k ((sget k 0 w.k &&& ~~~w.lanes) ||| (w.bits &&& w.lanes))

/-- The committed values when a run may have finished, `old` being the group before (R32): when the earliest unfinished writer of
a mask has finished with it, the landed writes of every run that has finished are committed in landing order. -/
def commitMasks (old g : Group) : Group :=
  let ready := fun (w : KWrite) =>
    finishedRun g w.seq w.side w.k && firstWriter g w.k != firstWriter old w.k
  { g with kc := (g.klog.filter ready).foldl applyK g.kc, klog := g.klog.filter (fun w => !ready w) }

/-- Retires every issued side whose operations have completed (R30), and drops runs whose sides have all retired. [DEDUCED, log entry 28] -/
def retire (s : State) (gid : Nat) : State :=
  match s.group? gid with
  | none => s
  | some g =>
    let runs := g.runs.map (fun r => { r with sides := r.sides.map (fun d =>
      if d.issued && !d.retired && !d.held && !outstanding s gid r.seq d.side then { d with retired := true } else d) })
    let gone := fun (e : Nat × Nat × Nat × Word32) =>
      runs.any (fun r => r.seq == e.2.1 && r.sides.any (fun d => d.side == e.2.2.1 && d.retired))
    s.setGroup (commitMasks g
      { g with runs := runs.filter (fun r => !r.sides.all (·.retired)), late := g.late.filter (fun e => !gone e) })

/-- A run changed in place. -/
def Group.modRun (g : Group) (seq : Nat) (f : Run → Run) : Group := { g with runs := mapIf g.runs (·.seq == seq) f }

/-- A side changed in place. -/
def Group.modSide (g : Group) (seq side : Nat) (f : Side → Side) : Group :=
  g.modRun seq (fun r => { r with sides := mapIf r.sides (·.side == side) f })

def Group.run? (g : Group) (seq : Nat) : Option Run := g.runs.find? (fun r => r.seq == seq)
def Run.side? (r : Run) (side : Nat) : Option Side := r.sides.find? (fun d => d.side == side)

/-- The parked runs of a group that is to be saved give up their decoders and quarters, and each leaves its stream (R298). -/
def Group.releaseParked (g : Group) : Group :=
  { g with runs := mapIf g.runs (·.parked) (fun r => { r with quarters := 0, dec := 0, stream := (g.gid, 0) }) }

/-- A side whose words have all issued consumes its trailer: the decoder and, with the last side, the quarters are released,
the ORF and LRF of its lanes are gone, and it may retire at once (R26, R30, R35). -/
def consumeTrailer (s : State) (gid seq side : Nat) : State :=
  match s.group? gid with
  | none => s
  | some g =>
    match (g.run? seq).bind (·.side? side) with
    | none => s
    | some d =>
      if d.issued || d.wi < d.words.length then s
      else
        let g := g.modSide seq side (fun d => { d with issued := true })
        let g := g.modRun seq (fun r =>
          if r.sides.all (·.issued) then { r with quarters := 0, dec := 0 }
          else if r.pair then { r with dec := if side == 0 then 2 else 1 } else r)
        retire (s.setGroup { g with nextStart := max g.nextStart d.next }) gid

end Sys2Proof.Machine
end

