-- ==== Sys2Proof/Machine/Tasks.lean ====
section
/-! DEFINITION. The lists of the task machinery: deques, scopes, children, views and turns (R333, R334, R340, R341, R352 to
R354). The task instructions and the fold itself are in Task.lean. -/

namespace Sys2Proof.Machine

/-- A record enters the top of the deque that a team holds, or its spill list when 256 entries are taken (R334). -/
def pushTop (s : State) (team rec : Nat) : State :=
  s.modTeam team (fun t => if t.deque.length < 256 then { t with deque := rec :: t.deque } else { t with spill := t.spill ++ [rec] })

/-- `spawn` pushes at the bottom, or into the spill list (R334). -/
def pushBottom (s : State) (team rec : Nat) : State :=
  s.modTeam team (fun t => if t.deque.length < 256 then { t with deque := t.deque ++ [rec] } else { t with spill := t.spill ++ [rec] })

/-- Spilled records enter the top in spill order while there is room (R334). -/
def refill (fuel : Nat) (t : Team) : Team :=
  match fuel, t.spill with
  | f + 1, r :: l => if t.deque.length < 256 then refill f { t with deque := r :: t.deque, spill := l } else t
  | _, _ => t

/-- A deque after a removal. -/
def Team.shortened (t : Team) (deque : List Nat) : Team := refill 256 { t with deque := deque }

/-- Takes the bottom entry of a team's deque (R328). -/
def takeBottom (s : State) (team : Nat) : Option Nat × State :=
  match ((s.team? team).getD Team.none_).deque.getLast? with
  | none => (none, s)
  | some r => (some r, s.modTeam team (fun t => t.shortened t.deque.dropLast))

/-- Takes the top entry of a team's deque (R335). -/
def takeTop (s : State) (team : Nat) : Option Nat × State :=
  match ((s.team? team).getD Team.none_).deque with
  | [] => (none, s)
  | r :: l => (some r, s.modTeam team (fun t => t.shortened l))

/-- Removes a record from every deque and spill list (R334). -/
def unlink (s : State) (rec : Nat) : State :=
  { s with teams := s.teams.map (fun (t : Team) =>
      ({ t with spill := t.spill.filter (· != rec) } : Team).shortened (t.deque.filter (· != rec))) }

def Grid.scope? (g : Grid) (id : Nat) : Option Scope := g.scopes.find? (fun c => c.id == id)
def Grid.modScope (g : Grid) (id : Nat) (f : Scope → Scope) : Grid := { g with scopes := mapIf g.scopes (·.id == id) f }
def Grid.rec? (g : Grid) (id : Nat) : Option Rec := g.recs.find? (fun r => r.id == id)

/-- The grid that holds a record. -/
def State.gridOfRec (s : State) (rec : Nat) : Option Grid := s.grids.find? (fun g => (g.rec? rec).isSome)

/-- Frees the block at an address (R333). -/
def Grid.free (g : Grid) (team addr : Nat) : Grid :=
  { g with blocks := g.blocks.filter (fun b => !(b.1 == team && b.2.1 == addr)) }

/-- Frees the block of a task's record (R333): in the share of its tree's team for `.views sp`. [DESIGN CHOICE, log entry 36] -/
def Grid.freeRec (g : Grid) (t : Task) : Grid :=
  match t.addr with
  | none => g
  | some a => g.free (if g.hsp then t.tree else 0) a

/-- Removes views, freeing their blocks (R340). -/
def Grid.dropViews (g : Grid) (p : View → Bool) : Grid :=
  let gone := g.views.filter p
  gone.foldl (fun g v => g.free v.team v.addr) { g with views := g.views.filter (fun v => !p v) }

/-- Removes a record, freeing its block. [DEDUCED, log entry 53] -/
def Grid.dropRec (g : Grid) (rec : Nat) : Grid :=
  match g.rec? rec with
  | none => g
  | some r => ({ g with recs := g.recs.filter (fun x => x.id != rec) }).freeRec r.task

/-- The parent of a scope may resume: its record leaves its wait and enters the top of the deque on which it yielded; its lane reads
then see the fold whole (R334, R342, R349). -/
def resumeParent (s : State) (grid scope : Nat) : State :=
  match s.grid? grid with
  | none => s
  | some g =>
    (g.recs.filter (fun r => r.closing && (match r.task.stack.getLast? with | some (id, _) => id == scope | none => false))).foldl
      (fun s r =>
        pushTop (s.modGrid grid (fun g => { g with recs := mapIf g.recs (·.id == r.id) (fun r => { r with closing := false, stamp := s.gtc }) }))
          r.home r.id) s

/-- Gives every due child of a scope its turn (R341): blank children pass at once; the first with views starts a turn; after
the last child of a scope whose parent has reached `scope.close`, the accumulator folds into the parent's view. -/
def advanceScope (fuel : Nat) (s : State) (grid scope : Nat) (w : Starter) : State :=
  match fuel with
  | 0 => s
  | f + 1 =>
    match (s.grid? grid).bind (·.scope? scope), s.grid? grid with
    | some c, some g =>
      if c.aborted || c.folded || s.turns.any (fun t => t.grid == grid && t.scope == scope) then s
      else if c.ended.contains c.turn then
        let vs := g.views.filter (fun v => v.scope == scope && v.sidx == c.turn && v.st != 1)
        if vs.isEmpty then
          advanceScope f (s.modGrid grid (·.modScope scope (fun c => { c with ended := c.ended.erase c.turn, turn := c.turn + 1 })))
            grid scope w
        else
          { s with nextId := s.nextId + 1,
                   turns := s.turns ++ [{ id := s.nextId, grid := grid, scope := scope, sidx := some c.turn, tile := 0,
                                          off := 0, who := w, h := 0, stopped := false, cause := 0, faddr := 0, ready := s.gtc }] }
      else if c.total == some c.turn then
        if !g.views.any (fun v => v.scope == scope && v.acc) then resumeParent (s.modGrid grid (·.modScope scope (fun c => { c with folded := true }))) grid scope
        else
          { s with nextId := s.nextId + 1,
                   turns := s.turns ++ [{ id := s.nextId, grid := grid, scope := scope, sidx := none, tile := 0, off := 0,
                                          who := w, h := 0, stopped := false, cause := 0, faddr := 0, ready := s.gtc }] }
      else s
    | _, _ => s

/-- A child has ended or been killed: its position may be passed in its scope's order (R341, R354). -/
def childEnded (s : State) (grid scope sidx : Nat) (w : Starter) : State :=
  advanceScope 5000 (s.modGrid grid (·.modScope scope (fun c => { c with ended := insertNat sidx c.ended }))) grid scope w

/-- A runner that has left its task: nothing of it survives (R327); it stands at its work point (R328). -/
def clearRunner (cycle : Nat) (g : Group) : Group :=
  { g with runs := [], queue := [], out := [], klog := [], proms := [], task := none, stall := .idle cycle, fault := none,
           heldFaults := [] }

/-! Format blocks. -/

/-- The fields of a format block (R231). -/
def fmtAscale (f : BitVec 256) : Nat := bitsOf f.toNat 63 0
def fmtBscale (f : BitVec 256) : Nat := bitsOf f.toNat 127 64
def fmtBstride (f : BitVec 256) : Nat := bitsOf f.toNat 159 128
def fmtActl (f : BitVec 256) : Nat := bitsOf f.toNat 175 160
def fmtBctl (f : BitVec 256) : Nat := bitsOf f.toNat 191 176
def fmtBsstride (f : BitVec 256) : Nat := bitsOf f.toNat 207 192

/-- Element code, block length code and scale format of a control word. -/
def ctlElem (c : Nat) : Nat := c % 16
def ctlBlock (c : Nat) : Nat := c / 16 % 4
def ctlScale (c : Nat) : Nat := c / 64 % 4

/-- Cycles of one chunk: 4 when either side is bf16 (R242). -/
def chunkCycles (f : BitVec 256) : Nat := if ctlElem (fmtActl f) == 5 || ctlElem (fmtBctl f) == 5 then 4 else 1

/-- The slots that a matrix request names (R238). -/
def MxReq.slots (r : MxReq) : List Nat := r.dst :: r.src.toList

/-- An earlier request on its slots has not been applied yet (R238). -/
def MxReq.blocked (l : List MxReq) (r : MxReq) : Bool :=
  l.any (fun a => a.team == r.team && decide (a.id < r.id) && a.stage != .finishing && a.slots.any (fun x => r.slots.contains x))

/-- A B half and ACTL of a format block (R231, R241). -/
def fuseKey (fmt : BitVec 256) : Nat := bitsOf fmt.toNat 207 160 + 2 ^ 48 * bitsOf fmt.toNat 159 128 + 2 ^ 80 * bitsOf fmt.toNat 127 64

/-- Two array requests are fusable (R241). -/
def fusable (a b : MxReq) : Bool :=
  a.kind == .q && b.kind == .q && a.vf == b.vf && a.bAddr == b.bAddr && a.chunks == b.chunks && a.next == b.next &&
    fuseKey a.fmt == fuseKey b.fmt

/-- The request is Ready and waits for the array (R240). -/
def MxReq.ready (r : MxReq) : Bool := r.kind == .q && r.stage == .waiting && r.since.isSome && !r.held

/-- Array requests that have become Ready get their Ready cycle and their fusion window, of 32 cycles; one that was frozen has
it closed; a window closes when three other fusable requests are Ready (R240, R241). -/
def openWindows (cycle : Nat) (c : Cluster) : Cluster :=
  let l := c.reqs.map (fun r =>
    if r.kind == .q && r.stage == .waiting && r.since.isNone && !r.held && !r.blocked c.reqs then
      { r with since := some cycle, window := if r.closed then none else some (cycle + 32) }
    else r)
  { c with reqs := l.map (fun r =>
      if r.window.isSome && 3 ≤ (l.filter (fun a => a.id != r.id && a.ready && fusable a r)).length then { r with window := none } else r) }

/-- The latest completion time of a group's work in flight as far as it is known: replies and writes at their homes (R364). -/
def workTime (s : State) (gid : Nat) : Nat :=
  let mine := fun (r : WRef) => match r with
    | .op id _ => (s.op? id).any (·.gid == gid)
    | .req id => (s.req? id).any (·.gid == gid)
    | .twe cmd _ => (s.twe? cmd).any (·.gid == gid)
    | .ffa team cmd => ((s.team? team).bind (·.ffa)).any (fun f => f.queue.any (fun c => c.id == cmd && c.gid == gid))
    | _ => false
  ((s.writes.filter (fun w => mine w.ref)).map (·.v) ++ (s.ops.filter (·.gid == gid)).map (·.vmax) ++
    (s.clusters.flatMap (fun kc => kc.2.reqs.filter (·.gid == gid))).map (·.hmax) ++ (s.twe.filter (·.gid == gid)).map (·.hmax) ++
    s.teams.flatMap (fun (t : Team) => match t.ffa with | some f => (f.queue.filter (·.gid == gid)).map (·.hmax) | none => [])).foldl max 0

/-- The team that holds a group, resident or saved. -/
def State.teamOfGroup (s : State) (gid : Nat) : Nat :=
  match s.group? gid with
  | some g => g.team
  | none => ((s.teams.find? (fun t => t.saved.any (·.gid == gid))).map (fun (t : Team) => t.id)).getD 0

/-- A kill discards the queue of the array that performs commands of the group, and frees the promise slots of its commands in every
group of the team; the array goes on with what comes (R283, R285). [DEDUCED, log entry 48] -/
def dropFfa (s : State) (gid : Nat) : State :=
  let id := s.teamOfGroup gid
  let mine := (s.team? id).bind (·.ffa) |>.any (fun f => f.queue.any (·.gid == gid))
  if !mine then s
  else
    let free := fun (g : Group) => if g.team == id then
        { g with proms := g.proms.filter (fun p => match p.ref with | .ffa _ => false | .twe _ => true) } else g
    let s := { s with cur := free s.cur, others := s.others.map free }
    s.modTeam id (fun t =>
      { t with ffa := t.ffa.map (fun f => { f with queue := [] }), saved := t.saved.map free })

/-- The requests of a pass that are still in it. -/
def passReqs (c : Cluster) (p : Pass) : List MxReq := c.reqs.filter (fun r => p.members.contains r.id && r.stage == .inPass p.id)

/-- The chunk in progress of a pass is its chunk `n`, counted from 1 and from its start. -/
def Pass.chunk (p : Pass) (cycle per : Nat) : Nat := (cycle - p.start) / per + 1

/-- A pass that loses a quarter of a killed group stops at the next chunk boundary, unless its last chunk has entered (R250, R253). -/
def Pass.cut (c : Cluster) (cycle gid : Nat) (p : Pass) : Pass :=
  match (passReqs c p).find? (fun r => r.gid == gid) with
  | none => p
  | some h =>
    let n := p.chunk cycle (chunkCycles h.fmt)
    if p.stop.isSome || h.chunks ≤ h.next + n then p
    else
      let edge := p.start + n * chunkCycles h.fmt
      { p with stop := some n, free := edge, commit := edge - 1 }

/-- Drops what a group has in flight: operations, matrix requests, tile-walk commands and its array's queue (R42, R253, R283, R320).
Writes that have reached their homes stand, and the team's completion time covers them (R364). -/
def dropWork (s : State) (gid : Nat) : State :=
  let h := workTime s gid
  let s := dropFfa (s.modTeam (s.teamOfGroup gid) (fun t => { t with h := max t.h h })) gid
  { s with ops := s.ops.filter (fun o => o.gid != gid),
           clusters := smapUpd s.clusters Cluster.reset (fun c =>
             openWindows s.cycle { c with passes := c.passes.map (·.cut c s.cycle gid), reqs := c.reqs.filter (fun r => r.gid != gid) }),
           twe := s.twe.filter (fun c => c.gid != gid) }

/-- Drops what the task of a runner has in flight: the commands whose promise slots have passed to records stay (R345). [DEDUCED, log entry 53] -/
def dropTaskWork (s : State) (g : Group) : State :=
  let mine := g.proms.filterMap (fun p => match p.ref with | .twe c => some c | .ffa _ => none)
  let keep := s.twe.filter (fun c => !mine.contains c.id && !(c.gid == g.gid && c.stage == .checked))
  { dropWork s g.gid with twe := keep }

/-- Halts that no longer stand. -/
def dropHalts (s : State) (p : Halt → Bool) : State :=
  { s with vdevs := smapUpd s.vdevs VDev.reset (fun (v : VDev) => { v with halts := v.halts.filter (fun h => !p h) }) }

/-- A runner whose task is killed is cleared, with what the task had in flight, its record's block and its halt (R352, R353). -/
def clearTask (s : State) (g : Group) (t : Task) : State :=
  let s := (dropTaskWork s g).modGrid g.grid (fun (d : Grid) => d.freeRec t)
  dropHalts (s.modGroup g.gid (clearRunner s.cycle)) (fun h => !h.merge && h.gid == g.gid)

/-- Scopes that a task holds open, for a task that runs or waits in a record. -/
def taskScopes (t : Task) : List Nat := t.stack.map (·.1)

/-- Aborts scopes (R352): every unended task of their subtrees is killed, records, views and accumulators go, and the waiting
parents are released. At most 65,535 scopes are live in a grid (R333). -/
def abortScopes (fuel : Nat) (s : State) (grid : Nat) (ids : List Nat) : State :=
  match fuel, ids with
  | 0, _ => s
  | _, [] => s
  | f + 1, id :: rest =>
    match s.grid? grid with
    | none => s
    | some g =>
      let recs := g.recs.filter (fun r => r.task.scope == id && !r.task.root)
      let runners := s.groups.filter (fun q => q.grid == grid && (match q.task with
        | some t => t.scope == id && !t.root | none => false))
      let inner := (recs.flatMap (fun r => taskScopes r.task)) ++
        (runners.flatMap (fun q => match q.task with | some t => taskScopes t | none => []))
      let s := recs.foldl (fun s r => (unlink s r.id).modGrid grid (·.dropRec r.id)) s
      let s := runners.foldl (fun s q => match q.task with | some t => clearTask s q t | none => s) s
      let gone := (s.turns.filter (fun t => t.grid == grid && t.scope == id)).map (fun (t : Turn) => t.id)
      let s := dropHalts s (fun h => h.merge && gone.contains h.turn)
      let s := { s with turns := s.turns.filter (fun t => !(t.grid == grid && t.scope == id)) }
      let s := s.modGrid grid (fun g => { g.dropViews (fun v => v.scope == id) with
        liveTasks := g.liveTasks - (recs.length + runners.length) })
      let owner := (g.scope? id).map (fun (c : Scope) => c.owner)
      let lives := (s.groups.any (fun q => q.grid == grid && q.task.any (fun (t : Task) => some t.id == owner))) ||
        ((s.grid? grid).map (fun (d : Grid) => d.recs.any (fun r => some r.task.id == owner))).getD false
      let s := if lives then s.modGrid grid (·.modScope id (fun c => { c with aborted := true, folded := true }))
        else s.modGrid grid (fun d => { d with scopes := d.scopes.filter (fun c => c.id != id) })
      abortScopes f (resumeParent s grid id) grid (inner ++ rest)

/-- Kills the task a runner runs (R353, R355): its scopes abort, its views count as blank, and it counts as ended. [DEDUCED, log entry 53] -/
def killTask (s : State) (gid : Nat) : State :=
  match s.group? gid with
  | none => s
  | some g =>
    match g.task with
    | none => s.modGroup gid (clearRunner s.cycle)
    | some t =>
      let s := abortScopes 65536 (clearTask s g t) g.grid (taskScopes t)
      let s := s.modGrid g.grid (fun d =>
        { d.dropViews (fun v => v.task == t.id && v.st == 1) with liveTasks := d.liveTasks - 1 })
      if t.root then s else childEnded s g.grid t.scope t.sidx (s.starter g)

end Sys2Proof.Machine
end

