-- ==== Sys2Proof/Machine/Ops.lean ====
section
/-! DEFINITION. The shared operations: the end of groups, teams and grids (R43), kills, the halt record, TAKING A FAULT
(R369 to R373) and the return from one (R371, R372), and what every scalar word shares. -/

namespace Sys2Proof.Machine

/-! The save area (R373, R374, R468). -/

/-- Bytes of a team's section of its context image at its largest [DESIGN CHOICE, log entry 20]. -/
def teamImageBytes (g : Grid) : Nat :=
  64 + (4096 * g.scratch + if g.hsp then g.hsize else 0) * 9 / 8 + 16 * g.bars + 64 + 8192 * g.accum + 8320 * 64 +
    (if g.ffa then 131072 else 0) + (if g.task then 65536 else 0)

/-- Bytes that one group takes: its halt header and its section [DESIGN CHOICE, log entry 20]. -/
def groupImageBytes (width alloc : Nat) : Nat := 128 + 1024 + 4 * width * alloc + 4 * width + 8192

/-- Offset of a group's halt header within its team's room [DESIGN CHOICE, log entry 20]. -/
def groupOffset (g : Grid) (gidx : Nat) : Nat :=
  teamImageBytes g + min gidx g.prod.count * groupImageBytes g.width g.prod.alloc +
    (gidx - g.prod.count) * groupImageBytes g.width g.cons.alloc

/-- Units of 64 KiB that a team of the grid takes (R468). [DESIGN CHOICE, log entry 20] -/
def roomUnits (g : Grid) : Nat := (groupOffset g (g.prod.count + g.cons.count) + 65535) / 65536

/-- Device address of a team's room in the save area. [DESIGN CHOICE, log entry 20] -/
def roomAddr (s : State) (t : Team) : Nat :=
  let v := s.vdev t.vf
  v.save.toNat * 65536 + 65536 * (((v.rooms.find? (fun r => r.team == t.id)).map (·.base)).getD 0)

/-- Address of a group's halt record (R373). [DESIGN CHOICE, log entry 20] -/
def haltAddr (s : State) (g : Group) : Nat :=
  match s.grid? g.grid with
  | none => 0
  | some d => roomAddr s (s.teamOf g) + groupOffset d g.gidx

/-- A number made of fields, each a low bit and a value. -/
def pack (l : List (Nat × Nat)) : Nat := (l.map (fun f => f.2 * 2 ^ f.1)).foldl (· + ·) 0

/-- GSTAT as it reads: PEND is 1 while a token is pending (R169). -/
def Group.gstatRead (g : Group) : Word64 :=
  if g.tokensDone 0xFF then g.gstat else g.gstat ||| 4

/-- The 1,024-byte architected part of a group section (R374). -/
def architected (g : Group) : List Byte :=
  (List.range 64).flatMap (fun i => toBytes 8 (g.readS (BitVec.ofNat 6 i)).toNat) ++
    (List.range 16).flatMap (fun i => toBytes 8 (sget g.k 0 i).toNat) ++
    toBytes 8 g.pc ++ toBytes 8 g.gctl.toNat ++ toBytes 8 g.gstatRead.toNat ++ toBytes 8 g.febound.toNat ++ toBytes 352 0

/-- What the host has rewritten of the architected part since it was written as `was`: s1 to s63, k1 to k15 and the PC (R374), as the
home serial order has left them. A word that holds an uncorrectable error is not taken. [DEDUCED, log entry 59] -/
def rearm (s : State) (a : Nat) (was : List Byte) (g : Group) : Group :=
  let word := fun i => ofBytes (homeBytes s (a + 8 * i) 8)
  let new := fun (i : Nat) => !hasErr s (a + 8 * i) 8 && word i != ofBytes ((was.drop (8 * i)).take 8)
  let pick := fun (base n : Nat) => ((List.range n).filter (fun i => new (base + i + 1))).map (fun i => (i + 1, BitVec.ofNat 64 (word (base + i + 1))))
  { g with s := ssetAll g.s 0 (pick 0 63), k := ssetAll g.k 0 (pick 64 15), kc := ssetAll g.kc 0 (pick 64 15),
           pc := if new 80 then word 80 % 2 ^ 24 else g.pc }

/-- The halt record's header (R373), with the grid's status word. -/
def headerOf (gsw : Word64) (w : Starter) (fr : FaultRec) (level : Nat) : Nat :=
  pack [(768, fr.prog.toNat), (704, fr.faddr.toNat), (640, fr.gtime), (576, fr.lmask.toNat), (512, gsw.toNat % 2 ^ 60),
    (496, w.tz), (480, w.ty), (464, w.tx), (458, w.gidx), (449, w.cid), (424, fr.pc % 2 ^ 24), (407, fr.run % 2 ^ 17),
    (402, fr.word), (401, fr.side), (400, if fr.lane then 1 else 0), (384, fr.code.num), (380, fr.imm.toNat),
    (379, if fr.isBrk then 1 else 0), (376, level)]

/-- The header of a group's halt record (R373). -/
def haltHeader (s : State) (g : Group) (fr : FaultRec) (level : Nat) : Nat :=
  headerOf (((s.grid? g.grid).map (·.statusAddr)).getD 0) (s.starter g) fr level

/-! Ends (R43). -/

/-- A packet leaves the ready lists and the wait table of its partition. With the head of a main list go its age and the
cluster held for it (R367). -/
def Part.leave (p : Part) (pkt : Nat) : Part :=
  let head := (List.range 4).filter (fun c => ((p.ready.find? (fun r => r.1 == c && !r.2.1)).map (fun r => r.2.2)) == some pkt)
  { p with ready := p.ready.filter (fun r => r.2.2 != pkt), table := p.table.filter (fun e => e.2 != pkt)
           ages := head.foldl (fun m c => sset m 0 c 0) p.ages, heldFor := head.foldl (fun m c => sset m 0 c 0) p.heldFor }

/-- The resident group leaves its core. -/
def removeGroup (s : State) (gid : Nat) : State :=
  if s.cur.live && s.cur.gid == gid then { s with cur := { s.cur with live := false } }
  else { s with others := s.others.filter (fun g => g.gid != gid) }

/-- A round of the partition's dispatcher is due: resources were freed or a packet became ready (R365). -/
def needRound (s : State) (part : Nat) : State := s.modPart part (fun p => { p with needRound := true })

/-- A store of the hub to a host or peer page leaves the device, or waits for its port (R361, R425). [DESIGN CHOICE, log entry 68] -/
def hubOut (s : State) (vf : Nat) (p : Page) (b : List Byte) : State :=
  let part := (s.partOfVf vf).getD 0
  let x : OutStore := { ptype := p.ptype, addr := p.pa, bytes := b, part := part, vf := vf, gid := 0, settled := false }
  let port := s.port (portOf s p.pa)
  if p.ptype != 2 then { s with outStores := s.outStores ++ [x] }
  else if peerHeld s vf p || !port.waiting.isEmpty then s.modPort (portOf s p.pa) (fun q => { q with waiting := q.waiting ++ [x] })
  else ({ s with outStores := s.outStores ++ [x] } : State).modPort (portOf s p.pa) (·.send part)

/-- The stores of the hub that wait at a port leave once it is up again (R425). [DESIGN CHOICE, log entry 68] -/
def flushPort (s : State) (n : Nat) : State :=
  let p := s.port n
  let goes := fun (x : OutStore) => !p.down && !p.full x.part && decide ((s.part x.part).retrainAt ≤ s.gtc)
  if !p.waiting.any goes then s
  else ({ s with outStores := s.outStores ++ p.waiting.filter goes } : State).modPort n (fun q =>
    (p.waiting.filter goes).foldl (fun q x => q.send x.part) { q with waiting := q.waiting.filter (fun x => !goes x) })

/-- The hub writes a grid's status word whole: a grid without one has none (R361). A host page has been translated for the packet's
check, and needs no further request. [DEDUCED, log entry 37] -/
def writeStatus (s : State) (d : Grid) (code reason : Nat) : State :=
  if d.statusAddr = 0 then s
  else
    match translate s d.vf (32 * (d.vf / 8)) d.statusAddr.toNat with
    | (.error _, s) => s
    | (.ok p, s) =>
      let b := toBytes 8 (pack [(40, d.kfault), (32, d.discard.toNat), (24, reason), (0, code)])
      if p.ptype != 0 then hubOut s d.vf p b
      else
        let (v, t) := hubWrite s p.pa b pathLane
        (State.usedPage s d.vf d.statusAddr.toNat t).modPkt d.pkt (fun k => { k with h := max k.h v })

/-- The grid leaves: its final status is written and its packet completes (R361, R364). -/
def finishGrid (s : State) (id : Nat) : State :=
  match s.grid? id with
  | none => s
  | some d =>
    let code := if d.hostKilled then 4 else if d.restoreFail then 5 else 2
    let s := s.modPkt d.pkt (fun k => { k with h := max k.h d.h })
    let s := writeStatus s d code 0
    let s := s.modPkt d.pkt (fun k => { k with st := .completing 0 })
    { s with grids := s.grids.filter (fun g => g.id != id) }

/-- Every team of the grid ended in a kill by containment: containment has killed the grid (R324). [DEDUCED, log entry 58] -/
def Grid.contained (d : Grid) : Bool := decide (d.killedTeams = d.x * d.y * d.z)

/-- A tile-walk command of the grid still walks: its writes belong to the packet's work (R364). -/
def tweOpen (s : State) (grid : Nat) : Bool := s.twe.any (fun c => c.grid == grid && c.stage != .past)

/-- The last team has ended: pins are released (R193); the deferred packets of a grid that containment or the host has killed are discarded,
others are submitted before the grid leaves (R324), and it leaves once its tile-walk commands have completed (R364). -/
def endGrid (s : State) (id : Nat) : State :=
  let s := { s with clusters := smapUpd s.clusters Cluster.reset (fun c =>
    { c with l2 := c.l2.map (fun (l : Line) => if l.pin == some id then { l with pin := none } else l) }) }
  let s := s.modGrid id (fun d =>
    let keep := if d.hostKilled || d.contained then [] else d.deferred
    { d with ended := true, deferred := keep })
  match s.grid? id with
  | none => s
  | some d => if d.deferred.isEmpty && !tweOpen s id then finishGrid s id else s

/-- The grid has no team left to place or to end. -/
def Grid.over (d : Grid) : Bool := decide (d.nextTeam = d.x * d.y * d.z) && decide (d.endedTeams = d.x * d.y * d.z)

/-- The last group of a team has ended (R43): what the team held is released, receivers of it are dropped (R321), its room is
freed (R468), and the grid ends with its last team. -/
def endTeam (s : State) (id : Nat) : State :=
  match s.team? id with
  | none => s
  | some t =>
    let cmds := s.twe.map (fun (c : TweCmd) => { c with recvs := mapIf c.recvs (·.team == id) (fun r => { r with done := true }) })
    let s := { s with teams := s.teams.filter (fun x => x.id != id), pubs := s.pubs.filter (fun p => p.team != id), twe := cmds }
    let s := s.modVDev t.vf (fun v => { v with rooms := v.rooms.filter (fun r => r.team != id) })
    let s := s.modGrid t.grid (fun d => { d with endedTeams := d.endedTeams + 1, h := max d.h t.h })
    let s := match s.partOfVf t.vf with | some n => needRound s n | none => s
    match s.grid? t.grid with
    | some d => if d.over && !d.ended then endGrid s t.grid else s
    | none => s

/-- A group ends: its horizons join its team's, it leaves its core, and its team ends with it if it was the last (R43, R294). -/
def endGroup (s : State) (gid : Nat) : State :=
  match s.group? gid with
  | none => s
  | some g =>
    let s := s.modTeam g.team (fun t => { t with h := max t.h g.latest })
    let s := s.modCore g.core (fun c => { c with victims := c.victims.filter (fun v => v.2.2 != g.slot) })
    let s := removeGroup s gid
    let s := match s.partOfVf g.vf with | some n => needRound s n | none => s
    if (s.groupsOf g.team).isEmpty && (s.teamOf g).savedAt.isNone && (s.teamOf g).saved.isEmpty then endTeam s g.team else s

/-- A group is abandoned (R371): its runs end, its work is dropped, its halt is answered, and it ends. -/
def abandonGroup (s : State) (gid : Nat) : State :=
  match s.group? gid with
  | none => s
  | some g =>
    let s := dropWork s gid
    let s := s.modVDev g.vf (fun v => { v with halts := v.halts.filter (fun h => h.merge || h.gid != gid) })
    endGroup s gid

/-- The end of a team of the grid is a kill (R324). -/
def noteTeam (s : State) (grid : Nat) : State := s.modGrid grid (fun d => { d with killedTeams := d.killedTeams + 1 })

/-- Kills one group (R371): its team ends in a kill where it was the last. -/
def killGroup (s : State) (gid : Nat) : State :=
  match s.group? gid with
  | none => s
  | some g =>
    let last := (s.groupsOf g.team).length == 1 && (s.teamOf g).saved.isEmpty
    abandonGroup (if last then noteTeam s g.grid else s) gid

/-- Kills every group of a team, the ones in its context included (R371); what those have written stays part of its completion time
(R364). -/
def killTeam (s : State) (team : Nat) : State :=
  match s.team? team with
  | none => s
  | some t =>
    let s := t.saved.foldl (fun s (g : Group) => (dropWork s g.gid).modTeam team (fun t => { t with h := max t.h g.latest })) (noteTeam s t.grid)
    let s := (s.groupsOf team).foldl (fun s g => abandonGroup s g.gid) s
    if (s.team? team).isSome then endTeam s team else s

/-- Records the first code that killed a part of a grid (R361, R371). -/
def noteKill (s : State) (grid : Nat) (c : Code) : State :=
  s.modGrid grid (fun d => { d with kfault := if d.kfault = 0 then c.num else d.kfault })

/-- Kills a whole grid for the host (R372): every team, saved or placed, and what is not placed yet. -/
def killGrid (s : State) (id : Nat) : State :=
  match s.grid? id with
  | none => s
  | some d =>
    let s := s.modGrid id (fun g =>
      let total := g.x * g.y * g.z
      let gone := g.endedTeams + (total - g.nextTeam)
      { g with
        hostKilled := true, deferred := [], nextTeam := total, recs := [], scopes := [], views := [], endedTeams := gone })
    let s := { s with turns := s.turns.filter (fun t => t.grid != id), twe := s.twe.filter (fun c => c.grid != id) }
    let s := s.modVDev d.vf (fun v => { v with halts := v.halts.filter (fun h => h.grid != id) })
    let ids := (s.teams.filter (fun t => t.grid == id)).map (fun (t : Team) => t.id)
    let s := match s.partOfVf d.vf with
      | some n => needRound (s.modPart n (fun p =>
          { p.leave d.pkt with restore := p.restore.filter (fun r => !ids.contains r.2) })) n
      | none => s
    let s := ids.foldl (fun s t => killTeam (s.modTeam t (fun x => { x with savedAt := none })) t) s
    match s.grid? id with
    | some g => if g.ended then s else endGrid s id
    | none => s

/-! Taking a fault (R370, R371). -/

/-- The policy that decides a code for a grid, and the level that decides: 2 grid, 3 virtual device (R370, R401). -/
def policyOf (s : State) (grid vf : Nat) (c : Code) : Policy × Nat :=
  let nib := match s.grid? grid with | some d => (d.contain.extractLsb' (4 * c.num) 4).toNat | none => 0
  let p := if nib = 0 then c.default else Policy.ofNibble nib
  if p == .pass then
    let v := s.vdev vf
    let w := if c.num < 16 then v.contain0.extractLsb' (4 * c.num) 4 else v.contain1.extractLsb' (4 * (c.num - 16)) 4
    (if w.toNat ≤ 1 then .halt else Policy.ofNibble w.toNat, 3)
  else (p, 2)

/-- GSTAT.LASTF and LFV after a fault resolved by RETRY or IGNORE (R169). -/
def Group.setLast (g : Group) (c : Code) : Group :=
  { g with gstat := (g.gstat &&& ~~~0xFF80) ||| BitVec.ofNat 64 (c.num * 256 + 128) }

/-- The level exceeds the DFLOOR of the partition that a deterministic group runs in (R412). [DEDUCED, log entry 71] -/
def overFloor (s : State) (g : Group) : Bool :=
  g.det && (match s.partOfVf g.vf with | some n => decide ((s.part n).dfloor.toNat < s.power.eff.toNat) | none => false)

/-- The group continues in the next cycle. -/
def Group.later (g : Group) (cycle : Nat) : Group := { g with sready := max g.sready (cycle + 1) }

/-- A restored run whose fetch has failed is discarded: no further word of it issues (R298, R371). -/
def Group.discard (g : Group) (seq : Nat) : Group :=
  g.modRun seq (fun r => { r with again := false, parked := false, quarters := 0, dec := 0,
                                  sides := r.sides.map (fun d => { d with issued := true }) })

/-- The return from a fault: RETRY repeats what faulted, IGNORE passes over it (R371 and the rules it names). [DEDUCED, log entries 48, 51 and 74] -/
def resolve (s : State) (gid : Nat) (fr : FaultRec) (retry : Bool) : State :=
  let s := s.modGroup gid (fun g => ({ g with fault := none }).setLast fr.code |>.later s.cycle)
  match fr.src with
  | .scalar =>
    if retry then s.modGroup gid (fun g => { g with detPend := fr.code == .detPower && overFloor s g }) else s.modGroup gid (·.advance)
  | .scalarDone => s.modGroup gid (·.advance)
  | .fetch seq =>
    if retry then
      let (t, s) := s.later
      s.modGroup gid (fun g => { g with queue := mapIf g.queue (·.seq == seq) (fun e => { e with code := none, readyAt := max t (s.gtc + 1) }) })
    else retire (s.modGroup gid (fun g => ({ g with queue := g.queue.filter (fun e => e.seq != seq) } : Group).discard seq)) gid
  | .word seq side =>
    let s := s.modGroup gid (fun g =>
      let clear := if fr.code == .stallShort then (g.out.map (fun l => l.cyc + 1)).foldl max 0 else 0
      g.modSide seq side (fun d => { d with
        held := false, pass := 0, wi := if retry then d.wi else d.wi + 1, next := max d.next (max (s.cycle + 1) clear) }))
    consumeTrailer s gid seq side
  | .trap seq side => retire (s.modGroup gid (·.modSide seq side (fun d => { d with held := false }))) gid
  | .op id =>
    s.modOp id (fun o => { o with
      held := false, checked := false, asked := false, ready := max o.ready (s.gtc + 1), lanes := o.lanes.map (fun l =>
      match l.xl, l.stage with
      | .bad c, .wait => if c != fr.code then l else if retry then { l with xl := .need, first := none } else { l with stage := .dropped }
      | .ok _, .wait => { l with xl := .need }
      | _, .err =>
        if fr.code != .dataError then l else if retry then { l with xl := .need, stage := .wait, first := none } else { l with stage := .dropped }
      | _, _ => l) })
  | .mx req =>
    match s.req? req with
    | none => s
    | some r =>
      let change := fun (f : List MxReq → List MxReq) => s.modCluster (clusterOf r.core) (fun c => openWindows s.cycle { c with reqs := f c.reqs })
      let put := fun (r' : MxReq) => change (fun l => mapIf l (·.id == req) (fun _ => r'))
      if r.kind == .drain && r.stage == .finishing then put { r with held := false, amax := if retry then r.amax else none, since := some (s.cycle + 1) }
      else if retry then put { r with held := false, next := 0, since := none, window := none, stage := .waiting, part := [] }
      else retire (change (fun l => l.filter (fun x => x.id != req))) gid
  | .ffa team =>
    let trim := s.gtc + Config.latency s.fresh % 10001
    let go := fun (f : Ffa) =>
      match fr.code, f.queue with
      | .ffaBias, _ => if retry then { f with trimTill := trim, winStart := s.cycle } else f
      | _, [] => f
      | .dataError, c :: r => { f with queue := if retry then { c with ready := max c.ready (s.cycle + 1) } :: r else r }
      | _, c :: r => { f with queue := { c with since := none, force := !retry, ready := max c.ready (s.cycle + 1) } :: r }
    let s := s.modTeam team (fun t => { t with ffa := t.ffa.map go })
    { s with fresh := s.fresh + 1 }
  | .twe cmd recv =>
    s.modTwe cmd (fun c =>
      if fr.code == .feWait && !(c.kind == .cpyc && c.result.isNone) then
        { c with ready := max c.ready (s.gtc + 1), recvs := mapIf c.recvs (·.team == recv) (fun r => { r with since := none, held := false, done := !retry }) }
      else
        let c := { c with held := false, since := s.gtc, ready := max c.ready (s.gtc + 1) }
        if retry then c
        else { c with recvs := c.recvs.map (fun r => { r with done := true }) })
  | .watchdog => s.modGroup gid (fun g => { g with stretch := s.cycle })
  | .promise slot time =>
    if retry then s.modGroup gid (fun g => { g with stall := .sleepOp time slot })
    else s.modGroup gid (fun g => { g.advance with stall := .none })

/-- The group halts (R371): the fault stays open, the halt record is written, and the fault vector is signalled. -/
def halt (s : State) (gid : Nat) (fr : FaultRec) (level : Nat) : State :=
  match s.group? gid with
  | none => s
  | some g =>
    let a := haltAddr s g
    let ctx := architected g
    let s := (hubWrite s a (toBytes 128 (haltHeader s g fr level) ++ ctx) pathLane).2
    let s := s.setGroup { g with fault := some { fr with level := level } }
    let s := s.modVDev g.vf (fun v => { v with halts := v.halts ++ [{ addr := a, gid := gid, merge := false, turn := 0, grid := g.grid, team := 0, ctx := ctx }] })
    s.signal (g.vf + 1) 0

/-- KILL_SELF and KILL_PARENT of a fault raised while a runner holds no task: the runner survives (R329, R355), and a tile-walk command
whose fault it is ends with no further writes. [DEDUCED, log entry 53] -/
def killIdle (s : State) (gid : Nat) (fr : FaultRec) : State :=
  match fr.src with
  | .twe cmd _ => { killTask s gid with twe := s.twe.filter (fun c => c.id != cmd) }
  | .ffa _ => dropFfa (killTask s gid) gid
  | _ => killTask s gid

/-- The kill of a fault of a group (R371), of the task that a runner runs (R353, R355), or of the scope into which it was spawned. -/
def killFor (s : State) (g : Group) (fr : FaultRec) (parent : Bool) : State :=
  let s := noteKill s g.grid fr.code
  match g.task with
  | some t =>
    if parent && !t.root then advanceScope 5000 (abortScopes 65536 s g.grid [t.scope]) g.grid t.scope (s.starter g) else killTask s g.gid
  | none =>
    if ((s.grid? g.grid).map (·.task)).getD false then killIdle s g.gid fr
    else if parent then killTeam s g.team else killGroup s g.gid

/-- Containment decides a fault of a group (R370, R371). -/
def contain (s : State) (gid : Nat) (fr : FaultRec) : State :=
  match s.group? gid with
  | none => s
  | some g =>
    match policyOf s g.grid g.vf fr.code with
    | (.pass, l) => halt s gid fr l
    | (.halt, l) => halt s gid fr l
    | (.ignore, _) => resolve s gid fr false
    | (.retry, _) => resolve s gid fr true
    | (.killSelf, _) => killFor s g fr false
    | (.killParent, _) => killFor s g fr true

/-- The run that a fault of a lane word belongs to (R37). -/
def faultRun (s : State) (fr : FaultRec) : Option (Nat × Nat) :=
  match fr.src with
  | .word seq side => some (seq, side)
  | .trap seq side => some (seq, side)
  | .op id => (s.op? id).bind (fun o => if o.scalar then none else some (o.seq, o.side))
  | .mx id => (s.req? id).map (fun r => (r.seq, r.side))
  | _ => none

/-- A run leaves the stream that it shares (R291). -/
def Group.split (g : Group) (seq : Nat) : Group := g.modRun seq (fun r => { r with stream := (g.gid, 0) })

/-- A head of a group with an open fault is not Ready, and has no age (R287). -/
def Group.ageless (g : Group) : Group :=
  { g with queue := match g.queue with | [] => [] | e :: r => { e with since := none } :: r }

/-- A FAULT IS RAISED to a group: containment decides it at the end of the tick; a run that raises one leaves its shared stream
(R291, R370). [DEDUCED, log entry 38] -/
def raise (s : State) (gid : Nat) (fr : FaultRec) : State :=
  let leave := fun (g : Group) => match faultRun s fr with | some (seq, _) => g.split seq | none => g
  s.modGroup gid (fun g => { (leave g).ageless with heldFaults := g.heldFaults ++ [fr] })

/-- The same for a group that may be at its save point, or saved: containment takes the fault once its team is restored. [DEDUCED, log
entry 38] -/
def raiseHeld (s : State) (gid : Nat) (fr : FaultRec) : State :=
  if (s.group? gid).isSome then raise s gid fr else s.modGroupAny gid (fun g => { g with heldFaults := g.heldFaults ++ [fr] })

/-- The order in which faults are taken: by tick, scalar before lane, then by position (R370). [DEDUCED, log entry 38] -/
def faultKey (s : State) (fr : FaultRec) : List Nat :=
  match fr.lane, faultRun s fr with
  | true, some (seq, side) => [fr.gtime, 1, seq, fr.word, side]
  | true, none => [fr.gtime, 1, 2 ^ 64, fr.word, fr.side]
  | false, _ => [fr.gtime, 0, fr.pc, 0, 0]

/-- TAKING A FAULT: containment takes the first of a group's undecided faults, unless the group is halted with one (R370, R371). -/
def takeFault (s : State) (gid : Nat) : State :=
  match s.group? gid with
  | none => s
  | some g =>
    if g.fault.isSome then s
    else
      match leastBy (faultKey s) g.heldFaults with
      | none => s
      | some fr => contain (s.setGroup { g with heldFaults := g.heldFaults.erase fr }) gid fr

/-- A scalar fault: precise at the PC, lane mask 0. -/
def scalarFault (s : State) (g : Group) (c : Code) (faddr : Nat) : FaultRec :=
  { code := c, src := .scalar, pc := g.pc, lane := false, run := 0, word := 0, side := 0, lmask := 0,
    faddr := BitVec.ofNat 64 faddr, gtime := s.timeOf g, imm := 0, isBrk := false, prog := 0, level := 0 }

/-- Raises a fault of a scalar word that has no effect. -/
def raiseScalar (s : State) (c : Code) (faddr : Nat) : State := raise s s.cur.gid (scalarFault s s.cur c faddr)

/-- Raises a fault of a scalar word that has completed (R60, R175). -/
def raiseDone (s : State) (c : Code) : State := raise s s.cur.gid { scalarFault s s.cur c 0 with src := .scalarDone }

/-- The scalar accesses that halted a group take from the registers that the host has rewritten, `a` being the group before: an access that
RETRY performs again is executed again from its start (R116, R374). [DEDUCED, log entry 48] -/
def rearmOps (a b : Group) (s : State) : State :=
  let new := fun (n : Nat) => a.readS (BitVec.ofNat 6 n) != b.readS (BitVec.ofNat 6 n)
  { s with ops := mapIf s.ops (fun o => o.gid == b.gid && o.scalar && o.held) (fun o => { o with lanes := o.lanes.map (fun l => { l with
      ea := if new o.base then ((b.readS (BitVec.ofNat 6 o.base) + o.off).toNat : Int) else l.ea
      data := if o.kind == .store && new o.dst then toBytes 8 (b.readS (BitVec.ofNat 6 o.dst)).toNat else l.data }) }) }

/-- Ends an open fault of a group; what else has been raised is decided at the end of the tick (R370). [DEDUCED, log entry 38] -/
def answer (s : State) (gid : Nat) (retry : Bool) : State :=
  match (s.group? gid).bind (·.fault) with
  | none => s
  | some fr => resolve s gid fr retry

/-! What every scalar word shares. -/

/-- The current group changed. -/
def State.onCur (s : State) (f : Group → Group) : State := { s with cur := f s.cur }

/-- An interlocked word is tried again in the next cycle (R32, R33). -/
def State.hold (s : State) : State := s.onCur (fun g => g.later s.cycle)

/-- The scalar unit's next word, one cycle on (R19). -/
def Group.next (g : Group) (cycle : Nat) : Group := { g with pc := g.pc + 1, sready := cycle + 1 }

/-- A result of a scalar word: written under R33, usable `lat` cycles on (R103), and PC + 1. -/
def Group.result (g : Group) (cycle : Nat) (d : BitVec 6) (v : Word64) (lat : Nat) : Group :=
  { (g.writeS d v).next cycle with sboard := if d = 0 then g.sboard else sset g.sboard 0 d.toNat (cycle + lat) }

/-- Scalar writes wait for runs that still read the register (R33). [DEDUCED, log entry 39] -/
def mayWriteS (s : State) (d : BitVec 6) : Bool := d = 0 || !readsScalar s s.cur d.toNat

/-- Mask writes wait for runs that still read the mask or have not finished with it (R33). -/
def mayWriteK (s : State) (d : BitVec 4) : Bool := !readsMask s s.cur d.toNat && !writesMask s s.cur d.toNat

/-- Mask reads of the scalar stream wait for the runs that write the mask (R32). [DEDUCED, log entry 39] -/
def mayReadK (s : State) (k : BitVec 4) : Bool := k = 0 || !writesMask s s.cur k.toNat

/-- A scalar word that writes s[d] when it may. -/
def scalarWrite (s : State) (d : BitVec 6) (v : Word64) (lat : Nat) : Host.Outcome State Fault Refusal :=
  withCur s (if mayWriteS s d then s.onCur (·.result s.cycle d v lat) else s.hold)

end Sys2Proof.Machine
end

