-- ==== Sys2Proof/Machine/Flags.lean ====
section
/-! DEFINITION. Status bits: the lanes' LSTAT, the scalar DZ and OV of GSTAT, which of them trap, and integer division, which
sets them (R55, R59, R60, R165, R169). -/

namespace Sys2Proof.Machine

/-- LSTAT bits 6 to 0 (R165). -/
def stNV : BitVec 7 := 0x40
def stFDZ : BitVec 7 := 0x20
def stOF : BitVec 7 := 0x10
def stUF : BitVec 7 := 0x08
def stNX : BitVec 7 := 0x04
def stDZ : BitVec 7 := 0x02
def stOV : BitVec 7 := 0x01

/-- The lanes that set a status bit. -/
def lanesWith (bit : BitVec 7) (l : List (Nat × BitVec 7)) : Word64 :=
  maskOf ((l.filter (fun e => e.2 &&& bit != 0)).map (fun e => e.1))

/-- The one trap of a word, over the status its lanes set: the enabled code of the lowest number (R55). -/
def trapOf (gctl : Word64) (l : List (Nat × BitVec 7)) : Option (Code × Word64) :=
  if gctl.getLsbD 3 && lanesWith stDZ l != 0 then some (.divZero, lanesWith stDZ l)
  else if gctl.getLsbD 4 && lanesWith stOV l != 0 then some (.intOvf, lanesWith stOV l)
  else if gctl.getLsbD 1 && lanesWith stNV l != 0 then some (.fpInvalid, lanesWith stNV l)
  else if gctl.getLsbD 2 && lanesWith stFDZ l != 0 then some (.fpDivzero, lanesWith stFDZ l)
  else none

/-- A two's-complement value of width `w` (R49). -/
def signedOf (w x : Nat) : Int := if x % 2 ^ w < 2 ^ (w - 1) then (x % 2 ^ w : Nat) else (x % 2 ^ w : Nat) - 2 ^ w

/-- The bits of an integer modulo 2^w (R60). -/
def bitsOfInt (w : Nat) (x : Int) : Nat := (x % 2 ^ w).toNat

/-- Quotient, remainder and status of a division of width `w` (R59). -/
def divide (signed : Bool) (w a b : Nat) : Nat × Nat × BitVec 7 :=
  if b % 2 ^ w = 0 then (2 ^ w - 1, a % 2 ^ w, stDZ)
  else if signed && a % 2 ^ w == 2 ^ (w - 1) && b % 2 ^ w == 2 ^ w - 1 then (2 ^ (w - 1), 0, stOV)
  else if signed then
    (bitsOfInt w (Int.tdiv (signedOf w a) (signedOf w b)), bitsOfInt w (Int.tmod (signedOf w a) (signedOf w b)), 0)
  else (a % 2 ^ w / (b % 2 ^ w), a % 2 ^ w % (b % 2 ^ w), 0)

/-- GSTAT after a scalar division: DZ and OV are sticky (R60, R169). -/
def Group.setGstat (g : Group) (st : BitVec 7) : Group :=
  { g with gstat := g.gstat ||| (if st &&& stDZ != 0 then 1 else 0) ||| (if st &&& stOV != 0 then 2 else 0) }

/-- The trap of a scalar division (R60). -/
def scalarTrap (gctl : Word64) (st : BitVec 7) : Option Code :=
  if gctl.getLsbD 3 && st &&& stDZ != 0 then some .divZero
  else if gctl.getLsbD 4 && st &&& stOV != 0 then some .intOvf
  else none

/-- The significant bits of a number. -/
def sigBits (n : Nat) : Nat := if n = 0 then 0 else Nat.log2 n + 1

/-- Cycles of a scalar division (R103). -/
def divLatency (signed : Bool) (a : Nat) (st : BitVec 7) : Nat :=
  if st != 0 then 2 else 2 + sigBits (if signed then (signedOf 64 a).natAbs else a)

end Sys2Proof.Machine
end

