-- ==== Sys2Proof/Machine/Scalar.lean ====
section
/-! DEFINITION. The scalar words that compute: R105 to R108, and `nop`, `rdgtc` of R172. -/

namespace Sys2Proof.Machine

/-- A word of two sources and a latency of 1 cycle. -/
def alu2 (s : State) (d a b : BitVec 6) (f : Word64 → Word64 → Word64) : Host.Outcome State Fault Refusal :=
  scalarWrite s d (f (s.cur.readS a) (s.cur.readS b)) 1

/-- 1 or 0. -/
def bit64 (b : Bool) : Word64 := if b then 1 else 0

/-- `add` (R105). -/
def execAdd (d a b : BitVec 6) (s : State) := alu2 s d a b (fun x y => x + y)
/-- `sub` (R105). -/
def execSub (d a b : BitVec 6) (s : State) := alu2 s d a b (fun x y => x - y)
/-- `and` (R105). -/
def execAnd (d a b : BitVec 6) (s : State) := alu2 s d a b (fun x y => x &&& y)
/-- `or` (R105). -/
def execOr (d a b : BitVec 6) (s : State) := alu2 s d a b (fun x y => x ||| y)
/-- `xor` (R105). -/
def execXor (d a b : BitVec 6) (s : State) := alu2 s d a b (fun x y => x ^^^ y)
/-- `andn` (R105). -/
def execAndn (d a b : BitVec 6) (s : State) := alu2 s d a b (fun x y => x &&& ~~~y)
/-- `shl` (R105). -/
def execShl (d a b : BitVec 6) (s : State) := alu2 s d a b (fun x y => x <<< (y.toNat % 64))
/-- `shr` (R105). -/
def execShr (d a b : BitVec 6) (s : State) := alu2 s d a b (fun x y => x >>> (y.toNat % 64))
/-- `sra` (R105). -/
def execSra (d a b : BitVec 6) (s : State) := alu2 s d a b (fun x y => x.sshiftRight (y.toNat % 64))
/-- `min` (R105). -/
def execMin (d a b : BitVec 6) (s : State) := alu2 s d a b (fun x y => if y.toInt < x.toInt then y else x)
/-- `max` (R105). -/
def execMax (d a b : BitVec 6) (s : State) := alu2 s d a b (fun x y => if x.toInt < y.toInt then y else x)
/-- `minn` (R105). -/
def execMinn (d a b : BitVec 6) (s : State) := alu2 s d a b (fun x y => if y.toNat < x.toNat then y else x)
/-- `maxn` (R105). -/
def execMaxn (d a b : BitVec 6) (s : State) := alu2 s d a b (fun x y => if x.toNat < y.toNat then y else x)
/-- `seq` (R105). -/
def execSeq (d a b : BitVec 6) (s : State) := alu2 s d a b (fun x y => bit64 (x == y))
/-- `slt` (R105). -/
def execSlt (d a b : BitVec 6) (s : State) := alu2 s d a b (fun x y => bit64 (decide (x.toInt < y.toInt)))
/-- `sltn` (R105). -/
def execSltn (d a b : BitVec 6) (s : State) := alu2 s d a b (fun x y => bit64 (decide (x.toNat < y.toNat)))

/-- `mul` (R106). -/
def execMul (d a b : BitVec 6) (s : State) := scalarWrite s d (s.cur.readS a * s.cur.readS b) 4
/-- `mulh` (R106). -/
def execMulh (d a b : BitVec 6) (s : State) :=
  scalarWrite s d (BitVec.ofInt 64 ((s.cur.readS a).toInt * (s.cur.readS b).toInt / 2 ^ 64)) 4
/-- `mulhn` (R106). -/
def execMulhn (d a b : BitVec 6) (s : State) :=
  scalarWrite s d (BitVec.ofNat 64 ((s.cur.readS a).toNat * (s.cur.readS b).toNat / 2 ^ 64)) 4

/-- A division: the defined result is written, DZ and OV are set, and the trap that GCTL enables is taken after the word has
completed (R59, R60, R106). -/
def scalarDivide (s : State) (signed quotient : Bool) (d a b : BitVec 6) : Host.Outcome State Fault Refusal :=
  let x := (s.cur.readS a).toNat
  let r := divide signed 64 x (s.cur.readS b).toNat
  let v := BitVec.ofNat 64 (if quotient then r.1 else r.2.1)
  let lat := divLatency signed x r.2.2
  withCur s (
    if mayWriteS s d then
      match scalarTrap s.cur.gctl r.2.2 with
      | none => s.onCur (fun g => (g.result s.cycle d v lat).setGstat r.2.2)
      | some c => raiseDone (s.onCur (fun g => { (g.result s.cycle d v lat).setGstat r.2.2 with pc := g.pc })) c
    else s.hold)

/-- `div` (R106). -/
def execDiv (d a b : BitVec 6) (s : State) := scalarDivide s true true d a b
/-- `divn` (R106). -/
def execDivn (d a b : BitVec 6) (s : State) := scalarDivide s false true d a b
/-- `rem` (R106). -/
def execRem (d a b : BitVec 6) (s : State) := scalarDivide s true false d a b
/-- `remn` (R106). -/
def execRemn (d a b : BitVec 6) (s : State) := scalarDivide s false false d a b

/-- The number of 0 bits above the highest 1 bit of a number of `w` bits. -/
def leadingZeros (w n : Nat) : Nat := w - sigBits (n % 2 ^ w)
/-- The number of 0 bits below the lowest 1 bit; 64 for none (R106). -/
def trailingZeros (x : Word64) : Nat := ((List.range 64).find? (fun i => x.getLsbD i)).getD 64

/-- `popc` (R106). -/
def execPopc (d a : BitVec 6) (s : State) := scalarWrite s d (BitVec.ofNat 64 (popcount (s.cur.readS a))) 1
/-- `clz` (R106). -/
def execClz (d a : BitVec 6) (s : State) := scalarWrite s d (BitVec.ofNat 64 (leadingZeros 64 (s.cur.readS a).toNat)) 1
/-- `ctz` (R106). -/
def execCtz (d a : BitVec 6) (s : State) := scalarWrite s d (BitVec.ofNat 64 (trailingZeros (s.cur.readS a))) 1
/-- `sext` (R106). -/
def execSext (d a p : BitVec 6) (s : State) :=
  scalarWrite s d ((s.cur.readS a <<< (63 - p.toNat)).sshiftRight (63 - p.toNat)) 1

/-- An immediate form: imm14 sign-extended (R107). -/
def aluImm (s : State) (d a : BitVec 6) (i : BitVec 14) (f : Word64 → Word64 → Word64) : Host.Outcome State Fault Refusal :=
  scalarWrite s d (f (s.cur.readS a) (i.signExtend 64)) 1

/-- `addi` (R107). -/
def execAddi (d a : BitVec 6) (i : BitVec 14) (s : State) := aluImm s d a i (fun x y => x + y)
/-- `andi` (R107). -/
def execAndi (d a : BitVec 6) (i : BitVec 14) (s : State) := aluImm s d a i (fun x y => x &&& y)
/-- `ori` (R107). -/
def execOri (d a : BitVec 6) (i : BitVec 14) (s : State) := aluImm s d a i (fun x y => x ||| y)
/-- `xori` (R107). -/
def execXori (d a : BitVec 6) (i : BitVec 14) (s : State) := aluImm s d a i (fun x y => x ^^^ y)
/-- `slti` (R107). -/
def execSlti (d a : BitVec 6) (i : BitVec 14) (s : State) := aluImm s d a i (fun x y => bit64 (decide (x.toInt < y.toInt)))
/-- `sltni` (R107). -/
def execSltni (d a : BitVec 6) (i : BitVec 14) (s : State) := aluImm s d a i (fun x y => bit64 (decide (x.toNat < y.toNat)))

/-- A shift by an immediate 0 to 63; any other is an ILLEGAL_OP (R107). -/
def shiftImm (s : State) (d a : BitVec 6) (i : BitVec 14) (f : Word64 → Nat → Word64) : Host.Outcome State Fault Refusal :=
  if i.toNat < 64 then scalarWrite s d (f (s.cur.readS a) i.toNat) 1 else withCur s (raiseScalar s .illegalOp 0)

/-- `shli` (R107). -/
def execShli (d a : BitVec 6) (i : BitVec 14) (s : State) := shiftImm s d a i (fun x n => x <<< n)
/-- `shri` (R107). -/
def execShri (d a : BitVec 6) (i : BitVec 14) (s : State) := shiftImm s d a i (fun x n => x >>> n)
/-- `srai` (R107). -/
def execSrai (d a : BitVec 6) (i : BitVec 14) (s : State) := shiftImm s d a i (fun x n => x.sshiftRight n)

/-- `li` (R108). -/
def execLi (d : BitVec 6) (i : BitVec 20) (s : State) := scalarWrite s d (i.signExtend 64) 1
/-- `lhi` (R108). -/
def execLhi (d : BitVec 6) (i : BitVec 20) (s : State) :=
  scalarWrite s d ((s.cur.readS d &&& ~~~0xFFFFF00000#64) ||| (i.zeroExtend 64 <<< 20)) 1
/-- `lxi` (R108). -/
def execLxi (d : BitVec 6) (i : BitVec 20) (s : State) :=
  scalarWrite s d ((s.cur.readS d &&& 0xFFFFFFFFFF#64) ||| (i.zeroExtend 64 <<< 40)) 1
/-- `pcrel` (R108). -/
def execPcrel (d : BitVec 6) (i : BitVec 20) (s : State) :=
  scalarWrite s d (s.cur.scb + 4 * (BitVec.ofNat 64 s.cur.pc + i.signExtend 64)) 1

/-- `nop` (R172). -/
def execNop (s : State) : Host.Outcome State Fault Refusal := withCur s (s.onCur (·.next s.cycle))
/-- `rdgtc` (R174). -/
def execRdgtc (a : BitVec 6) (s : State) := scalarWrite s a (BitVec.ofNat 64 (s.timeOf s.cur)) 1

end Sys2Proof.Machine
end

