-- ==== Sys2Proof/Machine/Masks.lean ====
section
/-! DEFINITION. The mask words of the scalar stream (R113). -/

namespace Sys2Proof.Machine

/-- A word that writes a mask: k0 is no destination (R17); sources are read under R32 and the destination is written under
R33. -/
def maskWrite (s : State) (d : BitVec 4) (src : List (BitVec 4)) (v : Word64) : Host.Outcome State Fault Refusal :=
  withCur s (
    if d = 0 then raiseScalar s .illegalOp 0
    else if src.all (mayReadK s) && mayWriteK s d then s.onCur (fun g => (g.writeK d v).next s.cycle)
    else s.hold)

/-- A word that writes a scalar register from a mask read under R32. -/
def maskRead (s : State) (k : BitVec 4) (d : BitVec 6) (v : Word64) : Host.Outcome State Fault Refusal :=
  withCur s (if mayReadK s k && mayWriteS s d then s.onCur (·.result s.cycle d v 1) else s.hold)

/-- `kand` (R113). -/
def execKand (d a b : BitVec 4) (s : State) := maskWrite s d [a, b] (s.cur.readK a &&& s.cur.readK b)
/-- `kor` (R113). -/
def execKor (d a b : BitVec 4) (s : State) := maskWrite s d [a, b] (s.cur.readK a ||| s.cur.readK b)
/-- `kxor` (R113). -/
def execKxor (d a b : BitVec 4) (s : State) := maskWrite s d [a, b] (s.cur.readK a ^^^ s.cur.readK b)
/-- `kandn` (R113). -/
def execKandn (d a b : BitVec 4) (s : State) := maskWrite s d [a, b] (s.cur.readK a &&& ~~~(s.cur.readK b))
/-- `knot` (R113). -/
def execKnot (d a : BitVec 4) (s : State) := maskWrite s d [a] (~~~(s.cur.readK a))
/-- `kmovk` (R113). -/
def execKmovk (d : BitVec 4) (a : BitVec 6) (s : State) := maskWrite s d [] (s.cur.readS a)
/-- `kset` (R113). -/
def execKset (d : BitVec 4) (s : State) := maskWrite s d [] s.cur.k0

/-- `kmovs` (R113). -/
def execKmovs (k : BitVec 4) (d : BitVec 6) (s : State) := maskRead s k d (s.cur.readK k)
/-- `kmovs.nw`: the committed value, without interlock (R32, R113). -/
def execKmovsNw (k : BitVec 4) (d : BitVec 6) (s : State) := scalarWrite s d (sget s.cur.kc 0 k.toNat) 1
/-- `kpop` (R113). -/
def execKpop (k : BitVec 4) (d : BitVec 6) (s : State) :=
  maskRead s k d (BitVec.ofNat 64 (popcount (s.cur.readK k &&& s.cur.k0)))
/-- `kfirst` (R113). -/
def execKfirst (k : BitVec 4) (d : BitVec 6) (s : State) :=
  maskRead s k d (BitVec.ofNat 64 (trailingZeros (s.cur.readK k &&& s.cur.k0)))

end Sys2Proof.Machine
end

