-- ==== Sys2Proof/Machine/Control.lean ====
section
/-! DEFINITION. Control transfer (R109 to R112), `trap` and `brk` (R175), and the group registers (R167 to R173). -/

namespace Sys2Proof.Machine

/-- A transfer to a word index: outside the section it is an ACCESS and has no effect; within it, it is taken, and its target
issues one cycle later than a plain word (R103, R112). -/
def transfer (s : State) (target : Int) (f : Group → Group) : State :=
  if 0 ≤ target && decide (target < s.cur.swords) then
    s.onCur (fun g => { f g with pc := target.toNat, sready := s.cycle + 2 })
  else raiseScalar s .access (s.cur.scb + BitVec.ofInt 64 (4 * target)).toNat

/-- The condition of `b.cc` (R72). -/
def branchTaken (g : Group) (c : BitVec 4) (a : BitVec 6) : Bool :=
  let x := g.readS a
  let k := g.readK (a.truncate 4) &&& g.k0
  match c.toNat with
  | 0 => true
  | 1 => x == 0
  | 2 => x != 0
  | 3 => decide (x.toInt < 0)
  | 4 => decide (0 ≤ x.toInt)
  | 5 => k == 0
  | 6 => k != 0
  | 7 => k == g.k0
  | _ => false

/-- A term that is no instruction is an ILLEGAL_OP (R74). -/
def checked (i : Instr) (s : State) (f : State) : Host.Outcome State Fault Refusal :=
  withCur s (if wf i then f else raiseScalar s .illegalOp 0)

/-- `b.cc` (R109). A mask condition reads its mask under R32. -/
def execBCc (c : BitVec 4) (a : BitVec 6) (i : BitVec 16) (s : State) :=
  checked (.bCc c a i) s (
    if decide (5 ≤ c.toNat) && !mayReadK s (a.truncate 4) then s.hold
    else if branchTaken s.cur c a then transfer s (s.cur.pc + i.toInt) id
    else s.onCur (·.next s.cycle))

/-- `call` (R110). -/
def execCall (i : BitVec 20) (s : State) : Host.Outcome State Fault Refusal :=
  withCur s (
    if mayWriteS s 63 then transfer s (s.cur.pc + i.toInt) (fun g => g.writeS 63 (BitVec.ofNat 64 (g.pc + 1)))
    else s.hold)

/-- `jr` (R111). -/
def execJr (a : BitVec 6) (s : State) : Host.Outcome State Fault Refusal :=
  withCur s (transfer s (s.cur.readS a).toNat id)

/-- BREAK, raised after the word has completed (R175). -/
def breakFault (s : State) (isBrk : Bool) (c : BitVec 4) : State :=
  raise s s.cur.gid { scalarFault s s.cur .brk 0 with src := .scalarDone, imm := c, isBrk := isBrk }

/-- `trap` (R175). -/
def execTrap (a : BitVec 6) (c : BitVec 4) (s : State) : Host.Outcome State Fault Refusal :=
  withCur s (if s.cur.readS a = 0 then s.onCur (·.next s.cycle) else breakFault s false c)

/-- `brk` (R175). -/
def execBrk (c : BitVec 4) (s : State) : Host.Outcome State Fault Refusal := withCur s (breakFault s true c)

/-! Group registers. -/

/-- The OR of LSTAT over the lanes of the group (R170). -/
def Group.lstatOr (g : Group) : BitVec 7 := (List.range g.width).foldl (fun x j => x ||| sget g.lstat 0 j) 0

/-- A group register as it reads (R168 to R171). -/
def Group.readReg (g : Group) (n : BitVec 6) : Word64 :=
  match n.toNat with
  | 0 => g.gctl
  | 1 => g.gstatRead
  | 2 => g.lstatOr.zeroExtend 64
  | 3 => g.febound.zeroExtend 64
  | 4 => g.lease.zeroExtend 64
  | 5 => BitVec.ofNat 64 (g.acqfloor % 2 ^ 60)
  | 6 => g.lcb
  | 7 => g.scb
  | _ => 0

/-- A write of a group register by its access codes (R168 to R171): GCTL bits 4:0; GSTAT bits 7, 1 and 0 by writing 1, LASTF
with bit 7; LSTAT in every lane; FEBOUND, at least 64. -/
def Group.writeReg (g : Group) (n : BitVec 6) (v : Word64) : Group :=
  match n.toNat with
  | 0 => { g with gctl := (g.gctl &&& ~~~0x1F) ||| (v &&& 0x1F) }
  | 1 => { g with gstat := g.gstat &&& ~~~((v &&& 0x83) ||| (if v.getLsbD 7 then 0xFF00 else 0)) }
  | 2 => { g with lstat := smapUpd g.lstat 0 (fun x => x &&& ~~~(v.extractLsb' 0 7)) }
  | 3 => { g with febound := if (v.extractLsb' 0 32).toNat < 64 then 64 else v.extractLsb' 0 32 }
  | _ => g

/-- `rdsr` (R173): GSTAT, LSTAT and ACQFLOOR wait until the group's runs have retired and landed. -/
def execRdsr (a b : BitVec 6) (s : State) :=
  checked (.rdsr a b) s (
    if (b = 1 || b = 2 || b = 5) && !s.cur.quiet then s.hold
    else if mayWriteS s a then s.onCur (fun g => g.result s.cycle a (g.readReg b) 1)
    else s.hold)

/-- `wrsr` (R173). -/
def execWrsr (a b : BitVec 6) (s : State) :=
  checked (.wrsr a b) s (
    if s.cur.quiet then s.onCur (fun g => (g.writeReg b (g.readS a)).next s.cycle) else s.hold)

end Sys2Proof.Machine
end

