-- ==== Sys2Proof/Machine/RunQueue.lean ====
section
/-! DEFINITION. `run`, `run2` and `wait` (R117 to R119). -/

namespace Sys2Proof.Machine

/-- A queue entry that is not fetched. -/
def Entry.new (pair : Bool) (a b : Nat) (k : BitVec 4) (w : BitVec 8) (lb : Bool) : Entry :=
  { seq := 0, pair := pair, idxA := a, idxB := b, k4 := k, await := w, lb := lb, code := none, readyAt := 0, since := none }

/-- A queue entry enters the run queue, which holds 8 (R117, R286). The head's fetch begins at once. -/
def enqueue (s : State) (e : Entry) : State :=
  if 8 ≤ s.cur.queue.length then s.hold
  else
    let (t, s) := if s.cur.queue.isEmpty then s.later else (0, s)
    s.onCur (fun g =>
      { g.next s.cycle with queue := g.queue ++ [{ e with seq := g.seqNext, readyAt := t }], seqNext := g.seqNext + 1 })

/-- `run` (R117). -/
def execRun (w : BitVec 8) (l : BitVec 1) (i : BitVec 17) (s : State) : Host.Outcome State Fault Refusal :=
  withCur s (enqueue s (Entry.new false i.toNat 0 0 w (l == 1)))

/-- `run2` (R118): the indices are read now, the selection mask when the pair starts. -/
def execRun2 (w : BitVec 8) (k : BitVec 4) (a b : BitVec 6) (s : State) : Host.Outcome State Fault Refusal :=
  withCur s (enqueue s (Entry.new true (s.cur.readS a).toNat (s.cur.readS b).toNat k w false))

/-- The token that the run at an index assigns, as memory holds its trailer; 8 for none, 9 where it cannot be read before the fetch. -/
def peekToken (s : State) (g : Group) (idx : Nat) (fuel : Nat) : Nat :=
  match fuel with
  | 0 => 8
  | f + 1 =>
    match peekWord s g idx with
    | none => 9
    | some b => if isTrailer b then (b.extractLsb' 82 4).toNat else peekToken s g (idx + 1) f

/-- The tokens that a queue entry assigns. [DEDUCED, log entry 21] -/
def entryTokens (s : State) (g : Group) (e : Entry) : List Nat :=
  match e.code with
  | some l => l.map (fun c => c.tr.tok.toNat)
  | none => peekToken s g e.idxA 25 :: (if e.pair then [peekToken s g e.idxB 25] else [])

/-- `wait` waits for a token that is pending, or that an earlier-enqueued run has still to assign [DEDUCED, log entry 21]. -/
def tokenDue (s : State) (g : Group) (t : Nat) : Bool :=
  g.tokenPending t || g.sides.any (fun d => !d.issued && d.tr.tok.toNat == t) ||
    g.queue.any (fun e => (entryTokens s g e).any (fun n => n == t || n == 9))

/-- `wait` (R119, R34). [DEDUCED, log entry 21] -/
def execWait (t : BitVec 8) (s : State) : Host.Outcome State Fault Refusal :=
  withCur s (
    if (List.range 8).any (fun n => t.getLsbD n && tokenDue s s.cur n) then s.hold else s.onCur (·.next s.cycle))

end Sys2Proof.Machine
end

