-- ==== Sys2Proof/Machine/Operands.lean ====
section
/-! DEFINITION. The operands of lane words: every form of R76 and R77 read, and the registers a result goes to (R122 to
R125). -/

namespace Sys2Proof.Machine

/-- The f32 patterns of class 2, index 32 onwards (R78). -/
def inlineFloats : List Word32 :=
  [0x3F000000, 0x3F800000, 0x40000000, 0x40800000, 0x41000000, 0x3E800000, 0x3E000000, 0xBF000000,
   0xBF800000, 0xC0000000, 0x80000000, 0x7F800000, 0xFF800000, 0x7FC00000, 0x7F7FFFFF, 0x00800000,
   0x40490FDB, 0x3FC90FDB, 0x40C90FDB, 0x3EA2F983, 0x402DF854, 0x3F317218, 0x3FB8AA3B, 0x40549A78,
   0x3FB504F3, 0x3F3504F3, 0x3EAAAAAB, 0x43E00000, 0x47600000, 0x40400000, 0x41800000, 0x3D800000]

/-- A register pair as one value (R49). -/
def pairOf (lo hi : Word32) : Word64 := hi ++ lo

/-- The GTC that a lane word reads when it issues: that of its first pass (R77). -/
def Group.wordTime (s : State) (g : Group) : Nat :=
  match (g.run? g.pos.1).bind (·.side? g.pos.2) with
  | some d => if d.pass = 1 then d.tick else s.timeOf g
  | none => s.timeOf g

/-- A class 1 special operand (R77). -/
def identity (s : State) (g : Group) (t : Team) (j idx : Nat) : Nat :=
  match idx with
  | 0 => j
  | 1 => g.gidx
  | 2 => t.tx
  | 3 => t.ty
  | 4 => t.tz
  | 5 => g.role
  | 6 => g.width
  | 7 => s.coreId g.core
  | 8 => g.wordTime s % 2 ^ 32
  | 9 => g.gidx * g.width + j
  | _ => 0

/-- A special operand: 64 bits for a 64-bit type, else its low 32 bits (R77, R78). -/
def special (s : State) (g : Group) (t : Team) (j : Nat) (wide : Bool) (cls : BitVec 5) (idx : BitVec 6) : Word64 :=
  match cls.toNat with
  | 0 => if wide then g.readS idx else ((g.readS idx).truncate 32).zeroExtend 64
  | 1 => BitVec.ofNat 64 (identity s g t j idx.toNat)
  | _ => if idx.toNat < 32 then BitVec.ofNat 64 idx.toNat else (inlineFloats.getD (idx.toNat - 32) 0).zeroExtend 64

/-- The MRF index of an indirect operand: base + x[n], without wrap (R76, R99). -/
def indirectIndex (g : Group) (x : BitVec 2) (base : BitVec 8) : Nat := base.toNat + (sget g.s 0 (56 + x.toNat)).toNat

/-- A value of one or two MRF registers. -/
def Group.readMrf (g : Group) (j n : Nat) (wide : Bool) : Word64 :=
  if wide then pairOf (g.readV j n) (g.readV j (n + 1)) else (g.readV j n).zeroExtend 64

/-- A source operand of a lane: 64 bits for a 64-bit type, else 32 bits, zero-extended (R49, R76). -/
def readOperand (s : State) (g : Group) (t : Team) (j : Nat) (wide : Bool) (o : Operand) : Word64 :=
  match o with
  | .mrf n => g.readMrf j n.toNat wide
  | .orf n =>
    if wide then pairOf (sget g.orf 0 (j * 8 + n.toNat)) (sget g.orf 0 (j * 8 + n.toNat + 1))
    else (sget g.orf 0 (j * 8 + n.toNat)).zeroExtend 64
  | .lrf n =>
    if wide then pairOf (sget g.lrf 0 (j * 4 + n.toNat)) (sget g.lrf 0 (j * 4 + n.toNat + 1))
    else (sget g.lrf 0 (j * 4 + n.toNat)).zeroExtend 64
  | .special c n => special s g t j wide c n
  | .indirect x base => g.readMrf j (indirectIndex g x base) wide

/-- The 32-bit registers of a value, low first. -/
def halves (wide : Bool) (v : Word64) : List Word32 :=
  if wide then [v.extractLsb' 0 32, v.extractLsb' 32 32] else [v.extractLsb' 0 32]

/-- Consecutive keys for a list of values. -/
def keyed (k : Nat) : List Word32 → List (Nat × Word32)
  | [] => []
  | x :: r => (k, x) :: keyed (k + 1) r

/-- MRF registers that a result in D writes in a lane. -/
def mrfDest (g : Group) (o : Operand) (j : Nat) (vs : List Word32) : List (Nat × Word32) :=
  match o with
  | .mrf n => keyed (j * 256 + n.toNat) vs
  | .indirect x base => keyed (j * 256 + indirectIndex g x base) vs
  | _ => []

/-- ORF registers that a result in D writes in a lane (R124). -/
def orfDest (o : Operand) (j : Nat) (vs : List Word32) : List (Nat × Word32) :=
  match o with
  | .orf n => keyed (j * 8 + n.toNat) vs
  | _ => []

/-! Register numbers that a word reads and writes, for the checks. -/

/-- MRF numbers of a field. -/
def mrfNumbers (g : Group) (f : Operand × Nat) : List Nat :=
  match f.1 with
  | .mrf n => (List.range f.2).map (· + n.toNat)
  | .indirect x base => (List.range f.2).map (· + indirectIndex g x base)
  | _ => []

/-- ORF numbers of a field. -/
def orfNumbers (f : Operand × Nat) : List Nat :=
  match f.1 with
  | .orf n => (List.range f.2).map (· + n.toNat)
  | _ => []

/-- A field that names the LRF. -/
def isLrf (f : Operand × Nat) : Bool := match f.1 with | .lrf _ => true | _ => false

/-- An indirect field that reaches the allotment (R123). -/
def indirectOut (g : Group) (f : Operand × Nat) : Bool :=
  match f.1 with
  | .indirect x base => decide (g.alloc ≤ indirectIndex g x base + f.2 - 1)
  | _ => false

end Sys2Proof.Machine
end

