-- ==== Sys2Proof/Machine/Lane.lean ====
section
/-! DEFINITION. What every lane word shares: its active set and passes, the checks at issue, its results, and its place in the
run (R26, R27, R29, R31, R37, R123 to R130). -/

namespace Sys2Proof.Machine

/-- The lanes of a side of a pair (R35). -/
def sideMask (r : Run) (d : Side) : Word64 :=
  if !r.pair then BitVec.allOnes 64 else if d.side = 0 then r.sel else ~~~r.sel

/-- The active set of a word (R29). -/
def activeOf (g : Group) (r : Run) (d : Side) (i : Instr) : Word64 := g.readK (kmaskOf i) &&& g.k0 &&& sideMask r d

/-- A fault of a run's side is open or undecided (R37). -/
def runFaulted (s : State) (g : Group) (seq side : Nat) : Bool :=
  (g.fault.toList ++ g.heldFaults).any (fun f => f.lane && faultRun s f == some (seq, side))

/-- A lane word waits behind an atomic of its run that a restore issues again and that has no entries yet (R298, R466). -/
def replayWaits (s : State) (g : Group) (r : Run) (d : Side) : Bool :=
  s.ops.any (fun o => o.gid == g.gid && !o.scalar && o.seq == r.seq && o.side == d.side && o.kind.isAtomic && !o.checked && !o.held)

/-- A side may go on: it has words left, no fault keeps it at its word, and nothing of its run is still to be fetched or issued again. -/
def goesOn (s : State) (g : Group) (r : Run) (d : Side) : Bool :=
  !d.issued && !d.held && !r.again && !runFaulted s g r.seq d.side && !replayWaits s g r d

/-- The other side of a pair issues its word of the same position in this cycle: it is about to, or has begun it (R35). A side that a
fault holds, or whose trailer has been consumed, issues none. [DEDUCED, log entry 39] -/
def issuesBeside (s : State) (g : Group) (r : Run) (d e : Side) : Bool :=
  e.side != d.side && ((goesOn s g r e && e.wi == d.wi && e.pass == d.pass && decide (e.next ≤ s.cycle)) ||
    (e.last == s.cycle + 1 && (e.wi == d.wi + 1 || (e.wi == d.wi && e.pass == 1))))

/-- The lanes that the word, and the word of the other side that issues with it, have active (R35). Which passes a word skips that issues alone
because a fault has parted the two runs of a 64-lane pair the manual does not say: here only its own lanes count, not those of the run that
is held. [DEDUCED, log entry 39; DESIGN CHOICE, log entry 39] -/
def unionActive (s : State) (g : Group) (r : Run) (d : Side) (i : Instr) : Word64 :=
  (r.sides.filter (issuesBeside s g r d)).foldl (fun m e =>
    match e.words[d.wi]? with
    | some w => m ||| activeOf g r e w
    | none => m) (activeOf g r d i)

/-- Lanes of a pass: all for a group of 32 lanes or fewer, else one half (R27). -/
def passLanes (width half : Nat) : Word64 :=
  if width < 64 then BitVec.allOnes 64 else if half = 0 then 0xFFFFFFFF#64 else 0xFFFFFFFF00000000#64

/-- The passes of a word (R27, R35). -/
def passesOf (s : State) (g : Group) (r : Run) (d : Side) (i : Instr) : List Nat :=
  if g.width < 64 then [0]
  else if d.pass = 1 then [1]
  else
    let u := unionActive s g r d i
    match u &&& passLanes 64 0 != 0, u &&& passLanes 64 1 != 0 with
    | true, true => [0, 1]
    | false, true => [1]
    | _, _ => [0]

/-- A pass of a word that issues. -/
structure Issue where
  run : Run
  side : Side
  /-- The word's active set, and that of this pass. -/
  full : Word64
  lanes : Word64
  /-- The passes still to issue, this one first. -/
  passes : List Nat

/-- It is the word's last pass. -/
def Issue.final (q : Issue) : Bool := q.passes.length ≤ 1

/-- The pass that issues at the current issue position. -/
def issueOf (s : State) (i : Instr) : Option Issue :=
  match s.cur.run? s.cur.pos.1 with
  | none => none
  | some r =>
    match r.side? s.cur.pos.2 with
    | none => none
    | some d =>
      let ps := passesOf s s.cur r d i
      let full := activeOf s.cur r d i
      some { run := r, side := d, full := full, lanes := full &&& passLanes s.cur.width (ps.headD 0), passes := ps }

/-! Checks at issue. -/

/-- log2 of a group width. -/
def log2w (width : Nat) : Nat := Nat.log2 width

/-- The latency λ of a fixed-latency word (R131, R138, R143, R144, R152, R155 to R159, R166). -/
def latencyOf (width : Nat) (i : Instr) : Nat :=
  let two := fun (w : LaneOp) (a b : Nat) => if w.typ.is64 then b else a
  let tree := fun (w : LaneOp) => if w.typ == .f32 then 4 + 2 * log2w width else 2 + log2w width
  match i with
  | .iadd w => two w 1 2 | .isub w => two w 1 2 | .imul w => two w 4 6 | .imulh w => two w 4 6 | .imad w => two w 4 6
  | .idiv w => two w 16 32 | .irem w => two w 16 32 | .iabs w => two w 1 2 | .imin w => two w 1 2 | .imax w => two w 1 2
  | .laneShl w => two w 1 2 | .laneShr w => two w 1 2 | .laneSra w => two w 1 2
  | .lanePopc _ => 2 | .laneClz _ => 2 | .bfe w => two w 2 3 | .bfi w => two w 2 3 | .movs _ => 2
  | .fadd _ => 4 | .fsub _ => 4 | .fmul _ => 4 | .ffma _ => 4 | .fmin _ => 2 | .fmax _ => 2 | .fdiv _ => 12 | .fsqrt _ => 12
  | .frcp _ => 8 | .frsq _ => 8 | .fex2 _ => 8 | .flg2 _ => 8 | .fsin _ => 10 | .fcos _ => 10 | .ftanh _ => 10
  | .hadd _ => 4 | .hmul _ => 4 | .hfma _ => 4 | .hmin _ => 2 | .hmax _ => 2
  | .cvt _ => 3 | .qnt _ => 6 | .dqn _ => 4 | .pk6 _ => 3 | .up6 _ => 3 | .pk4 _ => 3 | .up4 _ => 3
  | .icmp w => two w 2 3 | .fcmp _ => 2 | .sel w => two w 1 2 | .kwr _ => 2
  | .vote _ => 3 | .radd w => tree w | .rmin w => tree w | .rmax w => tree w | .scan w => tree w
  | .rng _ => 4
  | _ => 1

/-- A word that sets LSTAT bits (R131, R155, R163, R164). [DEDUCED, log entry 30] -/
def setsStatus (i : Instr) : Bool :=
  match i with
  | .idiv _ => true | .irem _ => true | .fcmp _ => true
  | .fadd _ => true | .fsub _ => true | .fmul _ => true | .ffma _ => true | .fmin _ => true | .fmax _ => true
  | .fdiv _ => true | .fsqrt _ => true | .frcp _ => true | .frsq _ => true | .fex2 _ => true | .flg2 _ => true
  | .fsin _ => true | .fcos _ => true | .ftanh _ => true
  | .hadd _ => true | .hmul _ => true | .hfma _ => true | .hmin _ => true | .hmax _ => true
  | .cvt _ => true | .qnt _ => true | .dqn _ => true
  | .radd w => w.typ == .f32 | .rmin w => w.typ == .f32 | .rmax w => w.typ == .f32 | .scan w => w.typ == .f32
  | _ => false

def isRdst : Instr → Bool
  | .rdst _ => true
  | _ => false
def isClst : Instr → Bool
  | .clst _ => true
  | _ => false

/-- A word across lanes, which acts at its last pass on the values of all lanes (R159). -/
def isCross (i : Instr) : Bool :=
  match i with
  | .shfl _ => true | .bcast _ => true | .vote _ => true | .radd _ => true | .rmin _ => true | .rmax _ => true | .scan _ => true
  | _ => false

/-- The lanes in which an outstanding write breaks a condition of R129 for one pass of a word over the lanes of `half`.
A cross-lane word reads A in every lane (R159). An ORF write or a push of an earlier run, which will be discarded (R125), is none of
the outstanding writes, and a variable-latency word, whose landing is not known at issue, never breaks condition 3.
[DEDUCED, log entry 30] -/
def shortLanes (g : Group) (q : Issue) (i : Instr) (half : Word64) (cycle : Nat) (l : Landing) : Word64 :=
  let act := q.full &&& half
  let src := sourceFields i
  let dst := destField i
  let all := isCross i
  let mine := l.seq == q.run.seq && l.side == q.side.side
  let keysIn := fun (n : Nat) (ks : List Nat) (m : List (Nat × Word32)) =>
    maskOf ((m.filter (fun e => ks.contains (e.1 % n))).map (fun e => e.1 / n))
  let read := fun (f : Operand × Nat) (m : Word64) =>
    (keysIn 256 (mrfNumbers g f) l.mrf ||| (if mine then keysIn 8 (orfNumbers f) l.orf else 0) |||
      (if isLrf f && mine && !l.push.isEmpty then l.active else 0)) &&& m
  if l.cyc < cycle || (l.seq == q.run.seq && l.side != q.side.side) then 0
  else
    let c12 := ((src.zipIdx).map (fun f => read f.1 (if all && f.2 = 0 then BitVec.allOnes 64 else act))).foldl (· ||| ·) 0 |||
      (match l.kw with
        | some (k, _, _) => if (masksRead i).contains k then l.active &&& half else 0
        | none => 0) ||| (if isRdst i && l.wst then l.active &&& act else 0)
    let late := !isVariable i && decide (cycle + latencyOf g.width i - 1 ≤ l.cyc)
    let c3 := if !late then 0
      else (keysIn 256 (dst.flatMap (mrfNumbers g)) l.mrf ||| (if mine then keysIn 8 (dst.flatMap orfNumbers) l.orf else 0) |||
        (match l.kw with
          | some (k, _, _) => if maskWritten i == some k then l.active else 0
          | none => 0) ||| (if (setsStatus i || isClst i) && l.wst then l.active else 0)) &&& act
    c12 ||| c3

/-- The lanes in which a selection mask was read before an outstanding write of it landed: at the first pass of each side of a pair
(R35, R154). [DEDUCED, log entry 30] -/
def staleSelection (g : Group) (q : Issue) (cycle : Nat) : Word64 :=
  if !q.run.pair || q.side.wi != 0 || q.side.pass = 1 then 0
  else (g.out.filter (fun l => l.seq != q.run.seq && cycle ≤ l.cyc && l.ofMask q.run.k4.toNat)).foldl (fun m l => m ||| l.active) 0

/-- The lanes of a STALL_SHORT, half by half: each at the cycle of its pass, one that the masks leave empty at the word's first pass;
a word across lanes is judged at its last pass alone (R129, R154, R159). -/
def stallShort (s : State) (g : Group) (q : Issue) (i : Instr) : Word64 :=
  let at_ := fun (half : Word64) (cycle : Nat) => ((g.out.map (shortLanes g q i half cycle)).foldl (· ||| ·) 0 : Word64)
  let reads : Word64 :=
    if isCross i || g.width < 64 then at_ (BitVec.allOnes 64) s.cycle
    else
      let second := if q.passes.length = 2 then 1 else 0
      at_ (passLanes 64 0) s.cycle ||| at_ (passLanes 64 1) (s.cycle + second)
  staleSelection g q s.cycle ||| reads

/-- A pending mark of a trailer whose token the word's run did not await (R30, R31). -/
def Issue.blind (q : Issue) (d : Side) : Bool :=
  d.issued && !d.retired && !(decide (d.tr.tok.toNat < 8) && q.run.await.getLsbD d.tr.tok.toNat)

/-- The lanes of an UNAWAITED_READ (R31, R130): all of the active set where the word reads a pending register or mask whose token its run
did not await; where it writes such a register of the MRF, those active lanes that the run whose trailer names it covers. The other run
of a pair has none of them (R129). [DEDUCED, log entry 29] -/
def unawaited (g : Group) (q : Issue) (i : Instr) : Word64 :=
  let reads := (sourceFields i).flatMap (mrfNumbers g)
  let writes := (destField i).flatMap (mrfNumbers g)
  let own := (q.side.words.take q.side.wi).flatMap variableDests
  let names := fun (d : Side) (regs masks : List Nat) =>
    regs.any (fun r => d.tr.regs.any (fun x => x.toNat == r)) || masks.any (fun k => d.tr.masks.any (fun x => x.toNat == k))
  if (reads ++ writes).any (fun r => own.contains r) || g.sides.any (fun d => q.blind d && names d reads (masksRead i)) then q.full
  else
    (g.runs.flatMap (fun r => (r.sides.filter (fun d => q.blind d && names d writes [])).map (fun d =>
      q.full &&& sideMask r d))).foldl (· ||| ·) 0

/-- The fault of a word at issue, with its lane mask (R123, R129, R130). A word with two passes is checked before its first, a word
across lanes before its last, but for the selection mask, which was read at the start of the pair (R154). [DEDUCED, log entry 29] -/
def wordFault (s : State) (g : Group) (q : Issue) (i : Instr) : Option (Code × Word64) :=
  if isCross i && !q.final then
    if g.check && staleSelection g q s.cycle != 0 then some (.stallShort, staleSelection g q s.cycle) else none
  else if !isCross i && q.side.pass = 1 then none
  else if g.check && stallShort s g q i != 0 then some (.stallShort, stallShort s g q i)
  else if g.check && unawaited g q i != 0 then some (.unawaitedRead, unawaited g q i)
  else if q.full != 0 && (sourceFields i ++ destField i).any (indirectOut g) then some (.regBounds, q.full)
  else none

/-- The record of a fault of a lane word (R37, R373). -/
def laneFault (s : State) (g : Group) (q : Issue) (c : Code) (m : Word64) (faddr : Nat) : FaultRec :=
  { code := c, src := .word q.run.seq q.side.side, pc := g.pc, lane := true, run := q.side.idx, word := q.side.wi,
    side := q.side.side, lmask := m, faddr := BitVec.ofNat 64 faddr, gtime := s.timeOf g, imm := 0, isBrk := false,
    prog := 0, level := 0 }

/-- A lane word faults at issue: it has no effect, and its side stays at it (R37). -/
def raiseWord (s : State) (q : Issue) (c : Code) (m : Word64) (faddr : Nat) : State :=
  let s := s.onCur (fun g => (g.modSide q.run.seq q.side.side (fun d => { d with held := true, pass := 0, half := [], acc := [] })).modRun
    q.run.seq (fun r => { r with parked := false }))
  raise s s.cur.gid (laneFault s s.cur q c m faddr)

/-! The place of a word in its run. -/

/-- The pass has issued: the next pass, or the next word after 1 + n cycles; the trailer is consumed with the last word (R26,
R27, R35). -/
def State.issued (s : State) (q : Issue) (i : Instr) : State :=
  let step := fun (d : Side) =>
    let d := if q.side.pass = 1 then d else { d with last := s.cycle + 1 }
    if q.final then { d with wi := d.wi + 1, pass := 0, half := [], acc := [], next := s.cycle + 1 + stallOf i }
    else { d with pass := 1, acc := [], next := s.cycle + 1, tick := s.timeOf s.cur }
  let s := s.onCur (fun g => (g.modSide q.run.seq q.side.side step).modRun q.run.seq (fun r => { r with parked := false }))
  consumeTrailer (if q.final then s.count (ctrCore s.cur.core 2) 1 else s) s.cur.gid q.run.seq q.side.side

/-- An empty set of results of a pass. -/
def landing (s : State) (g : Group) (q : Issue) (i : Instr) : Landing :=
  { cyc := s.cycle + latencyOf g.width i - 1, ord := s.nextId, seq := q.run.seq, side := q.side.side, run := q.side.idx, word := q.side.wi,
    active := q.lanes, mrf := [], orf := [], push := [], kw := none, st := [], cl := 0, wst := setsStatus i || isClst i,
    acc := q.side.acc ++
      (g.out.filter (fun l => l.seq == q.run.seq && l.side == q.side.side && l.word == q.side.wi && !l.final)).flatMap (·.st),
    final := q.final }

/-- The landing of the values and status of lanes in D, with the push (R125, R126). -/
def Landing.values (l : Landing) (g : Group) (o : Operand) (wide : Bool) (vals : List (Nat × Word64 × BitVec 7)) : Landing :=
  { l with mrf := vals.flatMap (fun v => mrfDest g o v.1 (halves wide v.2.1)),
           orf := vals.flatMap (fun v => orfDest o v.1 (halves wide v.2.1)),
           push := vals.map (fun v => (v.1, (halves wide v.2.1).reverse)),
           st := (vals.map (fun v => (v.1, v.2.2))).filter (fun v => v.2 != 0) }

/-- A pass of a word with its landing. -/
def State.landed (s : State) (q : Issue) (i : Instr) (l : Landing) : State :=
  { s.onCur (fun g => { g with out := g.out ++ [l] }) with nextId := s.nextId + 1 }.issued q i

/-- A lane word at the issue position: its checks, then its effect. [DEDUCED, log entry 77] -/
def laneWord (i : Instr) (s : State) (f : Issue → State) : Host.Outcome State Fault Refusal :=
  withCur s (
    match issueOf s i with
    | none => s
    | some q =>
      match wordFault s s.cur q i with
      | some (c, m) => raiseWord s q c m 0
      | none => f q)

/-- A fixed-latency word whose result in each active lane is a function of the lane. -/
def fixedWord (i : Instr) (o : Operand) (wide : Bool) (s : State) (f : Team → Nat → Word64 × BitVec 7) :
    Host.Outcome State Fault Refusal :=
  laneWord i s (fun q =>
    let t := s.teamOf s.cur
    s.landed q i ((landing s s.cur q i).values s.cur o wide ((lanesOf q.lanes).map (fun j => (j, f t j)))))

/-- A fixed-latency word that writes a mask: one bit a lane (R154). -/
def maskWord (i : Instr) (k : Nat) (s : State) (f : Team → Nat → Bool × BitVec 7) : Host.Outcome State Fault Refusal :=
  laneWord i s (fun q =>
    let t := s.teamOf s.cur
    let ls := (lanesOf q.lanes).map (fun j => (j, f t j))
    let bits := maskOf ((ls.filter (fun v => v.2.1)).map (fun v => v.1))
    s.landed q i { landing s s.cur q i with
      kw := some (k, q.lanes, bits), st := (ls.map (fun v => (v.1, v.2.2))).filter (fun v => v.2 != 0) })

/-- A variable-latency operation of a word at issue (R23, R206). `dst` is its first destination register. -/
def opOf (s : State) (q : Issue) (kind : OpKind) (typ : LType) (nbytes dst : Nat) (lanes : List LaneReq) : Op :=
  { id := s.nextId, gid := s.cur.gid, scalar := false, seq := q.run.seq, side := q.side.side, run := q.side.idx,
    word := q.side.wi, pc := s.cur.pc, kind := kind, space := .global, order := 0, scope := 0, typ := typ, nbytes := nbytes,
    hint := 0, dst := dst, base := 0, off := 0, lanes := lanes, checked := false, asked := false, floor := 0, issuedAt := s.gtc, ready := s.later.1, bound := 0,
    stamp := s.cur.stamp0, vmax := 0, held := false, sent := none }

/-- An operation enters the list of those in flight. -/
def State.pushOp (s : State) (o : Op) : State :=
  { s with ops := s.ops ++ [o], nextId := s.nextId + 1, fresh := s.fresh + 1 }

/-- A word across lanes acts at its last pass, on all its active lanes at once (R159). -/
def crossWord (i : Instr) (s : State) (f : Issue → State) : Host.Outcome State Fault Refusal :=
  laneWord i s (fun q => if q.final then f { q with lanes := q.full } else s.issued q i)

/-- The lanes of a list of lane requests. -/
def lanesMask (l : List LaneReq) : Word64 := maskOf (l.map (fun x => x.lane))

/-- A word that starts one operation for all its lanes: each pass of a 64-lane group reads the registers and the governing mask of its
own half, and the operation starts with the last one (R27). [DEDUCED, log entry 27] -/
def gatheredWord (i : Instr) (form : Nat → LaneReq) (s : State) (f : Issue → List LaneReq → State) :
    Host.Outcome State Fault Refusal :=
  laneWord i s (fun q =>
    let ls := (if q.side.pass = 1 then q.side.half else []) ++ (lanesOf q.lanes).map form
    if q.final then f { q with lanes := lanesMask ls } ls
    else (s.onCur (·.modSide q.run.seq q.side.side (fun d => { d with half := ls }))).issued q i)

end Sys2Proof.Machine
end

