-- ==== Sys2Proof/Machine/LaneInt.lean ====
section
/-! DEFINITION. The integer words of the lanes (R131 to R137). -/

namespace Sys2Proof.Machine

/-- Width of an integer type (R49). -/
def LType.width (t : LType) : Nat :=
  match t with
  | .i64 => 64 | .n64 => 64 | .i16 => 16 | .n16 => 16 | .i8 => 8 | .n8 => 8 | _ => 32

/-- A signed integer type (R49). -/
def LType.signed (t : LType) : Bool :=
  match t with
  | .i32 => true | .i64 => true | .i16 => true | .i8 => true | _ => false

/-- The value of an operand in an integer type: taken from the low bits (R49). -/
def intOf (t : LType) (x : Word64) : Int :=
  if LType.signed t then signedOf (LType.width t) x.toNat else (x.toNat % 2 ^ LType.width t : Nat)

/-- A result as its registers hold it: sign- or zero-extended to 32 bits, or 64 bits (R49). -/
def intRaw (t : LType) (x : Int) : Word64 :=
  if LType.width t = 64 then BitVec.ofInt 64 x else (BitVec.ofInt 32 x).zeroExtend 64

/-- Smallest and largest value of a type. -/
def intMin (t : LType) : Int := if LType.signed t then -(2 ^ (LType.width t - 1)) else 0
def intMax (t : LType) : Int := if LType.signed t then 2 ^ (LType.width t - 1) - 1 else 2 ^ LType.width t - 1

/-- x modulo 2^w, read back in the type (R132). -/
def wrapTo (t : LType) (x : Int) : Int :=
  if LType.signed t then signedOf (LType.width t) (bitsOfInt (LType.width t) x) else bitsOfInt (LType.width t) x

/-- x clamped to the range of the type (R132). -/
def clampTo (t : LType) (x : Int) : Int := max (intMin t) (min (intMax t) x)

/-- fit(x) (R132). -/
def fit (t : LType) (sat : Bool) (x : Int) : Int := if sat then clampTo t x else wrapTo t x

/-- A word whose result is an integer of its operands' values, without status. -/
def intWord3 (i : Instr) (w : LaneOp) (s : State) (f : Int → Int → Int → Int) : Host.Outcome State Fault Refusal :=
  let wide := w.typ.is64
  fixedWord i w.d wide s (fun t j =>
    let rd := fun o => intOf w.typ (readOperand s s.cur t j wide o)
    (intRaw w.typ (f (rd w.a) (rd w.b) (rd w.c)), 0))

/-- `.sat` (R80). -/
def LaneOp.sat (w : LaneOp) : Bool := w.mod.getLsbD 5

/-- `iadd` (R132). -/
def execIadd (w : LaneOp) (s : State) := intWord3 (.iadd w) w s (fun a b _ => fit w.typ (LaneOp.sat w) (a + b))
/-- `isub` (R132). -/
def execIsub (w : LaneOp) (s : State) := intWord3 (.isub w) w s (fun a b _ => fit w.typ (LaneOp.sat w) (a - b))
/-- `imul` (R132). -/
def execImul (w : LaneOp) (s : State) := intWord3 (.imul w) w s (fun a b _ => fit w.typ (LaneOp.sat w) (a * b))
/-- `imulh` (R132): bits 2w − 1:w of the product. -/
def execImulh (w : LaneOp) (s : State) := intWord3 (.imulh w) w s (fun a b _ => wrapTo w.typ (a * b / 2 ^ LType.width w.typ))
/-- `imad` (R132). -/
def execImad (w : LaneOp) (s : State) := intWord3 (.imad w) w s (fun a b c => fit w.typ (LaneOp.sat w) (a * b + c))
/-- `iabs` (R132). -/
def execIabs (w : LaneOp) (s : State) := intWord3 (.iabs w) w s (fun a _ _ => fit w.typ (LaneOp.sat w) (a.natAbs : Int))
/-- `imin` (R132). -/
def execImin (w : LaneOp) (s : State) := intWord3 (.imin w) w s (fun a b _ => min a b)
/-- `imax` (R132). -/
def execImax (w : LaneOp) (s : State) := intWord3 (.imax w) w s (fun a b _ => max a b)

/-- A division of the lanes (R133). -/
def laneDivide (i : Instr) (w : LaneOp) (s : State) (quotient : Bool) : Host.Outcome State Fault Refusal :=
  let wide := w.typ.is64
  fixedWord i w.d wide s (fun t j =>
    let r := divide (LType.signed w.typ) (LType.width w.typ) (readOperand s s.cur t j wide w.a).toNat
      (readOperand s s.cur t j wide w.b).toNat
    let n : Nat := if quotient then r.1 else r.2.1
    (intRaw w.typ (wrapTo w.typ n), r.2.2))

/-- `idiv` (R133). -/
def execIdiv (w : LaneOp) (s : State) := laneDivide (.idiv w) w s true
/-- `irem` (R133). -/
def execIrem (w : LaneOp) (s : State) := laneDivide (.irem w) w s false

/-- A bitwise word (R134). -/
def bitWord (i : Instr) (w : LaneOp) (s : State) (f : Word64 → Word64 → Word64) : Host.Outcome State Fault Refusal :=
  let wide := w.typ.is64
  fixedWord i w.d wide s (fun t j => (f (readOperand s s.cur t j wide w.a) (readOperand s s.cur t j wide w.b), 0))

/-- `and` of the lanes (R134). -/
def execLaneAnd (w : LaneOp) (s : State) := bitWord (.laneAnd w) w s (fun a b => a &&& b)
/-- `or` of the lanes (R134). -/
def execLaneOr (w : LaneOp) (s : State) := bitWord (.laneOr w) w s (fun a b => a ||| b)
/-- `xor` of the lanes (R134). -/
def execLaneXor (w : LaneOp) (s : State) := bitWord (.laneXor w) w s (fun a b => a ^^^ b)
/-- `not` (R134). -/
def execNot (w : LaneOp) (s : State) := bitWord (.not w) w s (fun a _ => ~~~a)

/-- A word of A and one 32-bit register B: shifts and fields (R134, R135). -/
def shiftWord (i : Instr) (w : LaneOp) (s : State) (f : Word64 → Nat → Word64) : Host.Outcome State Fault Refusal :=
  let wide := w.typ.is64
  fixedWord i w.d wide s (fun t j => (f (readOperand s s.cur t j wide w.a) (readOperand s s.cur t j false w.b).toNat, 0))

/-- `shl` of the lanes (R134). -/
def execLaneShl (w : LaneOp) (s : State) :=
  shiftWord (.laneShl w) w s (fun a n => BitVec.ofNat 64 (a.toNat * 2 ^ (n % LType.width w.typ)))
/-- `shr` of the lanes (R134). -/
def execLaneShr (w : LaneOp) (s : State) := shiftWord (.laneShr w) w s (fun a n => a >>> (n % LType.width w.typ))
/-- `sra` of the lanes (R134). -/
def execLaneSra (w : LaneOp) (s : State) :=
  shiftWord (.laneSra w) w s (fun a n =>
    BitVec.ofInt 64 (signedOf (LType.width w.typ) a.toNat / 2 ^ (n % LType.width w.typ)))

/-- `popc` of the lanes (R135). -/
def execLanePopc (w : LaneOp) (s : State) := bitWord (.lanePopc w) w s (fun a _ => BitVec.ofNat 64 (popcount a))
/-- `clz` of the lanes (R135). -/
def execLaneClz (w : LaneOp) (s : State) :=
  bitWord (.laneClz w) w s (fun a _ => BitVec.ofNat 64 (leadingZeros (LType.width w.typ) a.toNat))

/-- The field that `bfe` extracts (R135). -/
def extractField (t : LType) (a : Nat) (pos len : Nat) : Int :=
  let x : Int := if LType.signed t then signedOf (LType.width t) a else (a % 2 ^ LType.width t : Nat)
  let f := bitsOfInt len (x / 2 ^ pos)
  if len = 0 then 0 else if LType.signed t then signedOf len f else f

/-- `bfe` (R135). -/
def execBfe (w : LaneOp) (s : State) :=
  shiftWord (.bfe w) w s (fun a n => intRaw w.typ (wrapTo w.typ (extractField w.typ a.toNat (n % 256) (n / 256 % 256))))

/-- The value that `bfi` writes: bits pos to pos + len − 1 of A replaced by the low bits of B (R135). -/
def insertField (width a b pos len : Nat) : Nat :=
  let n := min len (width - pos)
  if width ≤ pos then a % 2 ^ width
  else a % 2 ^ width - bitsOf a (pos + n - 1) pos * 2 ^ pos * (if n = 0 then 0 else 1) + b % 2 ^ n * 2 ^ pos

/-- `bfi` (R135). -/
def execBfi (w : LaneOp) (s : State) :=
  let wide := w.typ.is64
  fixedWord (.bfi w) w.d wide s (fun t j =>
    let c := (readOperand s s.cur t j false w.c).toNat
    (BitVec.ofNat 64 (insertField (LType.width w.typ) (readOperand s s.cur t j wide w.a).toNat
      (readOperand s s.cur t j wide w.b).toNat (c % 256) (c / 256 % 256)), 0))

/-- `mov` (R136): narrow integers are extended, everything else is copied bit for bit. -/
def execMov (w : LaneOp) (s : State) :=
  bitWord (.mov w) w s (fun a _ => if intAll.contains w.typ then intRaw w.typ (intOf w.typ a) else a)

/-- `movs` (R136). -/
def execMovs (w : LaneOp) (s : State) :=
  fixedWord (.movs w) w.d w.typ.is64 s (fun t j =>
    (s.cur.readS (BitVec.ofNat 6 (readOperand s s.cur t j false w.a).toNat), 0))

/-- `li` of the lanes (R137). -/
def execLaneLi (w : LiOp) (s : State) : Host.Outcome State Fault Refusal :=
  fixedWord (.laneLi w) w.d false s (fun _ _ => (w.imm.zeroExtend 64, 0))

end Sys2Proof.Machine
end

