-- ==== Sys2Proof/Machine/Float.lean ====
section
/-! DEFINITION. Floating point: formats, exact values, the one rounding, and the operations of R139 to R141 (R44 to R46, R52 to
R58). -/

namespace Sys2Proof.Machine

/-- A floating-point format (R44): the exponent and mantissa widths, the all-ones exponent being special or not (R45). -/
structure Fmt where
  width : Nat
  ebits : Nat
  mbits : Nat
  bias : Nat
  /-- 0 as IEEE, 1 as e4m3, 2 as e3m2. -/
  kind : Nat
  nan : Nat
  deriving DecidableEq, Repr

def fmtF32 : Fmt := { width := 32, ebits := 8, mbits := 23, bias := 127, kind := 0, nan := 0x7FC00000 }
def fmtF16 : Fmt := { width := 16, ebits := 5, mbits := 10, bias := 15, kind := 0, nan := 0x7E00 }
def fmtBf16 : Fmt := { width := 16, ebits := 8, mbits := 7, bias := 127, kind := 0, nan := 0x7FC0 }
def fmtE4m3 : Fmt := { width := 8, ebits := 4, mbits := 3, bias := 7, kind := 1, nan := 0x7F }
def fmtE5m2 : Fmt := { width := 8, ebits := 5, mbits := 2, bias := 15, kind := 0, nan := 0x7E }
def fmtE3m2 : Fmt := { width := 6, ebits := 3, mbits := 2, bias := 3, kind := 2, nan := 0 }

/-- Flush-to-zero acts on f32, f16 and bf16 alone (R54). -/
def Fmt.flushes (f : Fmt) : Bool := decide (16 ≤ f.width)

/-- A datum: a NaN (signalling or not), an infinity, or ±m × 2^e. -/
inductive FVal where
  | nan (snan : Bool)
  | inf (neg : Bool)
  | fin (neg : Bool) (m : Nat) (e : Int)
  deriving DecidableEq, Repr

/-- Exponent of the smallest subnormal (R44). -/
def Fmt.qmin (f : Fmt) : Int := 1 - f.bias - f.mbits

/-- The datum of a bit pattern (R44, R45). -/
def Fmt.decode (f : Fmt) (x : Nat) : FVal :=
  let neg := bitOf x (f.width - 1)
  let e := bitsOf x (f.width - 2) f.mbits
  let m := x % 2 ^ f.mbits
  if f.kind = 0 && e == 2 ^ f.ebits - 1 then
    if m = 0 then .inf neg else .nan (!bitOf x (f.mbits - 1))
  else if f.kind = 1 && e == 15 && m == 7 then .nan false
  else if e = 0 then .fin neg m f.qmin
  else .fin neg (m + 2 ^ f.mbits) ((e : Int) - f.bias - f.mbits)

/-- A subnormal pattern. -/
def Fmt.subnormal (f : Fmt) (x : Nat) : Bool :=
  bitsOf x (f.width - 2) f.mbits == 0 && x % 2 ^ f.mbits != 0

/-- An operand as read: flush, magnitude, negation, in this order (R138). -/
def Fmt.read (f : Fmt) (ftz absb negb : Bool) (x : Nat) : Nat :=
  let top := 2 ^ (f.width - 1)
  let x := x % 2 ^ f.width
  let x := if ftz && f.flushes && f.subnormal x then x / top * top else x
  let x := if absb then x % top else x
  if negb then (if x < top then x + top else x - top) else x

/-- ±m × 2^e rounded to a multiple of 2^q, as a count of them, and whether that is inexact (R52). -/
def roundAt (mode : Nat) (neg : Bool) (m : Nat) (e q : Int) : Nat × Bool :=
  if q ≤ e then (m * 2 ^ (e - q).toNat, false)
  else
    let k := (q - e).toNat
    let n := m / 2 ^ k
    let r := m % 2 ^ k
    let up := match mode with
      | 0 => decide (2 ^ k < 2 * r) || (2 * r == 2 ^ k && n % 2 == 1)
      | 1 => false
      | 2 => neg && r != 0
      | _ => !neg && r != 0
    (if up then n + 1 else n, r != 0)

/-- Largest finite value, as a pattern without sign (R44). -/
def Fmt.maxBits (f : Fmt) : Nat :=
  match f.kind with
  | 0 => (2 ^ f.ebits - 1) * 2 ^ f.mbits - 1
  | 1 => 0x7E
  | _ => 0x1F

/-- The largest finite value as m × 2^e. -/
def Fmt.maxVal (f : Fmt) : Nat × Int :=
  match f.decode f.maxBits with
  | .fin _ m e => (m, e)
  | _ => (0, 0)

/-- The sign bit of a format. -/
def Fmt.signBit (f : Fmt) (neg : Bool) : Nat := if neg then 2 ^ (f.width - 1) else 0

/-- The pattern of an infinity (R45). -/
def Fmt.infBits (f : Fmt) (neg : Bool) : Nat := f.signBit neg + (2 ^ f.ebits - 1) * 2 ^ f.mbits

/-- The pattern of n × 2^q, a value of the format, n at most 2^(mbits + 1). -/
def Fmt.encode (f : Fmt) (neg : Bool) (n : Nat) (q : Int) : Nat :=
  let (n, q) := if n = 2 ^ (f.mbits + 1) then (2 ^ f.mbits, q + 1) else (n, q)
  f.signBit neg + (if n < 2 ^ f.mbits then n else (q + f.bias + f.mbits).toNat * 2 ^ f.mbits + (n - 2 ^ f.mbits))

/-- m × 2^e exceeds n × 2^q. -/
def above (m : Nat) (e : Int) (n : Nat) (q : Int) : Bool :=
  let k := min e q
  decide (n * 2 ^ (q - k).toNat < m * 2 ^ (e - k).toNat)

/-- What an overflow writes (R56). -/
def Fmt.overflow (f : Fmt) (mode : Nat) (sat neg : Bool) : Nat :=
  let toward := mode == 1 || (mode == 2 && !neg) || (mode == 3 && neg)
  if sat || toward || f.kind == 2 then f.signBit neg + f.maxBits
  else if f.kind == 1 then f.nan
  else f.infBits neg

/-- The one rounding of an exact value to a format, with its status (R53 to R56). [DEDUCED, log entry 80] -/
def Fmt.round (f : Fmt) (mode : Nat) (sat ftz neg : Bool) (m : Nat) (e : Int) : Nat × BitVec 7 :=
  if m = 0 then (f.signBit neg, 0)
  else
    let q := e + Nat.log2 m - f.mbits
    let u := roundAt mode neg m e q
    let tiny := above 1 (1 - f.bias) u.1 q
    if above u.1 q f.maxVal.1 f.maxVal.2 then (f.overflow mode sat neg, stOF ||| stNX)
    else if tiny && ftz && f.flushes then (f.signBit neg, stUF ||| stNX)
    else
      let p := max q f.qmin
      let r := roundAt mode neg m e p
      (f.encode neg r.1 p, (if r.2 then stNX else 0) ||| (if tiny && r.2 then stUF else 0))

/-- The exact result of an operation: a NaN, an infinity or a value. `nv` and `fdz` are status it sets. -/
inductive FRes where
  | nan (nv : Bool)
  | inf (neg fdz : Bool)
  | fin (neg : Bool) (m : Nat) (e : Int)
  deriving DecidableEq, Repr

/-- A result written to a format (R46, R53, R55, R56). [DEDUCED, log entry 80] -/
def Fmt.write (f : Fmt) (mode : Nat) (sat ftz : Bool) (r : FRes) : Nat × BitVec 7 :=
  match r with
  | .nan nv => (f.nan, if nv then stNV else 0)
  | .inf neg fdz => (f.infBits neg, if fdz then stFDZ else 0)
  | .fin neg m e => f.round mode sat ftz neg m e

def FVal.isNan : FVal → Bool
  | .nan _ => true
  | _ => false
def FVal.isSnan : FVal → Bool
  | .nan s => s
  | _ => false

/-- A signed value from ±m. -/
def signedInt (neg : Bool) (m : Nat) : Int := if neg then -(m : Int) else m

/-- The exact sum of two finite values; the sign of an exact zero by R139. -/
def addExact (down : Bool) (n1 : Bool) (m1 : Nat) (e1 : Int) (n2 : Bool) (m2 : Nat) (e2 : Int) : FRes :=
  let e := min e1 e2
  let t := signedInt n1 (m1 * 2 ^ (e1 - e).toNat) + signedInt n2 (m2 * 2 ^ (e2 - e).toNat)
  if t = 0 then .fin (if m1 = 0 && m2 = 0 && n1 == n2 then n1 else down) 0 0
  else .fin (decide (t < 0)) t.natAbs e

/-- a + b (R139). `down` is RD. -/
def fpAdd (down : Bool) (a b : FVal) : FRes :=
  match a, b with
  | .fin n1 m1 e1, .fin n2 m2 e2 => addExact down n1 m1 e1 n2 m2 e2
  | .inf n1, .inf n2 => if n1 == n2 then .inf n1 false else .nan true
  | .inf n, .fin _ _ _ => .inf n false
  | .fin _ _ _, .inf n => .inf n false
  | x, y => .nan (x.isSnan || y.isSnan)

/-- a × b (R139). -/
def fpMul (a b : FVal) : FRes :=
  match a, b with
  | .fin n1 m1 e1, .fin n2 m2 e2 => .fin (n1 != n2) (m1 * m2) (e1 + e2)
  | .inf n1, .inf n2 => .inf (n1 != n2) false
  | .inf n1, .fin n2 m _ => if m = 0 then .nan true else .inf (n1 != n2) false
  | .fin n1 m _, .inf n2 => if m = 0 then .nan true else .inf (n1 != n2) false
  | x, y => .nan (x.isSnan || y.isSnan)

/-- a × b + c, with a × b as one term (R139). -/
def fpFma (down : Bool) (a b c : FVal) : FRes :=
  match fpMul a b with
  | .nan nv => .nan (nv || c.isSnan)
  | .inf n _ => fpAdd down (.inf n) c
  | .fin n m e => fpAdd down (.fin n m e) c

/-- A quotient m1 ÷ m2 as a value with at least 64 bits; its last bit is 1 when bits were left out, so that one rounding of
it is the rounding of the quotient. -/
def quotient (neg : Bool) (m1 : Nat) (e1 : Int) (m2 : Nat) (e2 : Int) : FRes :=
  let k := 70 + Nat.log2 m2
  let n := m1 * 2 ^ k
  .fin neg (2 * (n / m2) + (if n % m2 = 0 then 0 else 1)) (e1 - e2 - k - 1)

/-- a / b (R139). -/
def fpDiv (a b : FVal) : FRes :=
  match a, b with
  | .fin n1 m1 e1, .fin n2 m2 e2 =>
    if m2 = 0 then (if m1 = 0 then .nan true else .inf (n1 != n2) true)
    else if m1 = 0 then .fin (n1 != n2) 0 0
    else quotient (n1 != n2) m1 e1 m2 e2
  | .inf _, .inf _ => .nan true
  | .inf n1, .fin n2 _ _ => .inf (n1 != n2) false
  | .fin n1 _ _, .inf n2 => .fin (n1 != n2) 0 0
  | x, y => .nan (x.isSnan || y.isSnan)

/-- The integer square root, one binary digit a step from bit `k` down. -/
def isqrtFrom (n r : Nat) : (k : Nat) → Nat
  | 0 => if (r + 1) * (r + 1) ≤ n then r + 1 else r
  | k + 1 => isqrtFrom n (if (r + 2 ^ (k + 1)) * (r + 2 ^ (k + 1)) ≤ n then r + 2 ^ (k + 1) else r) k

def isqrt (n : Nat) : Nat := isqrtFrom n 0 (Nat.log2 n / 2 + 1)

/-- An even exponent not above e, and the mantissa for it. -/
def evenExp (m : Nat) (e : Int) : Nat × Int := if e % 2 = 0 then (m, e) else (2 * m, e - 1)

/-- √a (R139). -/
def fpSqrt (a : FVal) : FRes :=
  match a with
  | .nan s => .nan s
  | .inf neg => if neg then .nan true else .inf false false
  | .fin neg m e =>
    if m = 0 then .fin neg 0 0
    else if neg then .nan true
    else
      let x := evenExp m e
      let n := x.1 * 2 ^ 120
      let r := isqrt n
      .fin false (2 * r + (if r * r = n then 0 else 1)) (x.2 / 2 - 61)

/-- 1 / a (R140). -/
def fpRcp (a : FVal) : FRes :=
  match a with
  | .nan s => .nan s
  | .inf neg => .fin neg 0 0
  | .fin neg m e => if m = 0 then .inf neg true else quotient neg 1 0 m e

/-- 1 / √a (R140). -/
def fpRsq (a : FVal) : FRes :=
  match a with
  | .nan s => .nan s
  | .inf neg => if neg then .nan true else .fin false 0 0
  | .fin neg m e =>
    if m = 0 then .inf neg true
    else if neg then .nan true
    else
      let x := evenExp m e
      let n := 2 ^ 240 / x.1
      let r := isqrt n
      .fin false (2 * r + (if r * r * x.1 = 2 ^ 240 then 0 else 1)) (-(x.2 / 2) - 121)

/-- Patterns in the order of `fmin` and `fmax`, −0 below +0 (R141). -/
def Fmt.order (f : Fmt) (x : Nat) : Int := if bitOf x (f.width - 1) then -(x % 2 ^ (f.width - 1) : Nat) - 1 else x

/-- Patterns in numeric order, −0 equal to +0 (R156). -/
def Fmt.numeric (f : Fmt) (x : Nat) : Int := if bitOf x (f.width - 1) then -(x % 2 ^ (f.width - 1) : Nat) else x

/-- The minimum, or the maximum, of two patterns (R141). -/
def Fmt.minMax (f : Fmt) (isMax : Bool) (x y : Nat) : Nat × BitVec 7 :=
  let a := f.decode x
  let b := f.decode y
  let st := if a.isSnan || b.isSnan then stNV else 0
  let v := match a.isNan, b.isNan with
    | true, true => f.nan
    | true, false => y
    | false, true => x
    | false, false => if (f.order x < f.order y) == isMax then y else x
  (v, st)

/-- A number rounded to an integer in a mode, and whether that is inexact (R57). -/
def toInteger (mode : Nat) (neg : Bool) (m : Nat) (e : Int) : Int × Bool :=
  let r := roundAt mode neg m e 0
  (signedInt neg r.1, r.2)

end Sys2Proof.Machine
end

