-- ==== Sys2Proof/Machine/Transcendental.lean ====
section
/-! DEFINITION. `fex2`, `flg2`, `fsin`, `fcos` and `ftanh` (R138, R142). The manual asks for the correctly rounded value of the
exact function; it is computed here to 400 fraction bits with a last bit of 1 for what is left out [DEDUCED, log entry 22]. -/

namespace Sys2Proof.Machine

/-- Fraction bits of the fixed-point values below. -/
def fixBits : Nat := 400
def fixOne : Nat := 2 ^ 400

/-- ⌊π × 2^640⌋. -/
def piBits : Nat :=
  0x3243f6a8885a308d313198a2e03707344a4093822299f31d0082efa98ec4e6c89452821e638d01377be5466cf34e90c6cc0ac29b7c97c50dd3f84d5b5b54709179216d5d98979fb1bd1310ba698dfb5ac

/-- ⌊ln 2 × 2^448⌋. -/
def ln2Bits : Nat :=
  0xb17217f7d1cf79abc9e3b39803f2f6af40f343267298b62d8a0d175b8baafa2be7b876206debac98559552fb4afa1b10ed2eae35c1382144

/-- e^t for 0 ≤ t < 1 by its series, from the term of index `n` inwards. -/
def expSeries (t : Nat) : (n : Nat) → Nat → Nat
  | 0, acc => acc
  | n + 1, acc => expSeries t n (fixOne + t * acc / (fixOne * (n + 1)))

/-- 1 − y/(2·3) + …, whose product with r is sin r, for y = r². -/
def sinSeries (y : Nat) : (n : Nat) → Nat → Nat
  | 0, acc => acc
  | n + 1, acc => sinSeries y n (fixOne - y * acc / (fixOne * ((2 * n + 2) * (2 * n + 3))))

/-- cos r for y = r². -/
def cosSeries (y : Nat) : (n : Nat) → Nat → Nat
  | 0, acc => acc
  | n + 1, acc => cosSeries y n (fixOne - y * acc / (fixOne * ((2 * n + 1) * (2 * n + 2))))

/-- 1 + y/3 + y²/5 + …, whose product with z is artanh z, for y = z². -/
def artanhSeries (y : Nat) : (n : Nat) → Nat → Nat
  | 0, acc => acc
  | n + 1, acc => artanhSeries y n (fixOne / (2 * n + 1) + y * acc / fixOne)

/-- A value of 400 fraction bits that is not exact. -/
def inexactFix (neg : Bool) (n : Nat) (k : Int) : FRes := .fin neg (2 * n + 1) (k - 401)

/-- |x| below 2^−60. -/
def smallArg (m : Nat) (e : Int) : Bool := decide (e + Nat.log2 m < -60)

/-- A value just below ±m × 2^e. -/
def justBelow (neg : Bool) (m : Nat) (e : Int) : FRes := .fin neg (m * 2 ^ 120 - 1) (e - 120)

/-- 2^a of a finite a (R142). -/
def exp2Fin (neg : Bool) (m : Nat) (e : Int) : FRes :=
  if 0 ≤ e || m % 2 ^ (-e).toNat == 0 then
    let n := if 0 ≤ e then m * 2 ^ (min e 12).toNat else m / 2 ^ (-e).toNat
    .fin false 1 (signedInt neg (min n 1000))
  else
    let k := signedInt neg m / 2 ^ (-e).toNat
    if 200 ≤ k then .fin false 3 300
    else if k < -400 then .fin false 3 (-1000)
    else
      let f := (signedInt neg m % 2 ^ (-e).toNat).toNat * 2 ^ (400 - (-e).toNat)
      inexactFix false (expSeries (f * ln2Bits / 2 ^ 448) 90 fixOne) k

/-- log2 of m × 2^e, m > 0 (R142). -/
def log2Fin (m : Nat) (e : Int) : FRes :=
  let j := Nat.log2 m
  if m = 2 ^ j then .fin (decide (e + j < 0)) (e + j).natAbs 0
  else
    let j := if 2 ^ (2 * j + 1) < m * m then j + 1 else j
    let z := ((m : Int) - 2 ^ j) * fixOne / (m + 2 ^ j)
    let y := (z * z / fixOne).toNat
    let t := (e + j) * fixOne + 2 * z * artanhSeries y 90 0 / fixOne * 2 ^ 448 / ln2Bits
    inexactFix (decide (t < 0)) t.natAbs 0

/-- The quadrant and the remainder of |x| modulo π/2, for |x| of at least 2^−60 (R138: no error of argument reduction). -/
def reduceArg (m : Nat) (e : Int) : Nat × Int :=
  let x := m * 2 ^ (e + 640).toNat
  let h := piBits / 2
  let q := (x + h / 2) / h
  (q % 4, ((x : Int) - q * h) / 2 ^ 240)

/-- sin and cos of a remainder. -/
def sinFix (r : Int) : Int := r * sinSeries (r * r / fixOne).toNat 45 fixOne / fixOne
def cosFix (r : Int) : Int := cosSeries (r * r / fixOne).toNat 45 fixOne

def signedFix (x : Int) : FRes := inexactFix (decide (x < 0)) x.natAbs 0

/-- sin of a finite non-zero value. -/
def sinFin (neg : Bool) (m : Nat) (e : Int) : FRes :=
  if smallArg m e then justBelow neg m e
  else
    let (q, r) := reduceArg m e
    let v := match q with | 0 => sinFix r | 1 => cosFix r | 2 => -sinFix r | _ => -cosFix r
    signedFix (if neg then -v else v)

/-- cos of a finite non-zero value. -/
def cosFin (m : Nat) (e : Int) : FRes :=
  if smallArg m e then justBelow false 1 0
  else
    let (q, r) := reduceArg m e
    signedFix (match q with | 0 => cosFix r | 1 => -sinFix r | 2 => -cosFix r | _ => sinFix r)

/-- tanh of a finite non-zero value. -/
def tanhFin (neg : Bool) (m : Nat) (e : Int) : FRes :=
  if smallArg m e then justBelow neg m e
  else if 6 ≤ e + Nat.log2 m then justBelow neg 1 0
  else
    let x := m * 2 ^ (e + 449).toNat
    let k := x / ln2Bits
    let t := x % ln2Bits / 2 ^ 48
    let p := expSeries t 90 fixOne * 2 ^ k
    inexactFix neg ((p - fixOne) * fixOne / (p + fixOne)) 0

/-- `fex2` (R142). [DEDUCED, log entry 22] -/
def fpEx2 (a : FVal) : FRes :=
  match a with
  | .nan s => .nan s
  | .inf neg => if neg then .fin false 0 0 else .inf false false
  | .fin neg m e => if m = 0 then .fin false 1 0 else exp2Fin neg m e

/-- `flg2` (R142). [DEDUCED, log entry 22] -/
def fpLg2 (a : FVal) : FRes :=
  match a with
  | .nan s => .nan s
  | .inf neg => if neg then .nan true else .inf false false
  | .fin neg m e => if m = 0 then .inf true true else if neg then .nan true else log2Fin m e

/-- `fsin` (R142). [DEDUCED, log entry 22] -/
def fpSin (a : FVal) : FRes :=
  match a with
  | .nan s => .nan s
  | .inf _ => .nan true
  | .fin neg m e => if m = 0 then .fin neg 0 0 else sinFin neg m e

/-- `fcos` (R142). [DEDUCED, log entry 22] -/
def fpCos (a : FVal) : FRes :=
  match a with
  | .nan s => .nan s
  | .inf _ => .nan true
  | .fin _ m e => if m = 0 then .fin false 1 0 else cosFin m e

/-- `ftanh` (R142). [DEDUCED, log entry 22] -/
def fpTanh (a : FVal) : FRes :=
  match a with
  | .nan s => .nan s
  | .inf neg => .fin neg 1 0
  | .fin neg m e => if m = 0 then .fin neg 0 0 else tanhFin neg m e

end Sys2Proof.Machine
end

