-- ==== Sys2Proof/Machine/LaneFloat.lean ====
section
/-! DEFINITION. The FP32 and packed 16-bit words (R138 to R143). -/

namespace Sys2Proof.Machine

/-- mod8 bits 7:6 (R52). -/
def LaneOp.mode (w : LaneOp) : Nat := (w.mod.extractLsb' 6 2).toNat
/-- `.ftz` (R54). -/
def LaneOp.ftz (w : LaneOp) : Bool := w.mod.getLsbD 0

/-- The operands A, B and C of a format, read by the three steps of R138, from 32-bit register values. -/
def floatA (f : Fmt) (w : LaneOp) (x : Nat) : Nat := f.read (LaneOp.ftz w) (w.mod.getLsbD 3) (w.mod.getLsbD 4) x
def floatB (f : Fmt) (w : LaneOp) (x : Nat) : Nat := f.read (LaneOp.ftz w) (w.mod.getLsbD 1) (w.mod.getLsbD 2) x
def floatC (f : Fmt) (w : LaneOp) (x : Nat) : Nat := f.read (LaneOp.ftz w) false false x

/-- A word whose result in a lane is a function of three 32-bit patterns. -/
def patternWord (i : Instr) (w : LaneOp) (s : State) (f : Nat → Nat → Nat → Nat × BitVec 7) :
    Host.Outcome State Fault Refusal :=
  fixedWord i w.d false s (fun t j =>
    let rd := fun o => (readOperand s s.cur t j false o).toNat
    let r := f (rd w.a) (rd w.b) (rd w.c)
    (BitVec.ofNat 64 r.1, r.2))

/-- An operation of one format on patterns: read, computed exactly, rounded once. -/
def floatOp (f : Fmt) (w : LaneOp) (op : FVal → FVal → FVal → FRes) (x y z : Nat) : Nat × BitVec 7 :=
  f.write (LaneOp.mode w) (LaneOp.sat w) (LaneOp.ftz w)
    (op (f.decode (floatA f w x)) (f.decode (floatB f w y)) (f.decode (floatC f w z)))

/-- An f word. -/
def fWord (i : Instr) (w : LaneOp) (s : State) (op : FVal → FVal → FVal → FRes) : Host.Outcome State Fault Refusal :=
  patternWord i w s (floatOp fmtF32 w op)

/-- The other sign (R139). -/
def FVal.neg : FVal → FVal
  | .nan s => .nan s
  | .inf n => .inf (!n)
  | .fin n m e => .fin (!n) m e

/-- The rounding mode is RD, which decides the sign of an exact zero sum (R139). -/
def LaneOp.down (w : LaneOp) : Bool := LaneOp.mode w == 2

/-- `fadd` (R139). -/
def execFadd (w : LaneOp) (s : State) := fWord (.fadd w) w s (fun a b _ => fpAdd (LaneOp.down w) a b)
/-- `fsub` (R139). -/
def execFsub (w : LaneOp) (s : State) := fWord (.fsub w) w s (fun a b _ => fpAdd (LaneOp.down w) a (FVal.neg b))
/-- `fmul` (R139). -/
def execFmul (w : LaneOp) (s : State) := fWord (.fmul w) w s (fun a b _ => fpMul a b)
/-- `ffma` (R139). -/
def execFfma (w : LaneOp) (s : State) := fWord (.ffma w) w s (fun a b c => fpFma (LaneOp.down w) a b c)
/-- `fmin` (R141). -/
def execFmin (w : LaneOp) (s : State) :=
  patternWord (.fmin w) w s (fun x y _ => fmtF32.minMax false (floatA fmtF32 w x) (floatB fmtF32 w y))
/-- `fmax` (R141). -/
def execFmax (w : LaneOp) (s : State) :=
  patternWord (.fmax w) w s (fun x y _ => fmtF32.minMax true (floatA fmtF32 w x) (floatB fmtF32 w y))
/-- `fdiv` (R139). -/
def execFdiv (w : LaneOp) (s : State) := fWord (.fdiv w) w s (fun a b _ => fpDiv a b)
/-- `fsqrt` (R139). -/
def execFsqrt (w : LaneOp) (s : State) := fWord (.fsqrt w) w s (fun a _ _ => fpSqrt a)
/-- `frcp` (R140). -/
def execFrcp (w : LaneOp) (s : State) := fWord (.frcp w) w s (fun a _ _ => fpRcp a)
/-- `frsq` (R140). -/
def execFrsq (w : LaneOp) (s : State) := fWord (.frsq w) w s (fun a _ _ => fpRsq a)
/-- `fex2` (R142). -/
def execFex2 (w : LaneOp) (s : State) := fWord (.fex2 w) w s (fun a _ _ => fpEx2 a)
/-- `flg2` (R142). -/
def execFlg2 (w : LaneOp) (s : State) := fWord (.flg2 w) w s (fun a _ _ => fpLg2 a)
/-- `fsin` (R142). -/
def execFsin (w : LaneOp) (s : State) := fWord (.fsin w) w s (fun a _ _ => fpSin a)
/-- `fcos` (R142). -/
def execFcos (w : LaneOp) (s : State) := fWord (.fcos w) w s (fun a _ _ => fpCos a)
/-- `ftanh` (R142). -/
def execFtanh (w : LaneOp) (s : State) := fWord (.ftanh w) w s (fun a _ _ => fpTanh a)

/-- The element format of a packed type (R47). -/
def packedFmt (t : LType) : Fmt := if t == .f16x2 then fmtF16 else fmtBf16

/-- Two elements, each computed in its own format (R47, R143). -/
def packed (op : Nat → Nat → Nat → Nat × BitVec 7) (x y z : Nat) : Nat × BitVec 7 :=
  let lo := op (x % 65536) (y % 65536) (z % 65536)
  let hi := op (x / 65536) (y / 65536) (z / 65536)
  (lo.1 + 65536 * hi.1, lo.2 ||| hi.2)

/-- An h word. -/
def hWord (i : Instr) (w : LaneOp) (s : State) (op : FVal → FVal → FVal → FRes) : Host.Outcome State Fault Refusal :=
  patternWord i w s (packed (floatOp (packedFmt w.typ) w op))

/-- `hadd` (R143). -/
def execHadd (w : LaneOp) (s : State) := hWord (.hadd w) w s (fun a b _ => fpAdd (LaneOp.down w) a b)
/-- `hmul` (R143). -/
def execHmul (w : LaneOp) (s : State) := hWord (.hmul w) w s (fun a b _ => fpMul a b)
/-- `hfma` (R143). -/
def execHfma (w : LaneOp) (s : State) := hWord (.hfma w) w s (fun a b c => fpFma (LaneOp.down w) a b c)

/-- The minimum or maximum of two elements (R143). -/
def hMinMax (w : LaneOp) (isMax : Bool) (x y _z : Nat) : Nat × BitVec 7 :=
  (packedFmt w.typ).minMax isMax (floatA (packedFmt w.typ) w x) (floatB (packedFmt w.typ) w y)

/-- `hmin` (R143). -/
def execHmin (w : LaneOp) (s : State) := patternWord (.hmin w) w s (packed (hMinMax w false))
/-- `hmax` (R143). -/
def execHmax (w : LaneOp) (s : State) := patternWord (.hmax w) w s (packed (hMinMax w true))

end Sys2Proof.Machine
end

