-- ==== Sys2Proof/Machine/LaneCvt.lean ====
section
/-! DEFINITION. Conversion, quantising and packing (R144 to R150), and the random-number word (R151, R152). -/

namespace Sys2Proof.Machine

/-- The format of a type or of its elements; none for integers. -/
def fmtOf (t : LType) : Option Fmt :=
  match t with
  | .f32 => some fmtF32 | .bf16x2 => some fmtBf16 | .f16x2 => some fmtF16
  | .e4m3 => some fmtE4m3 | .e5m2 => some fmtE5m2 | .e3m2 => some fmtE3m2
  | _ => none

/-- The pattern of an integer in its registers (R49). -/
def intBits (t : LType) (x : Int) : Nat := (intRaw t x).toNat

/-- A floating-point datum converted to an integer type (R57). -/
def toInt (dst : LType) (mode : Nat) (v : FVal) : Nat × BitVec 7 :=
  match v with
  | .nan _ => (0, stNV)
  | .inf neg => (intBits dst (if neg then intMin dst else intMax dst), stNV)
  | .fin neg m e =>
    let r := toInteger mode neg m e
    if r.1 < intMin dst || intMax dst < r.1 then (intBits dst (clampTo dst r.1), stNV)
    else (intBits dst r.1, if r.2 then stNX else 0)

/-- A floating-point datum converted to a floating-point format (R53, R55, R56). -/
def toFloat (f : Fmt) (mode : Nat) (sat ftz : Bool) (v : FVal) : Nat × BitVec 7 :=
  match v with
  | .nan s => (f.nan, if s || f.kind == 2 then stNV else 0)
  | .inf neg =>
    if f.kind == 1 then (if sat then f.signBit neg + f.maxBits else f.nan, stNV)
    else if sat || f.kind == 2 then (f.signBit neg + f.maxBits, stNX)
    else (f.infBits neg, 0)
  | .fin neg m e => f.round mode sat ftz neg m e

/-- One element converted (R146). -/
def convert (src dst : LType) (mode : Nat) (sat ftz : Bool) (x : Nat) : Nat × BitVec 7 :=
  match fmtOf src, fmtOf dst with
  | none, none => (intBits dst (fit dst sat (intOf src (BitVec.ofNat 64 x))), 0)
  | none, some f =>
    let n := intOf src (BitVec.ofNat 64 x)
    f.round mode sat ftz (decide (n < 0)) n.natAbs 0
  | some f, none => toInt dst mode (f.decode (f.read ftz false false x))
  | some f, some h => toFloat h mode sat ftz (f.decode (f.read ftz false false x))

/-- `cvt`: the roles of A and B by R145. -/
def execCvt (w : LaneOp) (s : State) : Host.Outcome State Fault Refusal :=
  let src := cvtSrc w
  let one := convert src w.typ (LaneOp.mode w) (LaneOp.sat w) (LaneOp.ftz w)
  fixedWord (.cvt w) w.d w.typ.is64 s (fun t j =>
    let a := (readOperand s s.cur t j src.is64 w.a).toNat
    let r := match src.packed, w.typ.packed with
      | false, false => one a
      | false, true =>
        let lo := one a
        let hi := one (readOperand s s.cur t j src.is64 w.b).toNat
        (lo.1 + 65536 * hi.1, lo.2 ||| hi.2)
      | true, false => one (if readOperand s s.cur t j false w.b = 0 then a % 65536 else a / 65536)
      | true, true =>
        let lo := one (a % 65536)
        let hi := one (a / 65536)
        (lo.1 + 65536 * hi.1, lo.2 ||| hi.2)
    (BitVec.ofNat 64 r.1, r.2))

/-- Element width of q4g and q3g (R50). -/
def qBits (t : LType) : Nat := if t == .q3g then 3 else 4

/-- An integer quotient of two positive dyadics rounded once, and whether it is inexact (R58). -/
def roundQuotient (mode : Nat) (neg : Bool) (m1 : Nat) (e1 : Int) (m2 : Nat) (e2 : Int) : Int × Bool :=
  let e := min e1 e2
  let n := m1 * 2 ^ (e1 - e).toNat
  let d := m2 * 2 ^ (e2 - e).toNat
  let q := n / d
  let r := n % d
  let up := match mode with
    | 0 => decide (d < 2 * r) || (2 * r == d && q % 2 == 1)
    | 1 => false
    | 2 => neg && r != 0
    | _ => !neg && r != 0
  (signedInt neg (if up then q + 1 else q), r != 0)

/-- The element of `qnt` (R58, R147). -/
def quantise (t : LType) (mode : Nat) (a c : FVal) : Int × BitVec 7 :=
  let hi : Int := 2 ^ (qBits t - 1) - 1
  let lo : Int := -(2 ^ (qBits t - 1))
  match a, c with
  | .nan _, _ => (0, stNV)
  | _, .nan _ => (0, stNV)
  | _, .inf _ => (0, stNV)
  | .inf n1, .fin n2 m _ => if m = 0 then (0, stNV) else (if n1 != n2 then lo else hi, stOF)
  | .fin n1 m1 e1, .fin n2 m2 e2 =>
    if m2 = 0 then (0, stNV)
    else
      let r := roundQuotient mode (n1 != n2) m1 e1 m2 e2
      (max lo (min hi r.1), (if r.2 then stNX else 0) ||| (if r.1 < lo || hi < r.1 then stOF else 0))

/-- `qnt` (R147). -/
def execQnt (w : LaneOp) (s : State) : Host.Outcome State Fault Refusal :=
  patternWord (.qnt w) w s (fun x y _ =>
    let rd := fun v => fmtF32.decode (fmtF32.read (LaneOp.ftz w) false false v)
    let r := quantise w.typ (LaneOp.mode w) (rd x) (rd y)
    (intBits .i32 r.1, r.2))

/-- `dqn` (R148). -/
def execDqn (w : LaneOp) (s : State) : Host.Outcome State Fault Refusal :=
  patternWord (.dqn w) w s (fun x y _ =>
    let k := signedOf (qBits w.typ) x
    let c := fmtBf16.decode (fmtBf16.read (LaneOp.ftz w) false false y)
    fmtF32.write (LaneOp.mode w) (LaneOp.sat w) (LaneOp.ftz w) (fpMul (.fin (decide (k < 0)) k.natAbs 0) c))

/-- A packing word: each active lane of an aligned set of `n` lanes gets the fields of `bits` bits of A of the set's active
lanes, lowest lane first (R149, R150). -/
def packWord (i : Instr) (w : LaneOp) (n bits : Nat) (s : State) : Host.Outcome State Fault Refusal :=
  laneWord i s (fun q =>
    let t := s.teamOf s.cur
    let field := fun j => if q.lanes.getLsbD j then (readOperand s s.cur t j false w.a).toNat % 2 ^ bits else 0
    let group := fun j => ((List.range n).map (fun k => field (j / n * n + k) * 2 ^ (bits * k))).foldl (· + ·) 0
    let vals := (lanesOf q.lanes).map (fun j => (j, BitVec.ofNat 64 (group j), (0 : BitVec 7)))
    s.landed q i ((landing s s.cur q i).values s.cur w.d false vals))

/-- `pk6` (R149). -/
def execPk6 (w : LaneOp) (s : State) : Host.Outcome State Fault Refusal := packWord (.pk6 w) w 4 6 s
/-- `pk4` (R150). -/
def execPk4 (w : LaneOp) (s : State) : Host.Outcome State Fault Refusal := packWord (.pk4 w) w 8 (qBits w.typ) s

/-- `up6` (R149). -/
def execUp6 (w : LaneOp) (s : State) : Host.Outcome State Fault Refusal :=
  fixedWord (.up6 w) w.d false s (fun t j =>
    let a := (readOperand s s.cur t j false w.a).toNat
    (BitVec.ofNat 64 (a / 2 ^ (6 * (j % 4)) % 64), 0))

/-- `up4` (R150). -/
def execUp4 (w : LaneOp) (s : State) : Host.Outcome State Fault Refusal :=
  fixedWord (.up4 w) w.d false s (fun t j =>
    let a := (readOperand s s.cur t j false w.a).toNat
    (intRaw .i32 (signedOf (qBits w.typ) (a / 2 ^ (qBits w.typ * (j % 8)))), 0))

/-- The first five steps, which are those of Weevil16 (R151). -/
def weevilMix (v : Word32) : Word32 :=
  let v := v * 0x5A1C7E33
  let v := v ^^^ (v >>> 16)
  let v := v * 0x3B960D4F
  v ^^^ (v >>> 15)

/-- Weevil32 (R151). -/
def weevil32 (key : Word32) (ctr : Word64) : Word32 :=
  let v := weevilMix (ctr.extractLsb' 0 32 ^^^ key)
  let v := v ^^^ (ctr.extractLsb' 32 32 * 0x2C1B3C6D)
  let v := v * 0x5A1C7E33
  v ^^^ (v >>> 16)

/-- `rng` (R152). -/
def execRng (w : LaneOp) (s : State) : Host.Outcome State Fault Refusal :=
  fixedWord (.rng w) w.d false s (fun t j =>
    let v := weevil32 ((readOperand s s.cur t j false w.b).truncate 32) (readOperand s s.cur t j true w.a)
    (if w.typ == .f32 then BitVec.ofNat 64 (fmtF32.round 0 false false false (v.toNat / 256) (-24)).1
     else v.zeroExtend 64, 0))

end Sys2Proof.Machine
end

