-- ==== Sys2Proof/Machine/LaneMask.lean ====
section
/-! DEFINITION. Masks from lanes, selection, and lane status words (R153 to R158, R166). -/

namespace Sys2Proof.Machine

/-- The mask that a word names in D (R153). -/
def destMask (o : Operand) : Nat := match o with | .mrf n => n.toNat % 16 | _ => 0

/-- A condition on two ordered values (R81). -/
def condOf (mod : Nat) (x y : Int) : Bool :=
  match mod with
  | 0 => x == y
  | 1 => x != y
  | 2 => decide (x < y)
  | 3 => decide (x ≤ y)
  | 4 => decide (y < x)
  | 5 => decide (y ≤ x)
  | 6 => true
  | _ => false

/-- `icmp` (R155). -/
def execIcmp (w : LaneOp) (s : State) : Host.Outcome State Fault Refusal :=
  maskWord (.icmp w) (destMask w.d) s (fun t j =>
    let rd := fun o => intOf w.typ (readOperand s s.cur t j w.typ.is64 o)
    (condOf w.mod.toNat (rd w.a) (rd w.b), 0))

/-- A comparison of two f32 patterns (R156). -/
def fpCompare (mod x y : Nat) : Bool × BitVec 7 :=
  let a := fmtF32.decode x
  let b := fmtF32.decode y
  if a.isNan || b.isNan then
    (mod == 1 || mod == 7, if a.isSnan || b.isSnan || (decide (2 ≤ mod) && decide (mod ≤ 5)) then stNV else 0)
  else (condOf mod (fmtF32.numeric x) (fmtF32.numeric y), 0)

/-- `fcmp` (R155, R156). -/
def execFcmp (w : LaneOp) (s : State) : Host.Outcome State Fault Refusal :=
  maskWord (.fcmp w) (destMask w.d) s (fun t j =>
    let rd := fun o => (readOperand s s.cur t j false o).toNat
    fpCompare w.mod.toNat (rd w.a) (rd w.b))

/-- `sel` (R157). -/
def execSel (w : LaneOp) (s : State) : Host.Outcome State Fault Refusal :=
  let k := sget s.cur.k 0 (destMask w.c)
  fixedWord (.sel w) w.d w.typ.is64 s (fun t j =>
    (readOperand s s.cur t j w.typ.is64 (if k.getLsbD j then w.a else w.b), 0))

/-- `kwr` (R158). -/
def execKwr (w : LaneOp) (s : State) : Host.Outcome State Fault Refusal :=
  maskWord (.kwr w) (destMask w.d) s (fun t j => (readOperand s s.cur t j false w.a != 0, 0))

/-- `rdst` (R166). -/
def execRdst (w : LaneOp) (s : State) : Host.Outcome State Fault Refusal :=
  fixedWord (.rdst w) w.d false s (fun _ j => ((sget s.cur.lstat 0 j).zeroExtend 64, 0))

/-- `clst` (R166). -/
def execClst (w : LaneOp) (s : State) : Host.Outcome State Fault Refusal :=
  laneWord (.clst w) s (fun q =>
    s.landed q (.clst w) { landing s s.cur q (.clst w) with cl := w.ext.extractLsb' 0 7 })

end Sys2Proof.Machine
end

