-- ==== Sys2Proof/Machine/CrossLane.lean ====
section
/-! DEFINITION. The words across lanes (R159 to R164), with the trees of R64 to R66. -/

namespace Sys2Proof.Machine

/-- A `shfl` or `bcast`: each active lane gets A of its source lane, when the operation completes (R159). -/
def gatherWord (i : Instr) (w : LaneOp) (s : State) (src : Team → Nat → Nat) : Host.Outcome State Fault Refusal :=
  crossWord i s (fun q =>
    let t := s.teamOf s.cur
    let n := if w.typ.is64 then 8 else 4
    let lanes := (lanesOf q.lanes).map (fun j =>
      { lane := j, ea := 0, xl := .bad .illegalOp, data := [], cmp := [],
        rd := toBytes n (readOperand s s.cur t (src t j) w.typ.is64 w.a).toNat, stage := .done : LaneReq })
    let dst := match w.d with | .mrf r => r.toNat | _ => 0
    (if lanes.isEmpty then s else s.pushOp (opOf s q .gather w.typ n dst lanes)).issued q i)

/-- `shfl` (R160). -/
def execShfl (w : LaneOp) (s : State) : Host.Outcome State Fault Refusal :=
  gatherWord (.shfl w) w s (fun t j =>
    let n := s.cur.width
    let b := (readOperand s s.cur t j false w.b).toNat
    match w.mod.toNat with
    | 0 => b % n
    | 1 => if j < b then j else j - b
    | 2 => if n ≤ j + b then j else j + b
    | _ => j ^^^ b % n)

/-- `bcast` (R161). -/
def execBcast (w : LaneOp) (s : State) : Host.Outcome State Fault Refusal :=
  gatherWord (.bcast w) w s (fun t j => (readOperand s s.cur t j false w.b).toNat % s.cur.width)

/-- `vote` (R162). P is the set of active lanes whose A is not all zeros. [DEDUCED, log entry 79] -/
def execVote (w : LaneOp) (s : State) : Host.Outcome State Fault Refusal :=
  let i := Instr.vote w
  crossWord i s (fun q =>
    let t := s.teamOf s.cur
    let p := maskOf ((lanesOf q.lanes).filter (fun j => readOperand s s.cur t j w.typ.is64 w.a != 0))
    let l := landing s s.cur q i
    if w.mod.toNat = 2 then
      s.landed q i (l.values s.cur w.d w.typ.is64 ((lanesOf q.lanes).map (fun j => (j, p, 0))))
    else
      let yes := if w.mod.toNat = 0 then p != 0 else p == q.lanes
      s.landed q i { l with kw := some (destMask w.d, q.lanes, if yes then q.lanes else 0) })

/-- One combination of two leaves or nodes: a pattern and status (R64, R163). -/
def combine (t : LType) (op mode : Nat) (ftz : Bool) (x y : Word64) : Word64 × BitVec 7 :=
  if t == .f32 then
    let a := fmtF32.read ftz false false x.toNat
    let b := fmtF32.read ftz false false y.toNat
    let r := match op with
      | 0 => fmtF32.write mode false ftz (fpAdd (mode == 2) (fmtF32.decode a) (fmtF32.decode b))
      | 1 => fmtF32.minMax false a b
      | _ => fmtF32.minMax true a b
    (BitVec.ofNat 64 r.1, r.2)
  else
    let a := intOf t x
    let b := intOf t y
    (intRaw t (match op with | 0 => wrapTo t (a + b) | 1 => min a b | _ => max a b), 0)

/-- The identity of an operation, 0 add, 1 min, 2 max (R65). -/
def identityOf (t : LType) (op : Nat) : Word64 :=
  if t == .f32 then (match op with | 0 => 0x80000000 | 1 => 0x7F800000 | _ => 0xFF800000)
  else intRaw t (match op with | 0 => 0 | 1 => intMax t | _ => intMin t)

/-- One level of the tree (R64). -/
def treeLevel (f : Word64 → Word64 → Word64 × BitVec 7) : List (Word64 × BitVec 7) → List (Word64 × BitVec 7)
  | x :: y :: r => let z := f x.1 y.1; (z.1, z.2 ||| x.2 ||| y.2) :: treeLevel f r
  | l => l

/-- The root of the tree over 2^n leaves (R64). -/
def treeRoot (f : Word64 → Word64 → Word64 × BitVec 7) (n : Nat) (l : List (Word64 × BitVec 7)) : Word64 × BitVec 7 :=
  match n with
  | 0 => l.headD (0, 0)
  | n + 1 => treeRoot f n (treeLevel f l)

/-- The prefix after the steps of distance d, 2d, … (R66). -/
def prefixFrom (f : Word64 → Word64 → Word64 × BitVec 7) (n d : Nat) (l : List (Word64 × BitVec 7)) : List (Word64 × BitVec 7) :=
  match n with
  | 0 => l
  | n + 1 =>
    let next := (l.zipIdx).map (fun y =>
      if y.2 < d then y.1
      else
        let x := l.getD (y.2 - d) (0, 0)
        let z := f x.1 y.1.1
        (z.1, z.2 ||| x.2 ||| y.1.2))
    prefixFrom f n (2 * d) next

/-- The leaves of a tree: A in active lanes, the identity elsewhere (R65); a subnormal A of f32 with `.ftz` is read as a zero (R54). -/
def leaves (s : State) (q : Issue) (w : LaneOp) (op : Nat) : List (Word64 × BitVec 7) :=
  let t := s.teamOf s.cur
  let read := fun (x : Word64) => if w.typ == .f32 && LaneOp.ftz w then BitVec.ofNat 64 (fmtF32.read true false false x.toNat) else x
  (List.range s.cur.width).map (fun j =>
    (if q.lanes.getLsbD j then read (readOperand s s.cur t j w.typ.is64 w.a) else identityOf w.typ op, 0))

/-- A reduction (R163). -/
def reduceWord (i : Instr) (w : LaneOp) (op : Nat) (s : State) : Host.Outcome State Fault Refusal :=
  crossWord i s (fun q =>
    let r := treeRoot (combine w.typ op (LaneOp.mode w) (LaneOp.ftz w)) (log2w s.cur.width) (leaves s q w op)
    s.landed q i ((landing s s.cur q i).values s.cur w.d w.typ.is64 ((lanesOf q.lanes).map (fun j => (j, r)))))

/-- `radd` (R163). -/
def execRadd (w : LaneOp) (s : State) : Host.Outcome State Fault Refusal := reduceWord (.radd w) w 0 s
/-- `rmin` (R163). -/
def execRmin (w : LaneOp) (s : State) : Host.Outcome State Fault Refusal := reduceWord (.rmin w) w 1 s
/-- `rmax` (R163). -/
def execRmax (w : LaneOp) (s : State) : Host.Outcome State Fault Refusal := reduceWord (.rmax w) w 2 s

/-- `scan` (R164). Lane 0 takes part in no operation (R66); whether a NaN there is one that the word produces, and so is
written canonical (R46), the manual leaves open: here it is written as it was read, with its payload. [DESIGN CHOICE, log entry 82] -/
def execScan (w : LaneOp) (s : State) : Host.Outcome State Fault Refusal :=
  let i := Instr.scan w
  let op := (w.mod.extractLsb' 4 2).toNat
  crossWord i s (fun q =>
    let ys := prefixFrom (combine w.typ op (LaneOp.mode w) (LaneOp.ftz w)) (log2w s.cur.width) 1 (leaves s q w op)
    s.landed q i ((landing s s.cur q i).values s.cur w.d w.typ.is64
      ((lanesOf q.lanes).map (fun j => (j, ys.getD j (0, 0))))))

end Sys2Proof.Machine
end

