-- ==== Sys2Proof/Machine/Landing.lean ====
section
/-! DEFINITION. A fixed-latency result lands (R37, R124 to R128, R154, R165). -/

namespace Sys2Proof.Machine

/-- The landing of a group that is due: the earliest, and of one cycle the first issued, whose cycle has ended (R127). -/
def dueLanding (s : State) (g : Group) : Option Landing :=
  (g.out.filter (fun l => decide (l.cyc < s.cycle))).foldl (fun (a : Option Landing) l =>
    match a with
    | none => some l
    | some b => if l.cyc < b.cyc || (l.cyc == b.cyc && decide (l.ord < b.ord)) then some l else some b) none

/-- The side is still issuing, so that its ORF and LRF exist (R28). -/
def Group.issuing (g : Group) (seq side : Nat) : Bool :=
  match (g.run? seq).bind (·.side? side) with
  | some d => !d.issued
  | none => false

/-- A push in a lane: l3 := l2, l2 := l1, l1 := l0, l0 := x (R125). -/
def pushLrf (m : SMap Word32) (j : Nat) (x : Word32) : SMap Word32 :=
  ssetAll m 0 [(j * 4 + 3, sget m 0 (j * 4 + 2)), (j * 4 + 2, sget m 0 (j * 4 + 1)), (j * 4 + 1, sget m 0 (j * 4)), (j * 4, x)]

/-- The registers, mask and status that a landing writes. The status of a first pass is kept for the word's one trap while its
second pass has yet to issue (R55). -/
def Group.land (g : Group) (l : Landing) : Group :=
  let open_ := g.issuing l.seq l.side
  let g := l.mrf.foldl (fun g e => g.writeV e.1 e.2) g
  let g := if open_ then
      { g with orf := ssetAll g.orf 0 l.orf,
               lrf := l.push.foldl (fun m e => e.2.foldl (fun m x => pushLrf m e.1 x) m) g.lrf }
    else g
  let g := match l.kw with
    | none => g
    | some (k, lanes, bits) =>
      let w : KWrite := { k := k, seq := l.seq, side := l.side, lanes := lanes, bits := bits }
      { g with k := applyK g.k w, klog := g.klog ++ [w] }
  let clear := (lanesOf l.active).map (fun j => (j, sget g.lstat 0 j &&& ~~~l.cl))
  let g := if l.cl = 0 then g else { g with lstat := ssetAll g.lstat 0 clear }
  let g := { g with lstat := l.st.foldl (fun m e => sset m 0 e.1 (sget m 0 e.1 ||| e.2)) g.lstat,
                    out := g.out.filter (fun x => x.ord != l.ord) }
  if l.final then g else g.modSide l.seq l.side (fun d => if d.wi = l.word && d.pass = 1 then { d with acc := d.acc ++ l.st } else d)

/-- FIXED_LATENCY_LANDING (R126): the due landing of a group, then the trap that its status raises (R37, R55). -/
def execFixedLatencyLanding (gid : Nat) (s : State) : Host.Outcome State Fault Refusal :=
  .next (
    match s.group? gid with
    | none => s
    | some g =>
      match dueLanding s g with
      | none => s
      | some l =>
        let s := s.setGroup (commitMasks g (g.land l))
        match if l.final then trapOf g.gctl (l.acc ++ l.st) else none with
        | none => s
        | some (c, m) =>
          let s := s.modGroup gid (·.modSide l.seq l.side (fun d => { d with held := true }))
          raise s gid { code := c, src := .trap l.seq l.side, pc := g.pc, lane := true, run := l.run, word := l.word,
                        side := l.side, lmask := m, faddr := 0, gtime := s.timeOf g, imm := 0, isBrk := false, prog := 0,
                        level := 0 })

end Sys2Proof.Machine
end

