-- ==== Sys2Proof/Machine/Access.lean ====
section
/-! DEFINITION. Memory operations of a group: the checks of their lanes, the order in which they may perform, the scratchpad
with its full/empty bits, and their completion (R177 to R179, R187, R194 to R198, R201, R204, R205, R213 to R216, R222,
R223). -/

namespace Sys2Proof.Machine

/-! Kinds. -/

/-- The operation is an access for the rules of order; `pref` and the gathers are none (R202, R159). -/
def Op.isAccess (o : Op) : Bool := o.kind != .pref && o.kind != .gather

def Op.acquires (o : Op) : Bool := o.order % 2 == 1
def Op.releases (o : Op) : Bool := decide (2 ≤ o.order)

/-- The operation acts on the scratchpad: space 1, or a view of a `.views sp` grid (R194, R331). -/
def inScratch (s : State) (g : Group) (sp : Space) : Bool :=
  match sp with
  | .scratch => true
  | .view => ((s.grid? g.grid).map (·.hsp)).getD false
  | _ => false

/-! Checks of one lane (R177, R178, R182, R184, R187, R194, R203, R307). -/

/-- What a kind asks of a translated page. -/
def kindCheck (k : OpKind) (n : Nat) (p : Page) : Option Code :=
  match k with
  | .atom _ => atomic
  | .red _ => atomic
  | .pin => if p.ptype != 0 || p.nc then some .access else pageCheck { p with pa := p.pa / 128 * 128 } needRead 128
  | .unpin => pageCheck { p with pa := p.pa / 128 * 128 } needNone 128
  | .store => if p.ptype == 3 && n != 4 && n != 8 then some .access else pageCheck p needWrite n
  | _ => if p.ptype == 3 && n != 4 && n != 8 then some .access else pageCheck p needRead n
where
  /-- R307. -/
  atomic : Option Code :=
    if (p.ptype == 0 && !p.nc) || p.ptype == 2 then pageCheck p needAtomic n else some .atomSpace

/-- The device address that a lane reaches, if its page is device memory: as translated, or as a walk would translate it now. -/
def deviceAt (s : State) (vf : Nat) (l : LaneReq) : Option Nat :=
  match l.xl with
  | .ok p => if p.ptype == 0 then some p.pa else none
  | .need =>
    match walk s vf l.ea.toNat with
    | .ok (e, lv) => let p := pageOf e lv l.ea.toNat; if p.ptype == 0 then some p.pa else none
    | .error _ => none
  | .bad _ => none

/-- A leaf at an address, judged for a kind. -/
def leafCheck (s : State) (vf : Nat) (k : OpKind) (n va : Nat) (entry : Word64) (level : Nat) : Xl :=
  match pageFrom s vf va entry level with
  | .error c => .bad c
  | .ok p =>
    match kindCheck k n p with
    | some c => .bad c
    | none => .ok p

/-- The page that stands for a scratchpad lane, which has no translation. -/
def scratchPage : Page := { pa := 0, ptype := 0, nc := false, nl := false, at_ := false, w := true, rd := true }

/-- Where a lane of an operation stands after its own checks and the TLBs. -/
def laneCheck (s : State) (g : Group) (k : OpKind) (sp : Space) (n : Nat) (ea : Int) : Xl :=
  if inScratch s g sp then
    let top := match sp with
      | .view => (s.teamOf g).scrSize + ((s.grid? g.grid).map (·.hsize)).getD 0
      | _ => (s.teamOf g).scrSize
    if ea < 0 || (top : Int) < ea + n then .bad .scrBounds
    else if ea % n != 0 then .bad .access
    else .ok scratchPage
  else
    let va := ea.toNat
    if k != .pin && k != .unpin && va % n != 0 then .bad .access
    else if decide (2 ^ 60 ≤ va) || (sp != .view && inHamper (s.grid? g.grid) va n) then .bad .access
    else
      match tlbFind s g.vf g.core va with
      | some e => leafCheck s g.vf k n va e.entry e.level
      | none => .need

/-- The view that a view-space address names, if the access lies in it: the address of its bytes (R338). [DEDUCED, log entry 31] -/
def viewAddr (s : State) (g : Group) (a : Nat) (off : Int) (n : Nat) : Option Int :=
  match s.grid? g.grid, g.task with
  | some d, some t =>
    let o : Int := (a % 2 ^ 29 : Nat) + off
    match d.vtiles[a / 2 ^ 29]?, d.views.find? (fun v => v.task == t.id && v.tile == a / 2 ^ 29 && v.st == 1) with
    | some vt, some v => if vt.valid && decide (0 ≤ o) && decide (o + n ≤ vt.size) then some (v.addr + 64 + o) else none
    | _, _ => none
  | _, _ => none

/-- Bytes of consecutive registers of a lane, low first. -/
def regBytes (g : Group) (j d n : Nat) : List Byte :=
  ((List.range ((n + 3) / 4)).flatMap (fun i => toBytes 4 (g.readV j (d + i)).toNat)).take n

/-- One lane of a memory word as it issues (R177, R200, R303). -/
def formLane (s : State) (w : MemOp) (k : OpKind) (n : Nat) (j : Nat) : LaneReq :=
  let g := s.cur
  let off := w.off.toInt
  let data := match k with
    | .store => regBytes g j w.d.toNat n
    | .stEf => regBytes g j w.d.toNat n
    | .stF => regBytes g j w.d.toNat n
    | .atom 0x0A => regBytes g j (w.d.toNat + n / 4) n
    | .atom _ => regBytes g j w.d.toNat n
    | .red _ => regBytes g j w.d.toNat n
    | _ => []
  let cmp := match k with
    | .atom 0x0A => regBytes g j w.d.toNat n
    | _ => []
  let mk := fun (ea : Int) (x : Xl) => { lane := j, ea := ea, xl := x, data := data, cmp := cmp, rd := [], stage := .wait : LaneReq }
  let a := (g.readV j w.a.toNat).toNat
  match w.space with
  | .scratch => mk (a + off) (laneCheck s g k .scratch n (a + off))
  | .view =>
    match viewAddr s g a off n with
    | some ea => mk ea (laneCheck s g k .view n ea)
    | none => mk (a + off) (.bad .access)
  | sp =>
    let ea : Int := ((pairOf (g.readV j w.a.toNat) (g.readV j (w.a.toNat + 1))).toNat + off) % 2 ^ 64
    mk ea (laneCheck s g k sp n ea)

/-- The codes that a check of an address raises, in the order of R187 and R307; then an error met by the walk (R465). -/
def pageCodes : List Code := [.scrBounds, .access, .xlate, .atomSpace, .dataError]

/-- A lane that has failed and awaits containment. -/
def LaneReq.failed (l : LaneReq) (c : Code) : Bool := l.xl == .bad c && l.stage == .wait

/-- The code that a word's lanes report, and the lanes that raised it (R187). -/
def firstCode (lanes : List LaneReq) : Option (Code × List LaneReq) :=
  (pageCodes.map (fun c => (c, lanes.filter (·.failed c)))).find? (fun e => !e.2.isEmpty)

/-- The address that a fault of lanes reports: that of the lowest lane, for translation, access and data faults (R373). [DEDUCED, log entry 40] -/
def faultAddr (c : Code) (lanes : List LaneReq) : Nat :=
  if c == .access || c == .xlate || c == .dataError then ((lanes.map (fun l => l.ea.toNat)).headD 0) % 2 ^ 64 else 0

/-- Raises a fault of lanes of an operation (R37, R197, R198). Containment takes that of a group at its save point once its team is
restored. [DEDUCED, log entries 40 and 77] -/
def raiseOp (s : State) (o : Op) (c : Code) (ls : List LaneReq) : State :=
  match s.timed? o.gid with
  | none => s
  | some g =>
    let s := s.modOp o.id (fun o => { o with held := true })
    raiseHeld s o.gid
      { code := c, src := .op o.id, pc := if o.scalar then o.pc else g.pc, lane := !o.scalar, run := o.run,
        word := o.word, side := o.side, lmask := if o.scalar then 0 else maskOf (ls.map (fun l => l.lane)),
                    faddr := BitVec.ofNat 64 (faultAddr c ls), gtime := s.timeOf g, imm := 0, isBrk := false, prog := 0, level := 0 }

/-! Order (R104, R205, R213 to R216). -/

/-- Program order between two operations of a group; the sides of a pair are unordered. -/
def opBefore (a b : Op) : Bool :=
  a.gid == b.gid && (decide (a.seq < b.seq) || (a.seq == b.seq && a.side == b.side && decide (a.id < b.id)))

/-- The bytes that a lane touches from its address in memory: scratchpad words, 8-byte words of a host page (R223), a pinned region, or
bytes of a page. -/
def LaneReq.range (l : LaneReq) (o : Op) (scr : Bool) (a : Nat) : Nat × Nat :=
  let host := match l.xl with | .ok p => p.ptype == 1 | _ => false
  if scr || host then (a / 8 * 8, (a + o.nbytes + 7) / 8 * 8)
  else if o.kind == .pin || o.kind == .unpin then (a / 128 * 128, a / 128 * 128 + 128)
  else (a, a + o.nbytes)

/-- Two lanes touch a common byte, or a common scratchpad word. A lane that is not translated yet is compared within its 64 KiB page,
which every mapping keeps (R180, R213). -/
def touches (s : State) (g : Group) (o : Op) (l : LaneReq) (a : Op) (m : LaneReq) : Bool :=
  let so := inScratch s g o.space
  let sa := inScratch s g a.space
  let meet := fun (x y : Nat) =>
    let p := l.range o so x
    let q := m.range a sa y
    decide (p.1 < q.2) && decide (q.1 < p.2)
  so == sa && (if so then meet l.ea.toNat m.ea.toNat
    else match l.xl, m.xl with
      | .ok p, .ok q => p.ptype == q.ptype && meet p.pa q.pa
      | _, _ => meet (l.ea.toNat % 65536) (m.ea.toNat % 65536))

/-- An earlier lane lets a later one on the same bytes perform: it has performed, or it is a write that has reached its home
and the later one is ordered behind it there. -/
def LaneReq.past (m : LaneReq) (later : Op) : Bool :=
  match m.stage with
  | .done => true
  | .dropped => true
  | .sent _ => later.kind == .store || later.kind.isAtomic
  | _ => false

/-- The lane is on a page of device memory. -/
def LaneReq.onDevice (l : LaneReq) : Bool := match l.xl with | .ok p => p.ptype == 0 | _ => false

/-- The lane is on an IO page. -/
def LaneReq.io (l : LaneReq) : Bool := match l.xl with | .ok p => p.ptype == 3 | _ => false

/-- The lane is on an IO page, or its page is not known yet (R182, R205). -/
def LaneReq.mayIo (l : LaneReq) : Bool := l.io || l.xl == .need

/-- One operation of a group stands behind another on a place that both touch: program order, and issue order within a run or pair. -/
def opAfter (a b : Op) : Bool := decide (b.seq < a.seq) || (a.seq == b.seq && decide (b.id < a.id))

/-- The lane waits at its scratchpad word. -/
def LaneReq.atWord (l : LaneReq) : Bool := match l.stage with | .feWait _ _ => true | _ => false

/-- The rule of one place: accesses of a group that share bytes, scratchpad words, or are to IO pages, perform in program
order, lanes ascending (R182, R205, R213). A lane that waits at its word does not keep the later lanes of its own operation
from waiting there behind it (R197), nor does one that has met an error (R198); the lanes of a load that read one place of device memory
read it at one instant (R435). An access to an IO page waits until the pages of the earlier ones are known (R205). -/
def placeFree (s : State) (g : Group) (o : Op) (l : LaneReq) : Bool :=
  s.ops.all (fun a =>
    a.gid != o.gid || !a.isAccess || opAfter a o ||
      a.lanes.all (fun m => m.past o || (a.id == o.id && (o.kind == .lrefill || decide (l.lane ≤ m.lane) || m.atWord || m.stage == .err || (o.kind == .load && m.onDevice))) ||
        !(touches s g o l a m || (l.io && m.mayIo))))

/-- Every fence token and flush read of a list has been answered. -/
def answered (s : State) (ids : List Nat) : Bool := s.tokens.all (fun t => !ids.contains t.id)

/-- The release horizon is known and 2 ticks past (R214, R216). Scope has no effect in the scratchpad (R179). -/
def releaseReady (s : State) (g : Group) (o : Op) : Bool :=
  !s.hdPending g.gid &&
  if o.scope = 3 && !inScratch s g o.space then
    match o.sent with
    | some ids => answered s ids && decide (max g.hd g.hs + 2 ≤ s.timeOf g)
    | none => false
  else decide (g.hd + 2 ≤ s.timeOf g)

/-- No earlier access of the group is outstanding. -/
def firstOf (s : State) (o : Op) : Bool :=
  !s.ops.any (fun a => opBefore a o && a.isAccess)

/-- A lane may perform (R104, R205, R213, R215, R216). An earlier run of the group has issued all its words (R25), so that its
operations are all known. [DEDUCED, log entry 32] -/
def orderOk (s : State) (g : Group) (o : Op) (l : LaneReq) : Bool :=
  if !o.isAccess then true
  else
    decide (o.floor ≤ s.timeOf g) &&
    !s.ops.any (fun a => opBefore a o && a.acquires) &&
    (!o.scalar || (g.runs.all (fun r => decide (o.seq < r.seq)) && g.queue.all (fun e => decide (o.seq < e.seq)) &&
        !s.ops.any (fun a => a.scalar && opBefore a o && a.lanes.any (fun m => touches s g o l a m)))) &&
    (!o.releases || (firstOf s o && releaseReady s g o)) &&
    placeFree s g o l

/-- A lane that waits for its turn. -/
def LaneReq.waits (l : LaneReq) : Bool := l.stage == .wait && (match l.xl with | .ok _ => true | _ => false)

/-- One that waits for its turn on a peer page. -/
def LaneReq.peer (l : LaneReq) : Bool := l.waits && (match l.xl with | .ok p => p.ptype == 2 | _ => false)

/-- The operation has lanes on peer pages for which the destination package has not answered yet (R424). -/
def Op.unasked (o : Op) : Bool := !o.asked && o.lanes.any (·.peer)

/-- The operation writes memory: a store, an atomic or a reduction. -/
def Op.writes (o : Op) : Bool := o.kind == .store || o.kind.isAtomic

/-- The operation's lane, when it may perform now. -/
def readyLane (s : State) (op lane : Nat) : Option (Group × Op × LaneReq × Page) :=
  match s.op? op with
  | none => none
  | some o =>
    match s.group? o.gid, o.lanes.find? (fun l => l.lane == lane && l.waits) with
    | some g, some l =>
      match l.xl with
      | .ok p => if o.checked && !o.unasked && orderOk s g o l then some (g, o, l, p) else none
      | _ => none
    | _, _ => none

/-- One lane of an operation changed. -/
def setLane (s : State) (op lane : Nat) (f : LaneReq → LaneReq) : State :=
  s.modOp op (fun o => { o with lanes := mapIf o.lanes (·.lane == lane) f })

/-- DATA_ERROR of an operation is raised once every other lane has been resolved (R198, R308). -/
def settle (s : State) (op : Nat) : State :=
  match s.op? op with
  | none => s
  | some o =>
    let bad := o.lanes.filter (·.stage == .err)
    if bad.isEmpty || o.held || o.lanes.any (fun l => l.stage != .err && l.stage != .done && l.stage != .dropped) then s
    else raiseOp s o .dataError bad

/-! The scratchpad (R194 to R198, R201, R204). -/

/-- The 8-byte words of an access. -/
def wordsOf (a n : Nat) : List Nat := (List.range ((a + n - 1) / 8 - a / 8 + 1)).map (· + a / 8)

/-- A tile-walk command waits on a guard word of a team since before a cycle, or since that cycle (R196, R316). [DEDUCED, log entry 76] -/
def guardWaits (s : State) (team word arrived : Nat) : Bool :=
  s.twe.any (fun c => !c.held && bitsOf c.desc.toNat 383 352 / 8 == word && bitOf c.desc.toNat 343 &&
    c.recvs.any (fun r => r.team == team && !r.done && !r.held && r.since.isSome && decide (r.arrived ≤ arrived)))

/-- The condition of a full/empty access on its words (R201). -/
def feHolds (s : State) (t : Team) (k : OpKind) (ws : List Nat) (arrived : Nat) : Bool :=
  match k with
  | .ldF => ws.all (fun w => sget t.fe false w)
  | .ldFe => ws.all (fun w => sget t.fe false w)
  | .stEf => ws.all (fun w => !sget t.fe false w && !guardWaits s t.id w arrived)
  | _ => true

/-- The kind reads scratchpad data. -/
def OpKind.readsData : OpKind → Bool
  | .load => true
  | .ldF => true
  | .ldFe => true
  | _ => false

/-- The kind may change full/empty bits. -/
def OpKind.setsBits : OpKind → Bool
  | .ldFe => true
  | .stEf => true
  | .stF => true
  | .feSet => true
  | .feClr => true
  | _ => false

/-- Bytes stored in a scratchpad but for the places in `keep`: words covered whole lose their error (R465), and the states of the
sectors written are kept for the engines that read them (R239). -/
def Team.storeKeep (t : Team) (a : Nat) (b : List Byte) (keep : List Nat) : Team :=
  let whole := (wordsOf a b.length).filter (fun w => decide (a ≤ 8 * w) && decide (8 * w + 8 ≤ a + b.length) &&
    !keep.any (fun i => (a + i) / 8 == w))
  let old := (sectorsOf a b.length).map (fun k => (k, readBytes t.scr (16 * k) 16))
  let b := (b.zipIdx).map (fun x => if keep.contains x.2 then sget t.scr 0 (a + x.2) else x.1)
  { t with scr := writeBytes t.scr a b, errs := t.errs.filter (fun w => !whole.contains w), past := t.past ++ old }

/-- Bytes stored in a scratchpad. -/
def Team.store (t : Team) (a : Nat) (b : List Byte) : Team := t.storeKeep a b []

/-- The states that an aligned 16-byte sector of a scratchpad has had since a mark, the present one first (R239, R271, R315). -/
def Team.states (t : Team) (mark sector : Nat) : List (List Byte) :=
  let now := readBytes t.scr (16 * sector) 16
  now :: (((t.past.drop mark).filter (fun e => e.1 == sector)).map (fun e => e.2)).filter (fun b => b != now)

/-- Bytes of a scratchpad as an engine reads them: each sector whole, as it stood at the mark or later (R239). [DESIGN CHOICE, log entry 6] -/
def readStates (t : Team) (mark : Nat) (s : State) : (sectors : List Nat) → List Byte × State
  | [] => ([], s)
  | k :: r =>
    let (x, s) := pickOne s (t.states mark k)
    let (y, s) := readStates t mark s r
    (x ++ y, s)

/-- A range of a scratchpad read by an engine since a mark. -/
def readSince (s : State) (t : Team) (mark a n : Nat) : List Byte × State :=
  let (x, s) := readStates t mark s (sectorsOf a n)
  ((x.drop (a % 16)).take n, s)

/-- Full/empty bits of words set. -/
def Team.setBits (t : Team) (ws : List Nat) (full : Bool) : Team :=
  { t with fe := ssetAll t.fe false (ws.map (fun w => (w, full))) }

/-- The access of one lane whose condition holds, at one instant (R200, R201). -/
def feApply (s : State) (t : Team) (o : Op) (l : LaneReq) : State :=
  let a := l.ea.toNat
  let ws := wordsOf a o.nbytes
  if o.kind.readsData && ws.any (fun w => t.errs.contains w) then
    settle (setLane s o.id l.lane (fun l => { l with stage := .err })) o.id
  else
    let rd := match o.kind with
      | .feProbe => toBytes 4 (((ws.zipIdx).map (fun w => if sget t.fe false w.1 then 2 ^ w.2 else 0)).foldl (· + ·) 0)
      | k => if k.readsData then readBytes t.scr a o.nbytes else []
    let t' := match o.kind with
      | .store => t.store a l.data
      | .ldFe => t.setBits ws false
      | .stEf => (t.store a l.data).setBits ws true
      | .stF => (t.store a l.data).setBits ws true
      | .feSet => t.setBits ws true
      | .feClr => t.setBits ws false
      | _ => t
    settle ((setLane s o.id l.lane (fun l => { l with rd := rd, stage := .done })).modTeam t.id (fun _ => t')) o.id

/-- The waiters of a team that touch a word, each with its key: cycle of arrival, resident-group slot, issue order, lane (R196). -/
def waitersOf (s : State) (team word : Nat) : List (List Nat × Op × LaneReq × Nat) :=
  s.ops.flatMap (fun o =>
    match s.group? o.gid with
    | none => []
    | some g =>
      if g.team != team then []
      else o.lanes.filterMap (fun l =>
        match l.stage with
        | .feWait _ arrived =>
          if (wordsOf l.ea.toNat o.nbytes).contains word then some ([arrived, g.slot, o.id, l.lane], o, l, arrived) else none
        | _ => none))

/-- The oldest waiter of a word whose condition holds (R196). [DEDUCED, log entry 76] -/
def wakeable (s : State) (team word : Nat) : Option (Op × LaneReq) :=
  match s.team? team with
  | none => none
  | some t =>
    (((waitersOf s team word).filter (fun e => feHolds s t e.2.1.kind (wordsOf e.2.2.1.ea.toNat e.2.1.nbytes) e.2.2.2)).foldl
      (fun (a : Option (List Nat × Op × LaneReq)) e =>
        match a with
        | none => some (e.1, e.2.1, e.2.2.1)
        | some b => if lexLt e.1 b.1 then some (e.1, e.2.1, e.2.2.1) else some b) none).map (fun e => (e.2.1, e.2.2))

/-- The words whose waiters are tried again after a change, oldest first, until no condition holds (R196). -/
def wake (fuel : Nat) (s : State) (team : Nat) (words : List Nat) : State :=
  match fuel, words with
  | 0, _ => s
  | _, [] => s
  | f + 1, w :: rest =>
    match wakeable s team w, s.team? team with
    | some (o, l), some t =>
      wake f (feApply s t o l) team (if o.kind.setsBits then (w :: rest) ++ (wordsOf l.ea.toNat o.nbytes).filter (· != w) else w :: rest)
    | _, _ => wake f s team rest

/-- Waiters of a team tried again. -/
def wakeTeam (s : State) (team : Nat) (words : List Nat) : State := wake (4 * s.ops.length * 64 + 64) s team words

/-- A lane meets its scratchpad words (R196, R197): it performs, or waits from this tick on, or, issued again after a restore, from its
first one. [DEDUCED, log entry 76] -/
def feTry (s : State) (g : Group) (o : Op) (l : LaneReq) : State :=
  let t := s.teamOf g
  let ws := wordsOf l.ea.toNat o.nbytes
  if feHolds s t o.kind ws s.cycle then
    let s := feApply s t o l
    if o.kind.setsBits then wakeTeam s t.id ws else s
  else setLane s o.id l.lane (fun l => { l with stage := .feWait (l.first.getD (s.timeOf g)) s.cycle, first := none })

/-- Lanes of an `lrefill` whose header is bad: LOG2CAP or reserved bits, then a queue beyond the allocation (R204). -/
def badHeader (t : Team) (l : LaneReq) : Option Code :=
  let h := ofBytes (readBytes t.scr l.ea.toNat 8)
  if 12 < bitsOf h 39 32 || bitsOf h 63 40 != 0 then some .access
  else if t.scrSize < l.ea.toNat + 8 + 8 * 2 ^ bitsOf h 39 32 then some .scrBounds
  else none

/-- Indices handed out in ascending lane order: the lanes with their slots, and the scratchpad with the headers moved on. -/
def handOut (t : Team) : List LaneReq → List LaneReq × Team
  | [] => ([], t)
  | l :: r =>
    let h := ofBytes (readBytes t.scr l.ea.toNat 8)
    let head := bitsOf h 31 0
    let slot := l.ea.toNat + 8 + 8 * (head % 2 ^ bitsOf h 39 32)
    let t := t.store l.ea.toNat (toBytes 8 (h - head + (head + 1) % 2 ^ 32))
    let (ls, t) := handOut t r
    ({ l with ea := slot } :: ls, t)

/-- The header updates of an `lrefill` perform; its slot reads follow (R204). A header that is out of form keeps the word from any
effect. Lanes whose header holds an uncorrectable error become an operation of their own, which faults, and the others go on (R198). -/
def refillHeaders (s : State) (g : Group) (o : Op) : State :=
  let t := s.teamOf g
  let err := fun (l : LaneReq) => t.errs.contains (l.ea.toNat / 8)
  let bad := (o.lanes.filter (fun l => !err l)).map (fun l => match badHeader t l with | some c => { l with xl := .bad c } | none => l)
  match firstCode bad with
  | some (c, ls) => raiseOp (s.modOp o.id (fun o => { o with lanes := o.lanes.map (fun l => { l with xl := .bad c }) })) o c ls
  | none =>
    let (ls, t) := handOut t (o.lanes.filter (fun l => !err l))
    let s := (s.modTeam t.id (fun _ => t)).modOp o.id (fun o => { o with kind := .ldFe, lanes := ls })
    if !o.lanes.any err then s
    else
      let x : Op := { o with id := s.nextId, lanes := (o.lanes.filter err).map (fun l => { l with stage := .err }) }
      let s := { s with ops := s.ops ++ [x], nextId := s.nextId + 1 }
      raiseOp s x .dataError x.lanes

/-- A lane of a scratchpad operation performs when it may. -/
def scratchLane (s : State) (op lane : Nat) : State :=
  match readyLane s op lane with
  | none => s
  | some (g, o, l, _) => if inScratch s g o.space then feTry s g o l else s

/-- The lanes of a scratchpad operation, ascending; an `lrefill` first updates its headers once all its lanes may. [DESIGN CHOICE, log entry 47] -/
def scratchOp (s : State) (op : Nat) : State :=
  match s.op? op with
  | none => s
  | some o =>
    match s.group? o.gid with
    | none => s
    | some g =>
      if !inScratch s g o.space || !o.isAccess then s
      else
        let s := if o.kind == .lrefill && o.checked && o.lanes.all (fun l => l.waits && orderOk s g o l) then refillHeaders s g o else s
        match s.op? op with
        | none => s
        | some o => if o.kind == .lrefill then s else o.lanes.foldl (fun s l => scratchLane s op l.lane) s

/-! What leaves the device (R182, R222, R223, R391). -/

/-- A store leaves the device (R182, R222, R223). [DESIGN CHOICE, log entry 3] -/
def storeOut (s : State) (vf gid : Nat) (p : Page) (b : List Byte) : State :=
  let part := (s.partOfVf vf).getD 0
  let s := { s with outStores := s.outStores ++ [{ ptype := p.ptype, addr := p.pa, bytes := b, part := part, vf := vf, gid := gid, settled := false }] }
  if p.ptype == 2 then s.modPort (portOf s p.pa) (·.send part) else s

/-! Fence tokens and flush reads (R217, R222, R223). -/

/-- Tokens to every port that carried stores of the partition since its last one, and a flush read behind outstanding host
stores: the state, and every unanswered token or flush read of the partition. -/
def sendTokens (s : State) (part : Nat) : List Nat × State :=
  let send := fun (s : State) (flush : Bool) (port count : Nat) =>
    { s with
      nextId := s.nextId + 1, fresh := s.fresh + 1
      tokens := s.tokens ++
        [{ id := s.nextId, flush := flush, port := port, part := part, count := count, behind := s.outStores.length, ready := s.later.1 }] }
  let s := (List.range 18).foldl (fun s n =>
    let p := s.port n
    let sent := sget p.sent 0 part
    if sent = sget p.token 0 part then s else send (s.modPort n (fun p => { p with token := sset p.token 0 part sent })) false n sent) s
  let s := if s.outStores.any (fun x => x.part == part && x.ptype == 1 && !x.settled) then send s true 0 s.outStores.length else s
  ((s.tokens.filter (fun t => t.part == part)).map (fun t => t.id), s)

/-- A release at system scope whose earlier accesses have completed sends its tokens once. -/
def sendRelease (s : State) (op : Nat) : State :=
  match s.op? op with
  | none => s
  | some o =>
    match s.group? o.gid with
    | none => s
    | some g =>
      if o.releases && o.scope = 3 && o.sent.isNone && o.checked && !inScratch s g o.space && firstOf s o then
        let (ids, s) := sendTokens s ((s.partOfVf g.vf).getD 0)
        s.modOp op (fun o => { o with sent := some ids })
      else s

/-! Admission (R182, R187). -/

/-- A lane on a host page that ATS does not translate waits for it; one that it translates waits no longer. [DESIGN CHOICE, log entries 3 and 7; DEDUCED, log entry 78] -/
def hostStage (s : State) (vf : Nat) (l : LaneReq) : LaneReq :=
  match l.xl, l.stage with
  | .ok p, .wait => if p.ptype == 1 && !atsHas s vf p.pa then { l with stage := .pri } else l
  | .ok p, .pri => if atsHas s vf p.pa then { l with stage := .wait } else l
  | _, _ => l

/-- The destination packages answer for the lanes of an operation on peer pages, before any of its lanes performs, once the port is up and
their order lets them go: a refused one is an ACCESS at the word, precise as a translation fault is; a refused store has left and is
counted (R187, R424). [DESIGN CHOICE, log entry 3] -/
def askPeers (s : State) (op : Nat) : State :=
  match s.op? op with
  | none => s
  | some o =>
    match s.group? o.gid with
    | none => s
    | some g =>
      let ls := o.lanes.filter (·.peer)
      let held := fun (l : LaneReq) => match l.xl with | .ok p => if o.writes then peerHeld s g.vf p else peerDown s g.vf p | _ => false
      if !o.checked || o.held || !o.unasked || ls.any held || !ls.all (fun l => orderOk s g o { l with lane := 0 }) then s
      else
        let bad := ls.filter (fun l => Config.peerRefuses (s.fresh + l.lane))
        let s := { s with fresh := s.fresh + 64 }
        if bad.isEmpty then s.modOp op (fun o => { o with asked := true })
        else
          let send := fun (s : State) (l : LaneReq) => match l.xl with | .ok p => storeOut s g.vf g.gid p l.data | _ => s
          let s := if o.writes then bad.foldl send s else s
          raiseOp (s.modOp op (fun o => { o with lanes := mapIf o.lanes (fun l => l.stage == .wait) (fun l => { l with xl := .bad .access }) })) o .access bad

/-- Requests for the host pages that lanes wait for (R182, R420). [DEDUCED, log entry 37] -/
def askPages (s : State) (vf : Nat) : List LaneReq → State
  | [] => s
  | l :: r =>
    match l.xl, l.stage with
    | .ok p, .pri => askPages (askPage s vf p.pa) vf r
    | _, _ => askPages s vf r

/-- The lane still waits for a walk or a host page. -/
def LaneReq.unresolved (l : LaneReq) : Bool := l.stage == .pri || (l.stage == .wait && l.xl == .need)

/-- A `pref` passes over every lane that would fault, and every page it does not fetch (R202). -/
def prefLane (l : LaneReq) : LaneReq :=
  match l.xl with
  | .bad _ => { l with stage := .dropped }
  | .ok p => if p.ptype != 0 || p.nc then { l with stage := .dropped } else l
  | .need => l

/-- Bytes that a write touches leave the L1 of the writing core, at issue (R212). -/
def dropWritten (s : State) (g : Group) (o : Op) : State :=
  if !o.writes || inScratch s g o.space then s
  else o.lanes.foldl (fun s l => match deviceAt s g.vf l with | some pa => l1Drop s g.core pa o.nbytes | none => s) s

/-- A write of a group of the core to some of these bytes has issued and is not visible yet, so that every read of them by the core
misses (R212): one on its way, or one at its home, whose group may have left by now. -/
def unseenWrite (s : State) (core pa n : Nat) : Bool :=
  s.writes.any (fun w => w.core == some core && decide (w.pa < pa + n) && decide (pa < w.pa + w.bytes.length)) ||
  s.ops.any (fun o => o.writes && (match s.group? o.gid with
    | some g => g.core == core && !inScratch s g o.space && o.lanes.any (fun l => l.stage != .done && l.stage != .dropped &&
        (match deviceAt s g.vf l with | some a => decide (a < pa + n) && decide (pa < a + o.nbytes) | none => false))
    | none => false))

/-- Where a lane's request goes: a home slice of the device, or 65,536 and above for one of a peer (R299, R424). -/
def atomHome (l : LaneReq) : Nat :=
  match l.xl with
  | .ok p => if p.ptype == 2 then 65536 * (1 + bitsOf p.pa 51 44) + homeOf (p.pa % 2 ^ 44) else homeOf p.pa
  | _ => 0

/-- The distinct homes of lanes (R299). -/
def homesOf (lanes : List LaneReq) : List Nat := lanes.foldl (fun l x => insertNat (atomHome x) l) []

/-- The lane's reply has reached its group, or none is due. -/
def LaneReq.over (l : LaneReq) : Bool := l.stage == .done || l.stage == .dropped

/-- Ant request-queue entries that atomics of a core hold, each until its reply: all of them, or those of classes other than 0
(R299). One that is to be issued again after a restore holds none yet (R466). -/
def entriesHeld (s : State) (core : Nat) (others : Bool) : Nat :=
  (s.ops.filter (fun o => o.kind.isAtomic && (o.checked || o.held) && (match s.group? o.gid with
    | some g => g.core == core && (!others || g.cls != 0)
    | none => false))).foldl (fun n o => n + (homesOf (o.lanes.filter (!·.over))).length) 0

/-- The word has an entry for every request it forms: 32 in all, and 28 of the classes other than 0 (R298, R299). -/
def entriesFree (s : State) (g : Group) (need : Nat) : Bool :=
  decide (entriesHeld s g.core false + need ≤ 32) && (g.cls = 0 || decide (entriesHeld s g.core true + need ≤ 28))

/-- The checks of an operation on what the TLBs and ATS know: it waits on, faults, or is admitted, an atomic that is issued again
once it has its entries (R187, R298, R299). [DEDUCED, log entries 48 and 77] -/
def examine (s : State) (op : Nat) : State :=
  match s.op? op with
  | none => s
  | some o =>
    match s.group? o.gid with
    | none => s
    | some g =>
      if o.checked || o.held || o.kind == .gather then s
      else
        let look := fun (l : LaneReq) =>
          if l.stage != .wait || l.xl != .need then l
          else if o.scalar && l.ea % 8 != 0 then { l with xl := .bad .access }
          else { l with xl := laneCheck s g o.kind o.space o.nbytes l.ea }
        let lanes := o.lanes.map look
        let lanes := if o.kind == .pref then lanes.map prefLane else lanes.map (hostStage s g.vf)
        let s := askPages (s.modOp op (fun o => { o with lanes := lanes })) g.vf lanes
        if lanes.any (·.unresolved) then s
        else
          match firstCode lanes with
          | some (c, ls) =>
            raiseOp (s.modOp op (fun o => { o with
              lanes := mapIf lanes (fun l => l.stage == .wait) (fun l => { l with xl := .bad c }) })) o c ls
          | none =>
            if o.kind.isAtomic && !entriesFree s g (homesOf (lanes.filter (·.waits))).length then s
            else settle (s.modOp op (fun o => { o with lanes := lanes, checked := true })) op

/-- Everything of a group that may go on does: operations are examined, tokens are sent, scratchpad lanes perform, oldest
first. One that is to be repeated waits for its next tick. [DEDUCED, log entry 32] -/
def pump (s : State) (gid : Nat) : State :=
  (s.ops.filter (fun o => o.gid == gid && (o.checked || decide (o.ready ≤ s.gtc)))).foldl
    (fun s o => scratchOp (askPeers (sendRelease (examine s o.id) o.id) o.id) o.id) s

/-! Completion (R206, R214, R215, R220). -/

/-- The operation's reply can reach its group: every lane has performed or been passed over. -/
def Op.finished (o : Op) : Bool :=
  o.kind == .gather || (o.checked && !o.held && o.lanes.all (fun l => l.stage == .done || l.stage == .dropped))

/-- The operation writes registers of its group. -/
def OpKind.hasResult : OpKind → Bool
  | .store => false
  | .stEf => false
  | .stF => false
  | .feSet => false
  | .feClr => false
  | .pref => false
  | .red _ => false
  | _ => true

/-- 32-bit values of a little-endian byte string, the last zero-extended (R200). -/
def wordsFrom (n : Nat) (b : List Byte) : List Word32 :=
  match n with
  | 0 => []
  | n + 1 => BitVec.ofNat 32 (ofBytes (b.take 4)) :: wordsFrom n (b.drop 4)

/-- The results of an operation written: lane registers, or the scalar register of a scalar load. [DEDUCED, log entry 28] -/
def Group.takeResult (g : Group) (o : Op) : Group :=
  if !o.kind.hasResult then g
  else if o.scalar then
    o.lanes.foldl (fun g l => if l.stage == .done then g.writeS (BitVec.ofNat 6 o.dst) (BitVec.ofNat 64 (ofBytes l.rd)) else g) g
  else
    o.lanes.foldl (fun g l =>
      if l.stage == .done then
        (keyed (l.lane * 256 + o.dst) (wordsFrom ((l.rd.length + 3) / 4) l.rd)).foldl (fun g e => g.writeLate o.seq o.side e.1 e.2) g
      else g) g

/-- An acquire holds later accesses of its group until 2 ticks after its completion (R215). -/
def acquireDone (s : State) (g : Group) (o : Op) : State :=
  if !o.acquires then s
  else
    let f := s.timeOf g + 2
    let s := s.modGroup g.gid (fun g => { g with acqfloor := max g.acqfloor f })
    { s with ops := mapIf s.ops (fun a => opBefore o a) (fun a => { a with floor := max a.floor f }) }

/-- A drain sends what its port held, and completes once its writes and reduction have all returned (R249, R220, R425). -/
def drainComplete (s : State) (req : Nat) : State :=
  match s.req? req with
  | none => s
  | some r =>
    let page := fun (va : Nat) => (r.pages.find? (fun p => p.1 == va / 65536)).map (fun p => { p.2 with pa := p.2.pa + va % 65536 : Page })
    let held := fun (x : Nat × List Byte) => match page x.1 with | some p => peerHeld s r.vf p | none => false
    let s := (r.unsent.filter (fun x => !held x)).foldl (fun s x =>
      match page x.1 with | some p => storeOut s r.vf r.gid p x.2 | none => s) s
    let s := if r.unsent.isEmpty then s else s.modReq req (fun r => { r with unsent := r.unsent.filter held })
    if r.stage != .finishing || r.pending != 0 || r.amax.isSome || r.held || r.unsent.any held then s
    else
      let s := s.modCluster (clusterOf r.core) (fun c => openWindows s.cycle { c with reqs := c.reqs.filter (fun x => x.id != req) })
      retire (s.modGroup r.gid (fun g => { g with h2 := max g.h2 (max r.hmax (s.timeOf g)) })) r.gid

/-- ACCESS_COMPLETE (R206): the data or the completion time reach the group; the run may retire. -/
def execAccessComplete (op : Nat) (s : State) : Host.Outcome State Fault Refusal :=
  .next (
    match s.op? op with
    | none => drainComplete s op
    | some o =>
      match s.group? o.gid with
      | none => s
      | some g =>
        if !o.finished then s
        else
          let s := s.setGroup { g.takeResult o with hd := max g.hd o.vmax }
          let s := acquireDone s g o
          retire { s with ops := s.ops.filter (fun a => a.id != op) } g.gid)

/-- FE_WAIT_BOUND_EXPIRY (R197): a full/empty wait of an operation has run out; the lanes still waiting are reported. That of a group at its
save point runs out too, until its team is saved (R380). -/
def execFeWaitBoundExpiry (op : Nat) (s : State) : Host.Outcome State Fault Refusal :=
  .next (
    match s.op? op with
    | none => s
    | some o =>
      match s.timed? o.gid with
      | none => s
      | some g =>
        let ran := fun (l : LaneReq) => match l.stage with | .feWait t _ => decide (t + o.bound ≤ s.timeOf g) | _ => false
        let waits := LaneReq.atWord
        if o.held || !o.lanes.any ran then s
        else
          let ls := o.lanes.filter waits
          raiseOp (s.modOp op (fun o => { o with
            lanes := mapIf o.lanes waits (fun l => { l with xl := .bad .feWait, stage := .wait }) })) o .feWait ls)

end Sys2Proof.Machine
end

