-- ==== Sys2Proof/Machine/LaneMem.lean ====
section
/-! DEFINITION. The lane memory words (R177 to R179, R187, R199 to R204). -/

namespace Sys2Proof.Machine

/-- The operation of a memory word with its lanes. -/
def memOp (s : State) (q : Issue) (w : MemOp) (k : OpKind) (n : Nat) (lanes : List LaneReq) : Op :=
  { opOf s q k w.typ n w.d.toNat lanes with
    space := w.space, order := w.order.toNat, scope := w.scope.toNat, floor := s.cur.acqfloor, bound := s.cur.febound.toNat
    hint := if w.space == .view then 0 else w.hint.toNat }

/-- The word's operation enters the machine and goes as far as it may. [DEDUCED, log entries 27 and 43] -/
def launchOp (s : State) (o : Op) : State :=
  scratchOp (askPeers (sendRelease (examine (dropWritten (s.pushOp o) s.cur o) o.id) o.id) o.id) o.id

/-- A lane memory word: every lane is checked before any performs; a fault that no walk can still change is raised at the
word (R187). -/
def memWord (i : Instr) (w : MemOp) (k : OpKind) (n : Nat) (s : State) : Host.Outcome State Fault Refusal :=
  gatheredWord i (formLane s w k n) s (fun q lanes =>
    if lanes.isEmpty || (k == .pref && s.tstepOf s.cur.vf != 0) then s.issued q i
    else
      match if lanes.any (·.unresolved) || k == .pref then none else firstCode lanes with
      | some (c, ls) => raiseWord s q c (maskOf (ls.map (fun l => l.lane))) (faultAddr c ls)
      | none => (launchOp s (memOp s q w k n lanes)).issued q i)

/-- `ld` (R200). -/
def execLd (w : MemOp) (s : State) : Host.Outcome State Fault Refusal := memWord (.ld w) w .load (Width.bytes w.width) s
/-- `st` (R200). -/
def execSt (w : MemOp) (s : State) : Host.Outcome State Fault Refusal := memWord (.st w) w .store (Width.bytes w.width) s
/-- `ld.f` (R201). -/
def execLdF (w : MemOp) (s : State) : Host.Outcome State Fault Refusal := memWord (.ldF w) w .ldF (Width.bytes w.width) s
/-- `ld.fe` (R201). -/
def execLdFe (w : MemOp) (s : State) : Host.Outcome State Fault Refusal := memWord (.ldFe w) w .ldFe (Width.bytes w.width) s
/-- `st.ef` (R201). -/
def execStEf (w : MemOp) (s : State) : Host.Outcome State Fault Refusal := memWord (.stEf w) w .stEf (Width.bytes w.width) s
/-- `st.f` (R201). -/
def execStF (w : MemOp) (s : State) : Host.Outcome State Fault Refusal := memWord (.stF w) w .stF (Width.bytes w.width) s
/-- `fe.set` (R201). -/
def execFeSet (w : MemOp) (s : State) : Host.Outcome State Fault Refusal := memWord (.feSet w) w .feSet (Width.bytes w.width) s
/-- `fe.clr` (R201). -/
def execFeClr (w : MemOp) (s : State) : Host.Outcome State Fault Refusal := memWord (.feClr w) w .feClr (Width.bytes w.width) s
/-- `fe.probe` (R201). -/
def execFeProbe (w : MemOp) (s : State) : Host.Outcome State Fault Refusal :=
  memWord (.feProbe w) w .feProbe (Width.bytes w.width) s
/-- `pref` (R202): dropped whole while the throttle has stopped prefetch (R410). -/
def execPref (w : MemOp) (s : State) : Host.Outcome State Fault Refusal := memWord (.pref w) w .pref (Width.bytes w.width) s
/-- `pin` (R203). -/
def execPin (w : MemOp) (s : State) : Host.Outcome State Fault Refusal := memWord (.pin w) w .pin 4 s
/-- `unpin` (R203). -/
def execUnpin (w : MemOp) (s : State) : Host.Outcome State Fault Refusal := memWord (.unpin w) w .unpin 4 s
/-- `lrefill` (R204). -/
def execLrefill (w : MemOp) (s : State) : Host.Outcome State Fault Refusal := memWord (.lrefill w) w .lrefill 8 s

end Sys2Proof.Machine
end

