-- ==== Sys2Proof/Machine/ScalarMem.lean ====
section
/-! DEFINITION. The scalar memory words (R104, R114 to R116). -/

namespace Sys2Proof.Machine

/-- The effective address s[a] + imm14 (R114, R115). -/
def scalarEa (g : Group) (a : BitVec 6) (i : BitVec 14) : Nat := (g.readS a + i.signExtend 64).toNat

/-- The checks of R116 for a global access, in the table's order. [DESIGN CHOICE, log entry 83] -/
def scalarReach (s : State) (g : Group) (k : OpKind) (va : Nat) : Except Code Page × State :=
  if va % 8 != 0 || decide (2 ^ 60 ≤ va) || inHamper (s.grid? g.grid) va 8 then (.error .access, s)
  else
    match translate s g.vf g.core va with
    | (.error c, s) => (.error c, s)
    | (.ok p, s) =>
      match kindCheck k 8 p with
      | some c => (.error c, s)
      | none => (.ok p, s)

/-- A scalar access takes its place in program order, and the stream goes on (R104). The result of an `sldp` takes at least 6 cycles
(R103). -/
def scalarOp (s : State) (k : OpKind) (sp : Space) (d a : BitVec 6) (i : BitVec 14) (ea : Nat) (p : Page) : State :=
  let g := s.cur
  let l : LaneReq := { lane := 0, ea := ea, xl := .ok p, data := if k == .store then toBytes 8 (g.readS d).toNat else [],
                       cmp := [], rd := [], stage := .wait }
  let o : Op :=
    { id := s.nextId, gid := g.gid, scalar := true, seq := g.seqNext, side := 0, run := 0, word := 0, pc := g.pc, kind := k,
      space := sp, order := 0, scope := 2, typ := .n64, nbytes := 8, hint := 0, dst := d.toNat, base := a.toNat, off := i.signExtend 64, lanes := [l],
      checked := false, asked := false, floor := g.acqfloor, issuedAt := s.gtc, ready := s.later.1, bound := g.febound.toNat,
      stamp := g.stamp0, vmax := 0, held := false, sent := none }
  let board := fun (g : Group) => if k == .load && sp == .scratch && d != 0 then sset g.sboard 0 d.toNat (s.cycle + 6) else g.sboard
  launchOp (s.onCur (fun g => { g.next s.cycle with seqNext := g.seqNext + 1, sboard := board g })) o

/-- A scalar access of global space (R114). -/
def scalarGlobal (k : OpKind) (d a : BitVec 6) (i : BitVec 14) (s : State) : Host.Outcome State Fault Refusal :=
  withCur s (
    if k == .load && !mayWriteS s d then s.hold
    else
      let ea := scalarEa s.cur a i
      match scalarReach s s.cur k ea with
      | (.error c, s) => raiseScalar s c ea
      | (.ok p, s) => scalarOp s k .global d a i ea p)

/-- A scalar access of the team's scratchpad (R115). For an address that is both misaligned and beyond the allocation R116
gives no order: here it is an ACCESS, the first of its table. [DESIGN CHOICE, log entry 83] -/
def scalarScratch (k : OpKind) (d a : BitVec 6) (i : BitVec 14) (s : State) : Host.Outcome State Fault Refusal :=
  withCur s (
    if k == .load && !mayWriteS s d then s.hold
    else
      let ea := scalarEa s.cur a i
      if ea % 8 != 0 then raiseScalar s .access ea
      else if (s.teamOf s.cur).scrSize < ea + 8 then raiseScalar s .scrBounds 0
      else scalarOp s k .scratch d a i ea scratchPage)

/-- `sld` (R114). -/
def execSld (d a : BitVec 6) (i : BitVec 14) (s : State) : Host.Outcome State Fault Refusal := scalarGlobal .load d a i s
/-- `sst` (R114). -/
def execSst (d a : BitVec 6) (i : BitVec 14) (s : State) : Host.Outcome State Fault Refusal := scalarGlobal .store d a i s
/-- `sldp` (R115). -/
def execSldp (d a : BitVec 6) (i : BitVec 14) (s : State) : Host.Outcome State Fault Refusal := scalarScratch .load d a i s
/-- `sstp` (R115). -/
def execSstp (d a : BitVec 6) (i : BitVec 14) (s : State) : Host.Outcome State Fault Refusal := scalarScratch .store d a i s

end Sys2Proof.Machine
end

