-- ==== Sys2Proof/Machine/Atomic.lean ====
section
/-! DEFINITION. Atomics and reductions: the words, their entries and return slots, and the Ant (R299 to R308). -/

namespace Sys2Proof.Machine

/-- The lanes of an atomic, each translated at issue (R307): the lanes and the state with its TLBs filled. -/
def atomLanes (s : State) (k : OpKind) (n : Nat) : List LaneReq → List LaneReq × State
  | [] => ([], s)
  | l :: r =>
    let (l, s) :=
      match l.xl with
      | .need =>
        match translate s s.cur.vf s.cur.core l.ea.toNat with
        | (.error c, s) => ({ l with xl := .bad c }, s)
        | (.ok p, s) => ({ l with xl := match kindCheck k n p with | some c => .bad c | none => .ok p }, s)
      | _ => (l, s)
    let (ls, s) := atomLanes s k n r
    (l :: ls, s)

/-- Return slots of the group that lanes would take are held (R301). [DEDUCED, log entry 42] -/
def slotsHeld (s : State) (g : Group) (lanes : List LaneReq) : Bool :=
  s.ops.any (fun o => o.gid == g.gid && (match o.kind with | .atom _ => true | _ => false) &&
    o.lanes.any (fun l => lanes.any (fun m => m.lane == l.lane)))

/-- A run is parked at its word, to be tried again in the next cycle. One whose group is to be saved gives up its decoder and quarters
and leaves its stream (R298). -/
def Group.parkRun (g : Group) (cycle seq : Nat) : Group :=
  let g := g.modRun seq (fun r => { r with parked := true, sides := r.sides.map (fun d => { d with next := max d.next (cycle + 1) }) })
  if g.preempt then g.releaseParked else g

/-- The run waits at the word for an engine (R298). [DEDUCED, log entry 42] -/
def park (s : State) (q : Issue) : State := s.onCur (·.parkRun s.cycle q.run.seq)

/-- `atom` and `red` (R302, R307): checked at issue, precise; parked while an entry or a return slot is missing. [DEDUCED, log entries 27 and 43] -/
def atomWord (i : Instr) (w : MemOp) (k : OpKind) (ret : Bool) (s : State) : Host.Outcome State Fault Refusal :=
  let n := if w.typ.is64 then 8 else 4
  gatheredWord i (formLane s w k n) s (fun q lanes =>
    let (lanes, s) := atomLanes s k n lanes
    if lanes.isEmpty then s.issued q i
    else
      match firstCode lanes with
      | some (c, ls) => raiseWord s q c (maskOf (ls.map (fun l => l.lane))) (faultAddr c ls)
      | none =>
        if !entriesFree s s.cur (homesOf lanes).length || (ret && slotsHeld s s.cur lanes) then park s q
        else (launchOp s (memOp s q w k n lanes)).issued q i)

/-- `atom` (R302 to R305). -/
def execAtom (w : MemOp) (s : State) : Host.Outcome State Fault Refusal := atomWord (.atom w) w (.atom w.mod) true s
/-- `red` (R302 to R305). -/
def execRed (w : MemOp) (s : State) : Host.Outcome State Fault Refusal := atomWord (.red w) w (.red w.mod) false s

/-! The Ant. -/

/-- f32 addition at memory: nearest even, subnormals kept (R304). -/
def antFadd (m v : Nat) : Nat := (fmtF32.write 0 false false (fpAdd false (fmtF32.decode m) (fmtF32.decode v))).1

/-- The new value of a word of `n` bytes (R304). -/
def antApply (sub : Nat) (t : LType) (n m v c : Nat) : Nat :=
  let w := 8 * n
  let lt := fun (a b : Nat) => decide (signedOf w a < signedOf w b)
  match sub with
  | 0x0 => (m + v) % 2 ^ w
  | 0x1 => antFadd m v
  | 0x2 => if t == .f32 then (fmtF32.minMax false m v).1 else if lt v m then v else m
  | 0x3 => if t == .f32 then (fmtF32.minMax true m v).1 else if lt m v then v else m
  | 0x4 => min m v
  | 0x5 => max m v
  | 0x6 => m &&& v
  | 0x7 => m ||| v
  | 0x8 => m ^^^ v
  | 0x9 => v
  | 0xA => if m = c then v else m
  | 0xB => if v ≤ m then 0 else m + 1
  | 0xC => if m = 0 ∨ v < m then v else m - 1
  | _ => (fmtF32.minMax true (m % 2 ^ 31) (v % 2 ^ 31)).1

/-- One read-modify-write at its home: the value before, or nothing where an uncorrectable error is met (R300, R308). A WAIT on the word
is read again, and a packet whose counter it leaves at 0 or less has become ready (R358, R363). [DEDUCED, log entry 19] -/
def antWord (s : State) (pa n : Nat) (ref : WRef) (f : Nat → Nat) : Option (List Byte × Nat) × State :=
  if hasErr s pa n then (none, s)
  else
    let old := homeBytes s pa n
    let s := (l2Touch s pa n).count (ctrAnt (homeOf pa) 0) 1
    let (v, s) := arrive s pa (toBytes n (f (ofBytes old))) pathLane ref
    let passed := decide (signedOf 64 (ofBytes (homeBytes s (pa / 8 * 8) 8)) ≤ 0)
    let due := fun (k : Pkt) => k.pa / 8 == pa / 8 && (k.st != .waiting || passed)
    (some (old, v), { s with pkts := mapIf s.pkts due (fun k => { k with recheck := 0 }) })

/-- The sub-operation of an atomic kind. -/
def OpKind.sub : OpKind → Nat
  | .atom c => c.toNat
  | .red c => c.toNat
  | _ => 0

/-- A lane of a request applied at its Ant; one on a peer page leaves the package as a peer store (R222, R307). -/
def antLane (s : State) (o : Op) (vf : Nat) (l : LaneReq) : State :=
  match l.xl with
  | .ok p =>
    if p.ptype == 2 then
      let (b, s) := freeBytes s o.nbytes
      let s := storeOut s vf o.gid p l.data
      setLane s o.id l.lane (fun l => { l with rd := b, stage := .done })
    else
      match antWord s p.pa o.nbytes (.op o.id l.lane) (fun m =>
          antApply o.kind.sub o.typ o.nbytes m (ofBytes l.data) (ofBytes l.cmp)) with
      | (some (old, v), s) => setLane s o.id l.lane (fun l => { l with rd := old, stage := .sent v })
      | (none, s) => setLane s o.id l.lane (fun l => { l with stage := .err })
  | _ => s

/-- The request of an operation to a home may reach its Ant: its lanes there may perform, and no earlier request of the core
to that home is still to go, whatever that one waits for (R300). -/
def requestLanes (s : State) (op home : Nat) : Option (Group × Op × List LaneReq) :=
  match s.op? op with
  | none => none
  | some o =>
    match s.group? o.gid with
    | none => none
    | some g =>
      let at_ := fun (o : Op) => o.lanes.filter (fun l => l.waits && atomHome l == home)
      let ok := o.checked && !o.unasked && o.kind.isAtomic && !(at_ o).isEmpty && (at_ o).all (fun l => orderOk s g o { l with lane := 0 })
      let first := s.ops.all (fun a => decide (o.id ≤ a.id) || !a.kind.isAtomic || (at_ a).isEmpty || (match s.group? a.gid with
        | some h => h.core != g.core
        | none => true))
      if ok && first && !(at_ o).any (fun l => match l.xl with | .ok p => peerHeld s g.vf p | _ => false) then some (g, o, at_ o) else none

/-- The lanes of a matrix request: those of its octet with an active row (R230). -/
def MxReq.lanes (r : MxReq) : Word64 := (r.rows.zeroExtend 64) <<< (8 * r.octet)

/-- Raises a fault of a matrix request at its word (R243, R308). -/
def raiseMx (s : State) (r : MxReq) (c : Code) (faddr : Nat) : State :=
  match s.group? r.gid with
  | none => s
  | some g =>
    let s := s.modReq r.id (fun r => { r with held := true })
    raise s r.gid { code := c, src := .mx r.id, pc := g.pc, lane := true, run := r.run, word := r.word, side := r.side,
                    lmask := r.lanes, faddr := BitVec.ofNat 64 faddr, gtime := s.timeOf g, imm := 0, isBrk := false,
                    prog := 0, level := 0 }

/-- The absmax reduction of a drained octet reaches its Ant (R248), or the port of its peer page. [DEDUCED, log entry 42] -/
def antDrain (s : State) (req : Nat) : State :=
  match s.req? req with
  | none => s
  | some r =>
    match r.amax, (r.pages.find? (fun p => p.1 == r.amaxAddr.toNat / 65536)).map (fun p => p.2) with
    | some x, some p =>
      let pa := p.pa + r.amaxAddr.toNat % 65536
      if r.held || r.stage != .finishing then s
      else if p.ptype == 2 then
        if peerHeld s r.vf { p with pa := pa } then s
        else (storeOut s r.vf r.gid { p with pa := pa } (toBytes 4 x.toNat)).modReq req (fun r => { r with amax := none })
      else
        match antWord s pa 4 (.req req) (fun m => antApply 0xD .f32 4 m x.toNat 0) with
        | (some _, s) => s.modReq req (fun r => { r with amax := none, pending := r.pending + 1 })
        | (none, s) => raiseMx s r .dataError r.amaxAddr.toNat
    | _, _ => s

/-- ANT_REQUEST (R300): the lanes of one request, ascending and back to back; or the absmax reduction of a drain (R248). [DEDUCED, log entry 42] -/
def execAntRequest (op home : Nat) (s : State) : Host.Outcome State Fault Refusal :=
  .next (
    match requestLanes s op home with
    | none => antDrain s op
    | some (g, o, ls) => settle (ls.foldl (fun s l => antLane s o g.vf l) s) op)

end Sys2Proof.Machine
end

