-- ==== Sys2Proof/Machine/Consistency.lean ====
section
/-! DEFINITION. Homes, leases, walks and host pages, fences and path bridges (R181 to R186, R189, R190, R192, R193, R202, R203,
R207 to R212, R217, R219 to R223). -/

namespace Sys2Proof.Machine

/-! Reads and writes of one lane. -/

/-- A lane load miss that matches a victim entry of its group counts once (R294). -/
def lostLocality (s : State) (core vf slot region : Nat) : State :=
  if (s.core core).victims.contains (vf, region, slot) then
    (s.modCore core (fun c => { c with victims := c.victims.erase (vf, region, slot), lost := c.lost + 1 })).count (ctrCore core 5) 1
  else s

/-- Sector numbers of an access within its region. -/
def sectorIn (pa : Nat) : Nat := pa % 128 / 16
def sectorCount (pa n : Nat) : Nat := (sectorsOf pa n).length

/-- The page may be held in L1 (R182, R190). -/
def l1Allowed (o : Op) (p : Page) : Bool := o.space != .noLease && !p.nl && !p.nc

/-- The sectors that a word needs in a region, those of one lane and of every other lane there (R189). -/
def wordSpan (o : Op) (p : Page) : Span :=
  o.lanes.foldl (fun a l => match l.xl with
    | .ok q => if q.ptype == 0 && regionOf q.pa == regionOf p.pa then a.join { first := sectorIn q.pa, n := sectorCount q.pa o.nbytes } else a
    | _ => a) { first := sectorIn p.pa, n := sectorCount p.pa o.nbytes }

/-- The predictor entry of a lane word, by its index; scalar accesses have none (R189). -/
def predIndex (o : Op) : Nat := if o.scalar then 256 else (o.word + o.run) % 256

/-- The size that a word asks for on a miss (R189, R190); a prefetch asks as hint 0, and a scalar access for the smallest block. -/
def askedSize (s : State) (g : Group) (o : Op) : Nat :=
  if o.scalar then 1 else fillSize (s.core g.core).pred (s.tstepOf g.vf != 0) (if o.kind == .pref then 0 else o.hint) (predIndex o)

/-- L1 serves the lane: a fresh block that was filled at or after the access's staging time, and no write of the core to these bytes that
is not visible yet (R211, R212, R221). -/
def l1Hit (s : State) (g : Group) (o : Op) (p : Page) : Bool :=
  (s.core g.core).l1.any (fun b => b.covers g.vf (regionOf p.pa) (sectorIn p.pa) (sectorCount p.pa o.nbytes) && b.fresh (s.timeOf g) &&
    decide (o.stamp ≤ b.filled)) && !unseenWrite s g.core p.pa o.nbytes

/-- The way of a load or prefetch of device memory through the caches (R189, R190, R202, R209 to R212, R221): an L1 hit, or a read at
home, which L1 holds under a lease where the hint and the page let it. A prefetch asks L2 for its sectors also where L1 has them, and
at hint 1 L2 alone; it counts in no counter. Every lane load that L1 does not serve counts as a miss, those that bypass L1 among them.
[DESIGN CHOICE, log entry 18] -/
def deviceFetch (s : State) (g : Group) (o : Op) (p : Page) : State :=
  let region := regionOf p.pa
  let f := sectorIn p.pa
  let n := sectorCount p.pa o.nbytes
  let pref := o.kind == .pref
  let hint := if pref then 0 else o.hint
  let l1 := l1Allowed o p && !(pref && o.hint == 1)
  let hit := l1 && l1Hit s g o p
  if hit && !pref then (l1Touch s g.core g.vf region f n).count (ctrCore g.core 6) 1
  else
    let size := askedSize s g o
    let need := wordSpan o p
    let s := if pref then s else s.count (ctrCore g.core 7) 1
    let s := if pref || o.scalar then s else lostLocality s g.core g.vf g.slot region
    let s := if p.nc then s else l2Access s (!pref) p.pa o.nbytes hint size need
    if l1 && !hit && hint != 3 then
      let h := s.homeTime p.pa
      let (e, s) := grantLease s p.pa g.lease.toNat
      l1Fill s g.core g.vf g.slot region hint (predIndex o) (coverBlock size need.first need.n) { first := f, n := n } e h
    else s

/-- The state of its sector that every lane of a word reads, and the sector staged (R219, R435). [DESIGN CHOICE, log entry 6] -/
def readSector (s : State) (g : Group) (o : Op) (sector : Nat) : List Byte × State :=
  pickSectors s pathLane g.core o.stamp none [sector]

/-- One lane of a load or prefetch reads its bytes of a sector. -/
def laneRead (bytes : List Byte) (s : State) (g : Group) (o : Op) (l : LaneReq) (p : Page) : State :=
  setLane (deviceFetch s g o p) o.id l.lane (fun l => { l with rd := (bytes.drop (p.pa % 16)).take o.nbytes, stage := .done })

/-- The lanes of an operation that wait for their turn on one sector of device memory: a word reads a sector in one state (R219, R435). -/
def sectorLanes (o : Op) (sector : Nat) : List LaneReq :=
  o.lanes.filter (fun l => l.waits && (match l.xl with | .ok p => p.ptype == 0 && p.pa / 16 == sector | _ => false))

/-- The lanes of a word that lie in one sector read it together, once all of them may (R198, R209, R219, R435). -/
def deviceRead (s : State) (g : Group) (o : Op) (p : Page) : State :=
  let ls := sectorLanes o (p.pa / 16)
  if !ls.all (fun l => orderOk s g o l) then s
  else
    let own := fun (l : LaneReq) => ls.any (fun m => m.lane == l.lane)
    if o.kind != .pref && hasErr s p.pa o.nbytes then
      s.modOp o.id (fun o => { o with lanes := mapIf o.lanes own (fun l => { l with stage := .err }) })
    else
      let (b, s) := if o.kind == .pref then ([], s) else readSector s g o (p.pa / 16)
      ls.foldl (fun s l => match l.xl with | .ok q => laneRead b s g o l q | _ => s) s

/-- `pin` of a region by a grid (R192, R203): the code, and the slice with the pin. -/
def pinRegion (s : State) (grid pa : Nat) : Nat × State :=
  let cl := homeOf pa
  let region := regionOf pa
  let l := (s.cluster cl).l2
  match l.find? (fun x => x.region == region && x.pin.isSome) with
  | some x => (if x.pin == some grid then 2 else 0, s)
  | none =>
    if pinsIn l (l2Set region) = 16 then (0, s)
    else
      (1, s.modCluster cl (fun c => { c with l2 := l2Fill { region := region, first := 0, n := 8, pin := some grid, way := 0 } c.l2 }))

/-- `unpin` of a region by a grid (R203). [DEDUCED, log entry 43] -/
def unpinRegion (s : State) (grid pa : Nat) : Nat × State :=
  let cl := homeOf pa
  let mine := fun (x : Line) => x.region == regionOf pa && x.pin == some grid
  if (s.cluster cl).l2.any mine then
    (1, s.modCluster cl (fun c => { c with l2 := mapIf c.l2 mine (fun x => { x with pin := none }) }))
  else (0, s)

/-- The kinds that are served by a read at home. -/
def OpKind.readsHome : OpKind → Bool
  | .load => true
  | .pref => true
  | .pin => true
  | .unpin => true
  | _ => false

/-- HOME_READ (R209, R210): a lane's read performs, with those of its word in the same sector. Host, peer and IO pages answer with free values (R182). [DESIGN CHOICE, log entry 47] -/
def execHomeRead (op lane : Nat) (s : State) : Host.Outcome State Fault Refusal :=
  .next (
    match readyLane s op lane with
    | none => s
    | some (g, o, l, p) =>
      if inScratch s g o.space || !o.kind.readsHome || peerDown s g.vf p then s
      else
        let done := fun (b : List Byte) (s : State) => settle (setLane s op l.lane (fun l => { l with rd := b, stage := .done })) op
        match o.kind with
        | .pin => let (c, s) := pinRegion s g.grid p.pa; done (toBytes 4 c) s
        | .unpin =>
          if p.ptype != 0 || p.nc then done (toBytes 4 0) s
          else let (c, s) := unpinRegion s g.grid p.pa; done (toBytes 4 c) s
        | _ =>
          match p.ptype.toNat with
          | 0 => settle (deviceRead s g o p) op
          | 3 => done (toBytes o.nbytes (Config.ioRead s.fresh).toNat) { s with fresh := s.fresh + 1 }
          | _ => let (b, s) := freeBytes s o.nbytes; done b s)

/-- HOME_WRITE_ARRIVAL (R207, R208): a lane's store reaches its home and gets its instant, or leaves the device. [DESIGN CHOICE, log entry 47] -/
def execHomeWriteArrival (op lane : Nat) (s : State) : Host.Outcome State Fault Refusal :=
  .next (
    match readyLane s op lane with
    | none => s
    | some (g, o, l, p) =>
      if o.kind != .store || inScratch s g o.space || peerHeld s g.vf p then s
      else if p.ptype == 0 then
        let s := if p.nc then s else l2Access s true p.pa o.nbytes o.hint (askedSize s g o) (wordSpan o p)
        let (v, s) := arrive s p.pa l.data pathLane (.op op lane)
        setLane s op lane (fun l => { l with stage := .sent v })
      else
        let s := storeOut s g.vf g.gid p l.data
        let s := setLane s op lane (fun l => { l with stage := .done })
        if p.ptype == 3 then s.modOp op (fun o => { o with vmax := max o.vmax (s.timeOf g) }) else s)

/-- The pending write that is visible first (R208). -/
def firstWrite (s : State) : Option PWrite :=
  (s.writes.filter (fun w => decide (w.v ≤ s.homeTime w.pa))).foldl (fun (a : Option PWrite) w =>
    match a with
    | none => some w
    | some x => if w.v < x.v || (w.v == x.v && decide (w.id < x.id)) then some w else some x) none

/-- The completion time of a write returns to its writer (R208, R214, R220). -/
def writeBack (s : State) (w : PWrite) : State :=
  match w.ref with
  | .op id lane => settle ((setLane s id lane (fun l => { l with stage := .done })).modOp id (fun o => { o with vmax := max o.vmax w.v })) id
  | .req id => s.modReq id (fun r => { r with pending := r.pending - 1, hmax := max r.hmax w.v })
  | .twe cmd recv => s.modTwe cmd (fun c => { c with
      hmax := max c.hmax w.v, recvs := mapIf c.recvs (·.team == recv) (fun r => { r with pending := r.pending - 1 }) })
  | .ffa team cmd => s.modTeam team (fun t => { t with ffa := t.ffa.map (fun f => { f with
      queue := mapIf f.queue (·.id == cmd) (fun c => { c with pending := c.pending - 1, hmax := max c.hmax w.v }) }) })
  | .pkt id => s.modPkt id (fun k => { k with h := max k.h w.v })
  | .host => s
  | .hub => s

/-- WRITE_VISIBLE (R208): at V the home applies the write whole. -/
def execWriteVisible (s : State) : Host.Outcome State Fault Refusal :=
  .next (
    match firstWrite s with
    | none => s
    | some w => writeBack (putWrite { s with writes := s.writes.filter (fun x => x.id != w.id) } w) w)

/-- LEASE_EXPIRY (R211): blocks of a region whose leases have run to within 2 ticks become stale. -/
def execLeaseExpiry (core region : Nat) (s : State) : Host.Outcome State Fault Refusal :=
  .next (s.modCore core (fun c => { c with
    l1 := mapIf c.l1 (fun b => b.region == region && decide (b.leaseEnd ≤ s.time (dieOf core) + 2)) (fun b => { b with stale := true }) }))

/-! Walks, host pages and invalidations (R181, R182, R185, R186). -/

/-- The lane's address lies in the walked page, or in the 64 KiB page of a failed walk. -/
def onPage (va level : Nat) (l : LaneReq) : Bool :=
  l.xl == .need && l.stage == .wait && l.ea.toNat / 2 ^ pageBits level == va / 2 ^ pageBits level

/-- Operations of a virtual function, with their cores. -/
def opsOfVf (s : State) (vf : Nat) : List (Op × Nat) :=
  s.ops.filterMap (fun o => match s.group? o.gid with | some g => if g.vf == vf then some (o, g.core) else none | none => none)

/-- PAGE_WALK (R181, R185): a walk ends; every lane that waits for the page has its translation or its fault. -/
def execPageWalk (vf : Nat) (va : Word64) (s : State) : Host.Outcome State Fault Refusal :=
  .next (
    let a := va.toNat
    match walk s vf a with
    | .error c =>
      let waits := (opsOfVf s vf).filter (fun e => e.1.lanes.any (onPage a 0))
      waits.foldl (fun s e => examine (s.modOp e.1.id (fun o => { o with
        lanes := mapIf o.lanes (onPage a 0) (fun l => { l with xl := .bad c }) })) e.1.id) s
    | .ok (entry, l) =>
      let waits := (opsOfVf s vf).filter (fun e => e.1.lanes.any (onPage a l))
      let s := waits.foldl (fun s e => tlbInsert s e.2 { vf := vf, level := l, vpn := a / 2 ^ pageBits l, entry := entry }) s
      waits.foldl (fun s e => examine s e.1.id) s)

/-- PRI_RESPONSE (R182): a requested host page is granted, or its accesses take XLATE: those of lanes at once, that of an engine when it
looks again. [DEDUCED, log entries 37 and 72] -/
def execPriResponse (vf page : Nat) (granted : Bool) (s : State) : Host.Outcome State Fault Refusal :=
  .next (
    if !s.priReqs.contains (vf, page) then s
    else
      let s := { s with priReqs := s.priReqs.filter (· != (vf, page)),
                        atsPages := if granted then s.atsPages ++ [(vf, page)] else s.atsPages }
      let here := fun (l : LaneReq) => l.stage == .pri && (match l.xl with | .ok p => p.pa / 4096 == page | _ => false)
      let engines := s.priEngines.contains (vf, page)
      let s := { s with priEngines := s.priEngines.filter (· != (vf, page)),
                        priRefused := if granted || !engines then s.priRefused else s.priRefused ++ [(vf, page)] }
      (opsOfVf s vf).foldl (fun s e => examine (if granted then s else s.modOp e.1.id (fun o => { o with
        lanes := mapIf o.lanes here (fun l => { l with xl := .bad .xlate, stage := .wait }) })) e.1.id) s)

/-- The level of the entry that an invalidation names: the largest that a TLB holds of the address, or that a walk finds there. -/
def namedLevel (s : State) (vf va : Nat) : Nat :=
  let held := (s.cores.flatMap (fun c => c.2.tlb) ++ s.tlb2.flatMap (fun q => q.2)).filter (·.covers vf va)
  (held.map (·.level) ++ (match walk s vf va with | .ok (_, l) => [l] | .error _ => [])).foldl max 0

/-- An access in flight uses a translation of the page of a level at an address: of lanes, of matrix requests, of tile-walk commands by
the bytes they may reach, and of the writes that an array, a command or the hub still has on their way. [DEDUCED, log entry 72] -/
def usesPage (s : State) (vf va level : Nat) : Bool :=
  let same := fun (a : Nat) => a / 2 ^ pageBits level == va / 2 ^ pageBits level
  (opsOfVf s vf).any (fun e => e.1.lanes.any (fun l => (match l.xl with | .ok _ => true | _ => false) &&
    e.1.kind != .gather && l.stage != .done && l.stage != .dropped && same l.ea.toNat)) ||
    s.clusters.any (fun c => c.2.reqs.any (fun r => r.vf == vf && r.stage != .frozen && r.pages.any (fun p => same (65536 * p.1)))) ||
    s.twe.any (fun c => c.vf == vf && c.recvs.any (fun r => decide (0 < r.pending) && r.pages.any (fun p => same (65536 * p)))) ||
    s.teams.any (fun t => t.vf == vf && (match t.ffa with
      | some f => f.queue.any (fun c => c.pages.any (fun p => same (65536 * p.1)))
      | none => false)) ||
    s.writes.any (fun w => match w.via with | some (f, p) => f == vf && same (65536 * p) | none => false)

/-- The ATS translations that an invalidation names (R186, R420): those of the host pages to which an entry that covers the address maps, in a
TLB or in the tables, and that of the address itself as a host bus address. [DEDUCED, log entry 37] -/
def atsNamed (s : State) (vf va : Nat) (page : Nat × Nat) : Bool :=
  let leaf := match walk s vf va with | .ok (e, l) => [{ vf := vf, level := l, vpn := va / 2 ^ pageBits l, entry := e }] | .error _ => []
  let known := (s.cores.flatMap (fun kc => kc.2.tlb)) ++ (s.tlb2.flatMap (fun kl => kl.2)) ++ leaf
  let hits := fun (e : TlbEntry) =>
    let base := (pageOf e.entry e.level (e.vpn * 2 ^ pageBits e.level)).pa
    e.covers vf va && decide (base ≤ 4096 * page.2) && decide (4096 * page.2 < base + 2 ^ pageBits e.level)
  page.1 == vf && (page.2 == va / 4096 || known.any hits)

/-- TRANSLATION_INVALIDATION (R186, R420): TLB entries that cover the address go, and the ATS translations that it names; the invalidation stays
pending while accesses that used one are in flight. -/
def execTranslationInvalidation (vf : Nat) (va : Word64) (s : State) : Host.Outcome State Fault Refusal :=
  let keep := fun (e : TlbEntry) => !e.covers vf va.toNat
  let known := s.invals.find? (fun e => e.1 == vf && e.2.1 == va)
  let level := match known with | some e => e.2.2 | none => namedLevel s vf va.toNat
  let s' := { s with cores := smapUpd s.cores Core.reset (fun c => { c with tlb := c.tlb.filter keep }),
                     tlb2 := smapUpd s.tlb2 [] (fun l => l.filter keep),
                     atsPages := s.atsPages.filter (fun p => !atsNamed s vf va.toNat p),
                     invals := s.invals.filter (· != (vf, va, level)) }
  .next (if usesPage s' vf va.toNat level then { s' with invals := s'.invals ++ [(vf, va, level)] } else s')

/-! Fences (R217, R221 to R223). -/

/-- Earlier runs have retired and earlier scalar accesses have completed (R217, R221). -/
def earlierDone (s : State) (g : Group) : Bool := g.runsRetired && !s.ops.any (fun o => o.gid == g.gid && o.scalar)

/-- The word waits for a tick; if that tick is past, its action is taken at once. -/
def untilTick (s : State) (t : Nat) (act : HorizonAct) (f : State → State) : State :=
  if t ≤ s.timeOf s.cur then f s else s.onCur (fun g => { g with stall := .horizon t act })

/-- The end of `fence` at T (R217). -/
def fenceEnd (t : Nat) (s : State) : State := s.onCur (fun g => { g.next s.cycle with acqfloor := t, stall := .none })

/-- The wait of `fence` once its horizon is known (R214, R217): while a remote writer of the group's is at work it is not. -/
def fenceWait (s : State) (sys : Bool) : State :=
  let g := s.cur
  if s.hdPending g.gid then s.hold else
  let t := max ((if sys then max g.hd g.hs else g.hd) + 2) g.acqfloor
  untilTick s t .fence (fenceEnd t)

/-- `fence` (R217). -/
def execFence (c : BitVec 2) (s : State) : Host.Outcome State Fault Refusal :=
  withCur s (
    if !earlierDone s s.cur then s.hold
    else if c.toNat = 3 then
      let (ids, s) := sendTokens s ((s.partOfVf s.cur.vf).getD 0)
      if ids.isEmpty then fenceWait s true else s.onCur (fun g => { g with stall := .fenceSys ids })
    else fenceWait s false)

/-- The end of `xfence` at T (R221). -/
def xfenceEnd (t p : Nat) (differ : Bool) (s : State) : State :=
  s.onCur (fun g => { (if differ then g.setStamp p t else g).next s.cycle with acqfloor := t, stall := .none })

/-- `xfence` (R221). -/
def execXfence (q p : BitVec 2) (s : State) : Host.Outcome State Fault Refusal :=
  withCur s (
    if !earlierDone s s.cur || (q = 0 && s.hdPending s.cur.gid) then s.hold
    else
      let g := s.cur
      let t := max (max (s.timeOf g + 2) (g.horizon q.toNat + 2)) g.acqfloor
      untilTick s t (.xfence p.toNat (q != p)) (xfenceEnd t p.toNat (q != p)))

/-- The groups that wait for a token or flush read, by a fence or a release at system scope. -/
def tokenWaiters (s : State) (id : Nat) : List Nat :=
  (s.groups.filter (fun g => match g.stall with | .fenceSys ids => ids.contains id | _ => false)).map (fun g => g.gid) ++
    (s.ops.filter (fun o => match o.sent with | some ids => ids.contains id | none => false)).map (fun o => o.gid)

/-- The token or flush read stands behind the store: one of its partition, on its port or to the host, that had left before it. -/
def Token.stands (s : State) (t : Token) (x : OutStore) (place : Nat) : Bool :=
  decide (place < t.behind) && x.part == t.part && !x.settled &&
    (if t.flush then x.ptype == 1 else x.ptype == 2 && portOf s x.addr == t.port)

/-- A group's Hs joined with the local GTC, wherever the group stands (R214, R222, R223). -/
def joinHs (s : State) (gid : Nat) : State :=
  let s := s.modGroup gid (fun g => { g with hs := max g.hs (s.timeOf g) })
  { s with teams := s.teams.map (fun (t : Team) => { t with saved := mapIf t.saved (·.gid == gid) (fun g => { g with hs := max g.hs s.gtc }) }) }

/-- An answer arrives: its completion time is the local GTC of each group that waits for it or whose stores it covers (R214, R222,
R223). -/
def tokenAnswered (s : State) (t : Token) : State :=
  let l := s.outStores.zipIdx
  let gids := tokenWaiters s t.id ++ ((l.filter (fun x => t.stands s x.1 x.2)).map (fun x => x.1.gid))
  let out := l.map (fun x => if t.stands s x.1 x.2 then { x.1 with settled := true } else x.1)
  let s := (gids.foldl (fun l x => insertNat x l) []).foldl joinHs { s with outStores := out }
  { s with tokens := s.tokens.filter (fun x => x.id != t.id) }

/-- The stores up to a count are covered, unless later ones are already (R391). -/
def Port.cover (p : Port) (part count : Nat) : Port :=
  if fenceGap (sget p.covered 0 part) count < 2 ^ 31 then { p with covered := sset p.covered 0 part count } else p

/-- FENCE_TOKEN_ANSWER (R222): held while the port is down. [DEDUCED, log entry 72] -/
def execFenceTokenAnswer (token : Nat) (s : State) : Host.Outcome State Fault Refusal :=
  .next (
    match s.tokens.find? (fun t => t.id == token && !t.flush) with
    | none => s
    | some t =>
      if (s.port t.port).down || decide (s.gtc < (s.part t.part).retrainAt) then s
      else
        tokenAnswered (s.modPort t.port (·.cover t.part t.count)) t)

/-- FLUSH_READ_COMPLETION (R223): every earlier posted store of the partition has reached the host. [DEDUCED, log entry 72] -/
def execFlushReadCompletion (token : Nat) (s : State) : Host.Outcome State Fault Refusal :=
  .next (
    match s.tokens.find? (fun t => t.id == token && t.flush) with
    | none => s
    | some t => tokenAnswered s t)

end Sys2Proof.Machine
end

