-- ==== Sys2Proof/Machine/MatrixData.lean ====
section
/-! DEFINITION. The arithmetic and the operands of the matrix engine (R50, R51, R61 to R63, R231 to R233, R237). -/

namespace Sys2Proof.Machine

/-! Formats. -/

/-- Group length of a block length code (R232). -/
def groupLen (code : Nat) : Nat := 16 * 2 ^ code

/-- Packed bytes of `k` elements of a format (R50, R233). -/
def packedBytes (elem k : Nat) : Nat :=
  match elem with
  | 0xE => k / 2
  | 0xF => 3 * k / 8
  | 5 => 2 * k
  | _ => k

/-- The combinations of R232 for the A side and the B side. -/
def aCtlOk (chain : Bool) (c : Nat) : Bool :=
  decide (c < 256) && ctlBlock c == 0 &&
    (if chain then (ctlElem c == 0xB && ctlScale c == 2) || (ctlElem c == 5 && ctlScale c == 0)
     else (ctlElem c == 0xB || ctlElem c == 0xC || ctlElem c == 5) && (ctlScale c == 0 || ctlScale c == 2))
def bCtlOk (c : Nat) : Bool :=
  decide (c < 256) &&
    (if ctlElem c == 0xE || ctlElem c == 0xF then ctlBlock c != 0 && ctlScale c == 1
     else (ctlElem c == 0xB || ctlElem c == 0xC || ctlElem c == 5) && ctlBlock c == 0 && (ctlScale c == 0 || ctlScale c == 2))

/-- The block passes R231 to R233 for a request of depth K at a B address; K is at most 256 when chained (R235). -/
def fmtOk (chain : Bool) (f : BitVec 256) (k : Nat) (b : Nat) : Bool :=
  let bc := fmtBctl f
  f.extractLsb' 208 48 == 0 && fmtAscale f < 2 ^ 60 && fmtBscale f < 2 ^ 60 && aCtlOk chain (fmtActl f) && bCtlOk bc &&
    (ctlScale (fmtActl f) != 2 || fmtAscale f % 4 == 0) && (ctlScale bc != 2 || fmtBscale f % 4 == 0) &&
    b % 16 == 0 && fmtBstride f % 16 == 0 && decide (packedBytes (ctlElem bc) k ≤ fmtBstride f) &&
    (ctlScale bc != 1 ||
      decide (2 * ((k + groupLen (ctlBlock bc) - 1) / groupLen (ctlBlock bc)) ≤ fmtBsstride f)) && fmtBsstride f % 2 == 0 &&
    (!chain || decide (k ≤ 256))

/-! Values. -/

/-- A result taken as a datum again. -/
def FRes.val : FRes → FVal
  | .nan _ => .nan false
  | .inf n _ => .inf n
  | .fin n m e => .fin n m e

/-- An exact product (R62). -/
def mulVal (a b : FVal) : FVal := (fpMul a b).val

/-- Element `i` of a packed row (R50, R232). -/
def element (elem : Nat) (row : List Byte) (i : Nat) : FVal :=
  let byte := fun (n : Nat) => (row.getD n 0).toNat
  let int := fun (x : Int) => FVal.fin (decide (x < 0)) x.natAbs 0
  match elem with
  | 0xE => int (signedOf 4 (byte (i / 2) / 16 ^ (i % 2)))
  | 0xF => int (signedOf 3 ((byte (i / 8 * 3) + 256 * byte (i / 8 * 3 + 1) + 65536 * byte (i / 8 * 3 + 2)) / 8 ^ (i % 8)))
  | 5 => fmtBf16.decode (byte (2 * i) + 256 * byte (2 * i + 1))
  | 0xC => fmtE5m2.decode (byte i)
  | _ => fmtE4m3.decode (byte i)

/-- The exact sum of a chunk's products (R62). -/
def exactSum (l : List FVal) : FVal :=
  if l.any (fun x => x.isNan) then .nan false
  else
    let infs := l.filterMap (fun x => match x with | .inf n => some n | _ => none)
    if infs.contains true && infs.contains false then .nan false
    else
      match infs with
      | n :: _ => .inf n
      | [] =>
        let low := (l.map (fun x => match x with | .fin _ _ e => e | _ => 0)).foldl min 0
        let sum : Int := (l.map (fun x => match x with | .fin n m e => signedInt n (m * 2 ^ (e - low).toNat) | _ => 0)).foldl (· + ·) 0
        if sum = 0 then
          .fin (!l.isEmpty && l.all (fun x => match x with | .fin n m _ => n && m == 0 | _ => false)) 0 low
        else .fin (decide (sum < 0)) sum.natAbs low

/-- One chunk step: acc := rne_fp32(acc + s) (R61). -/
def chunkStep (acc : Word32) (s : FVal) : Word32 :=
  BitVec.ofNat 32 (fmtF32.write 0 false false (fpAdd false (fmtF32.decode acc.toNat) s)).1

/-- The chunks from `c` on of one element (R61). -/
def chunksFrom (a b : List FVal) (acc : Word32) (n : Nat) : Word32 :=
  match n with
  | 0 => acc
  | n + 1 => chunksFrom (a.drop 16) (b.drop 16) (chunkStep acc (exactSum (((a.take 16).zip (b.take 16)).map (fun p => mulVal p.1 p.2)))) n

/-- The down-converter: the value of an element of a chained source (R237). -/
def downConvert (elem : Nat) (c : Word32) (x : Word32) : FVal :=
  let v := fmtF32.decode x.toNat
  if elem == 5 then fmtBf16.decode (toFloat fmtBf16 0 true false v).1
  else
    let s := fmtF32.decode c.toNat
    let r := match fpDiv v s with
      | .nan _ => fmtE4m3.nan
      | .inf n _ => fmtE4m3.signBit n + fmtE4m3.maxBits
      | .fin n m e => (fmtE4m3.round 0 true false n m e).1
    mulVal (fmtE4m3.decode r) s

/-- The drain's conversion of an f32 to e4m3 with a scale, or to bf16 (R246). -/
def drainElem (e4m3 sat : Bool) (c : Word32) (x : Word32) : List Byte :=
  if e4m3 then
    let r := match fpDiv (fmtF32.decode x.toNat) (fmtF32.decode c.toNat) with
      | .nan _ => fmtE4m3.nan
      | .inf n _ => if sat then fmtE4m3.signBit n + fmtE4m3.maxBits else fmtE4m3.nan
      | .fin n m e => (fmtE4m3.round 0 sat false n m e).1
    [BitVec.ofNat 8 r]
  else toBytes 2 (toFloat fmtBf16 0 sat false (fmtF32.decode x.toNat)).1

/-! Operands in memory. -/

/-- The page of an address among those translated at issue. -/
def pageAt (pages : List (Nat × Page)) (va : Nat) : Option Page :=
  (pages.find? (fun p => p.1 == va / 65536)).map (fun p => { p.2 with pa := p.2.pa + va % 65536 })

/-- A read of an engine of a core or cluster through pages translated at issue, as a demand access to L2: bytes, and whether an
uncorrectable error was met (R192, R219, R243). -/
def engineRead (s : State) (pages : List (Nat × Page)) (path unit stamp : Nat) (own : Option Nat) (va : Nat) :
    (chunks : List Nat) → List Byte × Bool × State
  | [] => ([], false, s)
  | n :: r =>
    let (b, e, s) :=
      match pageAt pages va with
      | none => let (b, s) := freeBytes s n; (b, false, s)
      | some p =>
        if p.ptype == 0 then
          let s := if p.nc then s else l2TouchAll (n / 128 + 2) s p.pa n
          let (b, t) := stagedSince s path unit stamp own p.pa n
          (b, hasErr s p.pa n, t)
        else let (b, s) := freeBytes s n; (b, false, s)
    let (c, e', s) := engineRead s pages path unit stamp own (va + n) r
    (b ++ c, e || e', s)

/-- Chunks `first` to `first + n − 1` of the 256 columns of B with their group scales, a per-tensor scale apart: values, and whether an
error was met in what was read (R233, R243). [DEDUCED, log entry 45] -/
def readColumns (s : State) (r : MxReq) (stamp : Nat) (own : Option Nat) (n : Nat) : List Nat → List (List FVal) × Bool × State
  | [] => ([], false, s)
  | c :: rest =>
    let bc := fmtBctl r.fmt
    let unit := clusterOf r.core
    let from_ := 16 * r.next
    let per := packedBytes (ctlElem bc) 16
    let at_ := r.bAddr.toNat + c * fmtBstride r.fmt + per * r.next
    let (b, e, s) := engineRead s r.pages pathMx unit stamp own at_ (cuts at_ (per * n))
    let g := groupLen (ctlBlock bc)
    let g0 := from_ / g
    let (sc, e1, s) :=
      if ctlScale bc == 1 then
        let a := fmtBscale r.fmt + c * fmtBsstride r.fmt + 2 * g0
        engineRead s r.pages pathMx unit stamp own a (cuts a (2 * ((from_ + 16 * n - 1) / g + 1 - g0)))
      else ([], false, s)
    let scale := fun (i : Nat) =>
      let j := 2 * ((from_ + i) / g - g0)
      if ctlScale bc == 1 then fmtBf16.decode ((sc.getD j 0).toNat + 256 * (sc.getD (j + 1) 0).toNat) else .fin false 1 0
    let vals := (List.range (16 * n)).map (fun i => mulVal (element (ctlElem bc) b i) (scale i))
    let (cols, e2, s) := readColumns s r stamp own n rest
    (vals :: cols, e || e1 || e2, s)

/-- The rows of a request that are active, ascending. -/
def MxReq.rowList (r : MxReq) : List Nat := (List.range 8).filter (fun i => r.rows.getLsbD i)

/-- The values of `n` chunks of row `i` of A from the request's next one on, and whether an error was met in what was read: a
scratchpad sector that has changed since issue is read old or new (R233, R236, R237, R239, R243). [DEDUCED, log entry 45] -/
def readRow (s : State) (r : MxReq) (snap : SMap Word32) (n i : Nat) : List FVal × Bool × State :=
  let ac := fmtActl r.fmt
  match r.src with
  | some src =>
    ((List.range (16 * n)).map (fun j => downConvert (ctlElem ac) r.aScale (sget snap 0 (src * 2048 + i * 256 + 16 * r.next + j))), false, s)
  | none =>
    let t := (s.team? r.team).getD Team.none_
    let per := packedBytes (ctlElem ac) 16
    let a := r.rowAddr.getD i 0 + per * r.next
    let bad := (wordsOf a (per * n)).any (fun w => t.errs.contains w)
    let (row, s) := readSince s t r.mark a (per * n)
    let scale := if ctlScale ac == 2 then fmtF32.decode r.aScale.toNat else .fin false 1 0
    ((List.range (16 * n)).map (fun j => mulVal (element (ctlElem ac) row j) scale), bad, s)

/-- The accumulator that a request starts from at a row and column: the slot, or its own running sum after a freeze. -/
def startAcc (t : Team) (r : MxReq) (i n : Nat) : Word32 :=
  if r.next = 0 then sget t.acc 0 (r.dst * 2048 + i * 256 + n) else sget r.part 0 (i * 256 + n)

/-- Columns of B under a request's own per-tensor scale, as it was read when the word issued (R233, R241). -/
def MxReq.scaled (r : MxReq) (cols : List (List FVal)) : List (List FVal) :=
  if ctlScale (fmtBctl r.fmt) == 2 then cols.map (fun c => c.map (fun x => mulVal x (fmtF32.decode r.bScale.toNat))) else cols

/-- The running sums of a request after `n` more chunks, by row × 256 + column (R61, R236). -/
def sums (s : State) (r : MxReq) (cols : List (List FVal)) (snap : SMap Word32) (n : Nat) :
    (rows : List Nat) → List (Nat × Word32) × Bool × State
  | [] => ([], false, s)
  | i :: rest =>
    let t := (s.team? r.team).getD Team.none_
    let (a, e, s) := readRow s r snap n i
    let row := (cols.zipIdx).map (fun c => (i * 256 + c.2, chunksFrom a c.1 (startAcc t r i c.2) n))
    let (more, e', s) := sums s r cols snap n rest
    (row ++ more, e || e', s)

end Sys2Proof.Machine
end

