-- ==== Sys2Proof/Machine/Matrix.lean ====
section
/-! DEFINITION. The matrix words and their checks (R229, R230, R234 to R236, R244 to R246), the reservation table, passes,
the slot port and freezes (R238 to R243, R248 to R250). -/

namespace Sys2Proof.Machine

/-! Words. -/

/-- The octets that a word engages, each with its active rows (R230). -/
def octets (width : Nat) (act : Word64) : List (Nat × BitVec 8) :=
  ((List.range (width / 8)).map (fun m => (m, act.extractLsb' (8 * m) 8))).filter (fun o => o.2 != 0)

/-- The scalar that a class 0 special operand names (R234). -/
def namedScalar (g : Group) (o : Operand) : Word64 :=
  match o with
  | .special _ n => g.readS n
  | _ => 0

/-- Slot base of a word (R230). -/
def slotBase (w : LaneOp) : Nat := (w.ext.extractLsb' 6 8).toNat

/-- The slot in D of a chained `mx.q` (R234). -/
def sourceSlot (w : LaneOp) : Nat := match w.d with | .mrf n => n.toNat | _ => 0

/-- The table entries held on a cluster, of all classes or of those other than 0 (R235, R240). A drain holds its entry while it is served; whether
that takes in its writes the manual does not say: here it ends when its slot rows have been read. [DESIGN CHOICE, log entry 45] -/
def tableHeld (c : Cluster) (others : Bool) : Nat :=
  (c.reqs.filter (fun r => r.stage != .finishing && r.stage != .frozen && (!others || r.cls != 0))).length

/-- The table has a free entry for each of `need` octets (R235, R298). -/
def tableFree (c : Cluster) (cls need : Nat) : Bool :=
  decide (tableHeld c false + need ≤ 64) && (cls == 0 || decide (tableHeld c true + need ≤ 60))

/-- Pages of ranges of addresses, each within one 64 KiB page, translated for a need: the pages, what fails, whether a host page is
awaited (R182, R235). IO pages are refused. -/
def gather (s : State) (g : Group) (need : Need) : List (Nat × Nat) → List (Nat × Page) × List (Code × Nat) × Bool × State
  | [] => ([], [], false, s)
  | (va, n) :: r =>
    let (x, s) := reach s g.vf g.core (s.grid? g.grid) va n need
    let (ps, cs, w, s) := gather s g need r
    match x with
    | .error (.fault c) => (ps, (c, va) :: cs, w, s)
    | .error .page => (ps, cs, true, s)
    | .ok p =>
      if p.ptype == 3 then (ps, (.access, va) :: cs, w, s)
      else if ps.any (fun e => e.1 == va / 65536) then (ps, cs, w, s)
      else ((va / 65536, { p with pa := p.pa / 65536 * 65536 }) :: ps, cs, w, s)

/-- Device pages of ranges of addresses, each within one 64 KiB page: the pages and what fails (R272). -/
def gatherDevice (s : State) (g : Group) (need : Need) : List (Nat × Nat) → List (Nat × Page) × List (Code × Nat) × State
  | [] => ([], [], s)
  | (va, n) :: r =>
    let (x, s) := reachDevice s g.vf g.core (s.grid? g.grid) va n need
    let (ps, cs, s) := gatherDevice s g need r
    match x with
    | .error c => (ps, (c, va) :: cs, s)
    | .ok p => if ps.any (fun e => e.1 == va / 65536) then (ps, cs, s) else ((va / 65536, { p with pa := p.pa / 65536 * 65536 }) :: ps, cs, s)

/-- A range cut at page boundaries. -/
def spans (va n : Nat) : List (Nat × Nat) := ((cuts va n).foldl (fun (a : List (Nat × Nat) × Nat) k => (a.1 ++ [(a.2, k)], a.2 + k)) ([], va)).1

/-- ACCESS before XLATE (R187). -/
def worst (cs : List (Code × Nat)) : Option (Code × Nat) := (cs.find? (fun c => c.1 == .access)).orElse (fun _ => cs.head?)

/-- A fault of a matrix word at issue: code, lanes and address. -/
structure MxFault where
  code : Code
  lanes : Word64
  addr : Nat

/-- A per-tensor scale read at issue: its bits, or DATA_ERROR (R233, R235 check 6). -/
def readScale (s : State) (pages : List (Nat × Page)) (stamp va : Nat) : Word32 × Bool × State :=
  let (b, e, s) := engineRead s pages pathMx (clusterOf s.cur.core) stamp none va [4]
  (BitVec.ofNat 32 (ofBytes b), e, s)

/-- A normal f32 (R235 check 7). -/
def normalF32 (x : Word32) : Bool := x.extractLsb' 23 8 != 0 && x.extractLsb' 23 8 != 0xFF

/-- A request of an octet before its kind's fields are filled. -/
def baseReq (s : State) (q : Issue) (kind : MxKind) (dst : Nat) (m : Nat) (rows : BitVec 8) : MxReq :=
  let g := s.cur
  { id := s.nextId, gid := g.gid, team := g.team, vf := g.vf, core := g.core, slot := g.slot, octet := m, cls := g.cls,
    seq := q.run.seq, side := q.side.side, run := q.side.idx, word := q.side.wi, kind := kind, rows := rows, dst := dst,
    src := none, chunks := 0, next := 0, bAddr := 0, fmt := 0, aScale := 0, bScale := 0, rowAddr := [], mark := 0,
    reg := 0, col := 0, wdata := [], mod := 0, e4m3 := false, scale := 0, amaxAddr := 0, amax := none, pages := [],
    stamp := g.stamp2, since := none, window := none, closed := false, stage := .waiting, part := [], held := false, pending := 0, hmax := 0, unsent := [] }

/-- Requests enter the table in order; those that are Ready at once open their windows (R238, R240). -/
def enterReqs (s : State) (l : List MxReq) : State :=
  let cl := clusterOf s.cur.core
  let s := l.foldl (fun s r =>
    { s.modCluster cl (fun c => { c with reqs := c.reqs ++ [{ r with id := s.nextId }] }) with nextId := s.nextId + 1 }) s
  s.modCluster cl (openWindows s.cycle)

/-- What a lane of a matrix word reads when it issues: its row address from A, and the four registers of D. -/
def mxLane (g : Group) (w : LaneOp) (wide : Bool) (j : Nat) : LaneReq :=
  let a := match w.a with | .mrf n => n.toNat | _ => 0
  let d := match w.d with | .mrf n => n.toNat | _ => 0
  { lane := j, ea := (g.readMrf j a wide).toNat, xl := .bad .illegalOp, stage := .wait, cmp := [], rd := []
    data := (List.range 4).flatMap (fun i => toBytes 4 (g.readV j (d + i)).toNat) }

/-- The row address of a lane. -/
def rowOf (ls : List LaneReq) (j : Nat) : Nat := ((ls.find? (fun l => l.lane == j)).map (fun l => l.ea.toNat)).getD 0

/-- What every matrix word does at issue (R230, R235): checks 1 to 7 in order, parking, then its requests. `check` gives the
fault of checks 2 to 7, nothing while a host page is awaited, or makes the request of an octet, from what the lanes read.
[DEDUCED, log entries 27 and 37] -/
def mxWord (i : Instr) (w : LaneOp) (wide : Bool) (src : Option Nat) (s : State)
    (check : Issue → List LaneReq → State → Except (Option MxFault) (Nat → BitVec 8 → MxReq) × State) :
    Host.Outcome State Fault Refusal :=
  gatheredWord i (mxLane s.cur w wide) s (fun q ls =>
    let os := octets s.cur.width q.lanes
    if os.isEmpty then s.issued q i
    else
      let n := (s.teamOf s.cur).nslots
      let slotsOk := os.all (fun o => decide (slotBase w + o.1 < n) && (match src with | some d => decide (d + o.1 < n) | none => true))
      if !slotsOk then raiseWord s q .mxSlot q.lanes 0
      else
        match check q ls s with
        | (.error none, s) => park s q
        | (.error (some f), s) => raiseWord s q f.code f.lanes f.addr
        | (.ok mk, s) =>
          if !tableFree (s.cluster (clusterOf s.cur.core)) s.cur.cls os.length then park s q
          else (enterReqs s (os.map (fun o => mk o.1 o.2))).issued q i)

/-- The lanes of a list of lane numbers whose row fails, with its code: SCR_BOUNDS before ACCESS (R187, R235 check 3). [DEDUCED, log entry 45] -/
def rowFault (lanes : List Nat) (f : Nat → Option Code) (addr : Nat → Nat) : Option MxFault :=
  let by_ := fun (c : Code) => lanes.filter (fun j => f j == some c)
  if !(by_ .scrBounds).isEmpty then some { code := .scrBounds, lanes := maskOf (by_ .scrBounds), addr := 0 }
  else if !(by_ .access).isEmpty then
    some { code := .access, lanes := maskOf (by_ .access), addr := ((by_ .access).map addr).headD 0 }
  else none

/-- The address ranges of B and of its group scales (R233). -/
def columnSpans (f : BitVec 256) (b k : Nat) : List (Nat × Nat) :=
  let bc := fmtBctl f
  let cols := (List.range 256).flatMap (fun n => spans (b + n * fmtBstride f) (packedBytes (ctlElem bc) k))
  let group := if ctlScale bc == 1 then
      (List.range 256).flatMap (fun n => spans (fmtBscale f + n * fmtBsstride f) (2 * ((k + groupLen (ctlBlock bc) - 1) / groupLen (ctlBlock bc))))
    else []
  cols ++ group

/-- The address ranges of B, of its group scales and of the per-tensor scales (R233). -/
def operandSpans (f : BitVec 256) (b k : Nat) : List (Nat × Nat) :=
  columnSpans f b k ++ (if ctlScale (fmtBctl f) == 2 then [(fmtBscale f, 4)] else []) ++ (if ctlScale (fmtActl f) == 2 then [(fmtAscale f, 4)] else [])

/-- Checks 2 to 7 of `mx.q` (R235), then its requests (R236). -/
def checkQ (w : LaneOp) (q : Issue) (ls : List LaneReq) (s : State) : Except (Option MxFault) (Nat → BitVec 8 → MxReq) × State :=
  let g := s.cur
  let t := s.teamOf g
  let chain := w.mod.getLsbD 7
  let k := 16 * ((w.ext.extractLsb' 0 6).toNat + 1)
  let b := (namedScalar g w.b).toNat
  let fo := (namedScalar g w.c).toNat
  let fmt := BitVec.ofNat 256 (ofBytes (readBytes t.scr fo 32))
  if fo % 32 != 0 || decide (t.scrSize < fo + 32) || !fmtOk chain fmt k b then
    (.error (some { code := .mxFormat, lanes := q.lanes, addr := 0 }), s)
  else
    let off := rowOf ls
    let len := packedBytes (ctlElem (fmtActl fmt)) k
    let row := fun (j : Nat) => if t.scrSize < off j + len then some Code.scrBounds else if off j % 16 != 0 then some .access else none
    match if chain then none else rowFault (lanesOf q.lanes) row off with
    | some f => (.error (some f), s)
    | none =>
      let (pages, cs, waits, s) := gather s g needRead (operandSpans fmt b k)
      match worst cs with
      | some (c, a) => (.error (some { code := c, lanes := q.lanes, addr := a }), s)
      | none =>
        if waits then (.error none, s) else
        let (asc, e1, s) := if ctlScale (fmtActl fmt) == 2 then readScale s pages g.stamp2 (fmtAscale fmt) else (0, false, s)
        let (bsc, e2, s) := if ctlScale (fmtBctl fmt) == 2 then readScale s pages g.stamp2 (fmtBscale fmt) else (0, false, s)
        if e1 || e2 then (.error (some { code := .dataError, lanes := q.lanes, addr := if e1 then fmtAscale fmt else fmtBscale fmt }), s)
        else if chain && ctlScale (fmtActl fmt) == 2 && !normalF32 asc then (.error (some { code := .mxFormat, lanes := q.lanes, addr := 0 }), s)
        else
          (.ok (fun m rows =>
            { baseReq s q .q (slotBase w + m) m rows with
              src := if chain then some (sourceSlot w + m) else none
              chunks := k / 16, bAddr := BitVec.ofNat 64 b, fmt := fmt, aScale := asc, bScale := bsc, pages := pages
              rowAddr := if chain then [] else (List.range 8).map (fun i => off (8 * m + i))
              mark := t.past.length }), s)

/-- `mx.q` (R236). -/
def execMxQ (w : LaneOp) (s : State) : Host.Outcome State Fault Refusal :=
  mxWord (.mxQ w) w false (if w.mod.getLsbD 7 then some (sourceSlot w) else none) s (checkQ w)

/-- A word on the slot port with no checks but that of its slots. -/
def plainReq (f : List LaneReq → MxReq → MxReq) (kind : MxKind) (w : LaneOp) (q : Issue) (ls : List LaneReq) (s : State) :
    Except (Option MxFault) (Nat → BitVec 8 → MxReq) × State :=
  (.ok (fun m rows => f ls (baseReq s q kind (slotBase w + m) m rows)), s)

/-- `mx.zero` (R244). -/
def execMxZero (w : LaneOp) (s : State) : Host.Outcome State Fault Refusal :=
  mxWord (.mxZero w) w false none s (plainReq (fun _ r => r) .zero w)

/-- The first register of D. -/
def dReg (w : LaneOp) : Nat := match w.d with | .mrf n => n.toNat | _ => 0

/-- Column group of `mx.rd` and `mx.wr` (R245). -/
def colGroup (w : LaneOp) : Nat := (w.ext.extractLsb' 0 6).toNat

/-- `mx.rd` (R245). -/
def execMxRd (w : LaneOp) (s : State) : Host.Outcome State Fault Refusal :=
  mxWord (.mxRd w) w false none s (plainReq (fun _ r => { r with reg := dReg w, col := colGroup w }) .rd w)

/-- `mx.wr` (R245): its sources are read when the word issues. -/
def execMxWr (w : LaneOp) (s : State) : Host.Outcome State Fault Refusal :=
  mxWord (.mxWr w) w false none s (plainReq (fun ls r => { r with
    col := colGroup w
    wdata := (List.range 8).map (fun i =>
      match ls.find? (fun l => l.lane == 8 * r.octet + i) with
      | some l => (List.range 4).map (fun j => BitVec.ofNat 32 (ofBytes ((l.data.drop (4 * j)).take 4)))
      | none => [0, 0, 0, 0]) }) .wr w)

/-- The page of an absmax word is one on which no atomic performs: a host, IO or NC page (R182, R307, R458). [DEDUCED, log entry 45] -/
def noAtomics (p : Page) : Bool := !((p.ptype == 0 && !p.nc) || p.ptype == 2)

/-- The page of an absmax word, as `gather` has it; before it, whether it is one on which no atomic performs, which is neither requested nor
asked (R182, R235, R307). -/
def gatherAbsmax (s : State) (g : Group) (ax : Nat) : Bool × List (Nat × Page) × List (Code × Nat) × Bool × State :=
  let (x, s) := reachPage s g.vf g.core (s.grid? g.grid) ax 4 needAtomic
  match x with
  | .ok p => if noAtomics p then (true, [], [], false, s) else (false, gather s g needAtomic [(ax, 4)])
  | .error c => (false, [], [(c, ax)], false, s)

/-- Checks 3 to 7 of `mx.drain` (R235), then its requests (R246, R247). -/
def checkDrain (w : LaneOp) (q : Issue) (ls : List LaneReq) (s : State) : Except (Option MxFault) (Nat → BitVec 8 → MxReq) × State :=
  let g := s.cur
  let e4 := w.typ == .e4m3
  let amax := w.mod.getLsbD 4
  let addr := rowOf ls
  let len := if e4 then 256 else 512
  let ax := (namedScalar g w.c).toNat
  let row := fun (j : Nat) => if addr j % 16 != 0 || decide (2 ^ 60 ≤ addr j) then some Code.access else none
  match rowFault (lanesOf q.lanes) row addr with
  | some f => (.error (some f), s)
  | none =>
    if amax && (ax % 4 != 0 || decide (2 ^ 60 ≤ ax)) then (.error (some { code := .access, lanes := q.lanes, addr := ax }), s)
    else
      let (p1, c1, w1, s) := gather s g needWrite ((lanesOf q.lanes).flatMap (fun j => spans (addr j) len))
      let (space, p2, c2, w2, s) := if amax then gatherAbsmax s g ax else (false, [], [], false, s)
      match worst (c1 ++ c2) with
      | some (c, a) => (.error (some { code := c, lanes := q.lanes, addr := a }), s)
      | none =>
        if w1 || w2 then (.error none, s)
        else if space then
          (.error (some { code := .atomSpace, lanes := q.lanes, addr := 0 }), s)
        else
          let c := (namedScalar g w.b).extractLsb' 0 32
          if e4 && !normalF32 c then (.error (some { code := .mxFormat, lanes := q.lanes, addr := 0 }), s)
          else
            (.ok (fun m rows =>
              { baseReq s q .drain (slotBase w + m) m rows with
                rowAddr := (List.range 8).map (fun i => addr (8 * m + i)), mod := w.mod, e4m3 := e4, scale := c
                amaxAddr := BitVec.ofNat 64 ax, pages := p1 ++ p2 }), s)

/-- `mx.drain` (R246). -/
def execMxDrain (w : LaneOp) (s : State) : Host.Outcome State Fault Refusal := mxWord (.mxDrain w) w true none s (checkDrain w)

/-! Requests restored with a team (R252). -/

/-- The request needs pages that it does not have: it has been restored. -/
def MxReq.unmapped (r : MxReq) : Bool := (r.kind == .q || r.kind == .drain) && r.pages.isEmpty

/-- The pages of a restored request are translated anew, so that what was invalidated meanwhile is not used; a failure is raised at its
word (R186, R235, R252). [DEDUCED, log entry 45] -/
def mapReq (s : State) (r : MxReq) : State :=
  match s.group? r.gid with
  | none => s
  | some g =>
    let rows := r.rowList.flatMap (fun i => spans (r.rowAddr.getD i 0) (if r.e4m3 then 256 else 512))
    let (p1, c1, w1, s) := if r.kind == .q then gather s g needRead (columnSpans r.fmt r.bAddr.toNat (16 * r.chunks))
      else gather s g needWrite rows
    let (space, p2, c2, w2, s) := if r.kind == .drain && r.mod.getLsbD 4 then gatherAbsmax s g r.amaxAddr.toNat else (false, [], [], false, s)
    match worst (c1 ++ c2) with
    | some (c, a) => raiseMx s r c a
    | none =>
      if w1 || w2 then s
      else if space then raiseMx s r .atomSpace 0
      else s.modReq r.id (fun r => { r with pages := p1 ++ p2 })

/-! Windows and passes. -/

/-- MX_FUSION_WINDOW_CLOSE (R241): 32 engine cycles after a request became Ready. -/
def execMxFusionWindowClose (req : Nat) (s : State) : Host.Outcome State Fault Refusal :=
  .next (s.modReq req (fun r => match r.window with
    | some c => if c ≤ s.cycle then { r with window := none } else r
    | none => r))

/-- The window of 1,024 cycles that a cycle lies in (R240, R294, R295). -/
def window1024 (cycle : Nat) : Nat := cycle / 1024

/-- MX_GRANT_ARM (R240): one grant is armed at the start of each window; no second one while it is armed. -/
def execMxGrantArm (cluster : Nat) (s : State) : Host.Outcome State Fault Refusal :=
  .next (s.modCluster cluster (fun c =>
    if c.mxGrantWin ≤ window1024 s.cycle then { c with mxGrantWin := window1024 s.cycle + 1, mxGrant := true } else c))

/-- A class is admitted to the matrix engines (R240, R410 step 3). -/
def mxAdmitted (tstep cls : Nat) : Bool := cls == 0 || decide (tstep < 6 - cls)

/-- Age order: Ready cycle, core, resident-group slot, octet (R240). -/
def mxAge (r : MxReq) : List Nat := [r.since.getD 0, r.core, r.slot, r.octet]

/-- The array is free (R240, R242). -/
def arrayFree (c : Cluster) (cycle : Nat) : Bool := c.passes.all (fun p => decide (p.free ≤ cycle))

/-- The head of the next pass, and whether it uses the grant (R240). -/
def mxHead (s : State) (cl : Nat) : Option (MxReq × Bool) :=
  let c := s.cluster cl
  let ready := c.reqs.filter (fun r => r.ready && !r.unmapped && mxAdmitted (s.tstepOf r.vf) r.cls)
  let heads := ready.filter (fun r => r.window.isNone)
  let oldest := leastBy mxAge ready
  match if c.mxGrant then oldest else none with
  | some r => if r.window.isNone then some (r, true) else (leastBy (fun x => x.cls :: mxAge x) heads).map (fun x => (x, false))
  | none => (leastBy (fun x => x.cls :: mxAge x) heads).map (fun x => (x, false))

/-- MX_PASS_GRANT (R240 to R242): a pass takes the head and the oldest Ready fusable requests, of whatever class, up to 4 quarters. It
commits 24 cycles after its last chunk enters; where a chunk takes 4 cycles the model counts them from the fourth.
[DESIGN CHOICE, log entry 45] -/
def execMxPassGrant (cluster : Nat) (s : State) : Host.Outcome State Fault Refusal :=
  .next (
    let c := s.cluster cluster
    if !arrayFree c s.cycle then s
    else
      match mxHead s cluster with
      | none => s
      | some (h, grant) =>
        let others := (c.reqs.filter (fun r => r.id != h.id && r.ready && !r.unmapped && fusable h r)).foldl
          (fun l r => if l.any (fun x => lexLt (mxAge r) (mxAge x)) then
              (l.filter (fun x => !lexLt (mxAge r) (mxAge x))) ++ r :: l.filter (fun x => lexLt (mxAge r) (mxAge x))
            else l ++ [r]) ([] : List MxReq)
        let members := h :: others.take 3
        let ids := members.map (fun r => r.id)
        let len := (h.chunks - h.next) * chunkCycles h.fmt
        let stamp := (members.map (fun r => r.stamp)).foldl max 0
        let snaps := members.filterMap (fun r => r.src.map (fun _ => (r.id, ((s.team? r.team).getD Team.none_).acc)))
        let pass : Pass := { id := s.nextId, members := ids, start := s.cycle, tick := s.gtc, free := s.cycle + len,
                             commit := s.cycle + len + 23, snaps := snaps, stop := none }
        let s := { s with nextId := s.nextId + 1 }
        let s := s.modCluster cluster (fun c => { c with
          passes := c.passes ++ [pass], mxGrant := c.mxGrant && !grant
          reqs := mapIf c.reqs (fun r => ids.contains r.id) (fun r => { r with stage := .inPass pass.id, stamp := stamp, window := none }) })
        let s := (s.count (ctrMx cluster 0) 1).count (ctrMx cluster 2) len
        if 1 < ids.length then s.count (ctrMx cluster 1) ids.length else s)

/-- The sums of every quarter of a pass after `n` more chunks: request, sums, and whether its data held an error (R243). -/
def passSums (s : State) (p : Pass) (n : Nat) (reqs : List MxReq) : List (MxReq × List (Nat × Word32) × Bool) × State :=
  match reqs with
  | [] => ([], s)
  | h :: _ =>
    let (cols, e, s) := readColumns s h h.stamp (some p.tick) n (List.range 256)
    reqs.foldl (fun (a : List (MxReq × List (Nat × Word32) × Bool) × State) r =>
      let snap := match p.snaps.find? (fun x => x.1 == r.id) with | some x => x.2 | none => []
      let (l, e', s) := sums a.2 r (r.scaled cols) snap n r.rowList
      (a.1 ++ [(r, l, e || e')], s)) ([], s)

/-- A quarter commits its slot, and its request completes (R236, R242); one with bad data raises DATA_ERROR (R243). -/
def commitQuarter (s : State) (r : MxReq) (l : List (Nat × Word32)) (bad : Bool) : State :=
  if bad then raiseMx s r .dataError r.bAddr.toNat
  else
    let s := s.modTeam r.team (fun t => { t with acc := ssetAll t.acc 0 (l.map (fun e => (r.dst * 2048 + e.1, e.2))) })
    let s := s.modCluster (clusterOf r.core) (fun c => openWindows s.cycle { c with reqs := c.reqs.filter (fun x => x.id != r.id) })
    retire (s.modGroup r.gid (fun g => { g with h2 := max g.h2 (s.timeOf g) })) r.gid

/-- A quarter of a pass that has stopped after `n` chunks, at a cycle, keeps its running sums: it is frozen, or Ready again with its window
closed (R241, R250); one with bad data raises DATA_ERROR (R243). -/
def stopQuarter (s : State) (n edge : Nat) (frozen : Bool) (e : MxReq × List (Nat × Word32) × Bool) : State :=
  if e.2.2 then raiseMx s e.1 .dataError e.1.bAddr.toNat
  else
    s.modReq e.1.id (fun r => { r with
      stage := if frozen then .frozen else .waiting, part := ssetAll [] 0 e.2.1, next := r.next + n
      since := if frozen then none else some edge, window := none, closed := true })

/-- MX_PASS_COMMIT (R242): at the end of the 24th cycle after its last chunk a pass commits; one that stopped because a quarter of it was
killed gives its other quarters back at the chunk boundary (R253). -/
def execMxPassCommit (cluster : Nat) (s : State) : Host.Outcome State Fault Refusal :=
  .next (
    match leastBy (fun p => [p.commit, p.id]) ((s.cluster cluster).passes.filter (fun p => decide (p.commit < s.cycle))) with
    | none => s
    | some p =>
      let reqs := passReqs (s.cluster cluster) p
      let n := p.stop.getD ((reqs.map (fun r => r.chunks - r.next)).headD 0)
      let (l, s) := passSums s p n reqs
      let s := s.modCluster cluster (fun c => { c with passes := c.passes.filter (fun x => x.id != p.id) })
      l.foldl (fun s e => if p.stop.isSome then stopQuarter s n p.free false e else commitQuarter s e.1 e.2.1 e.2.2) s)

/-! The slot port. -/

/-- The keys of a request's active rows in its slot, by row and column. -/
def slotKey (r : MxReq) (i n : Nat) : Nat := r.dst * 2048 + i * 256 + n

/-- The active rows of a request's slot at +0. -/
def zeroRows (r : MxReq) : List (Nat × Word32) := r.rowList.flatMap (fun i => (List.range 256).map (fun n => (slotKey r i n, 0)))

/-- The columns that `mx.wr` writes (R245). -/
def writtenCols (r : MxReq) : List (Nat × Word32) :=
  r.rowList.flatMap (fun i => (List.range 4).map (fun j => (slotKey r i (4 * r.col + j), (r.wdata.getD i []).getD j 0)))

/-- The request leaves the table and completes. -/
def portDone (s : State) (r : MxReq) : State :=
  let s := s.modCluster (clusterOf r.core) (fun c => openWindows s.cycle { c with reqs := c.reqs.filter (fun x => x.id != r.id) })
  retire (s.modGroup r.gid (fun g => { g with h2 := max g.h2 (s.timeOf g) })) r.gid

/-- Sixteen bytes at a time. -/
def sectorsFrom (fuel : Nat) (b : List Byte) : List (List Byte) :=
  match fuel with
  | 0 => []
  | f + 1 => if b.isEmpty then [] else b.take 16 :: sectorsFrom f (b.drop 16)

/-- One write of a drained sector (R249); it waits while the port of a peer page is down (R425). -/
def drainSector (s : State) (r : MxReq) (va : Nat) (b : List Byte) : State :=
  match pageAt r.pages va with
  | none => s
  | some p =>
    if p.ptype == 0 then
      let s := if p.nc then s else l2Touch s p.pa 16
      let (_, s) := arrive s p.pa b pathMx (.req r.id)
      s.modReq r.id (fun r => { r with pending := r.pending + 1 })
    else if peerHeld s r.vf p then s.modReq r.id (fun r => { r with unsent := r.unsent ++ [(va, b)] })
    else storeOut s r.vf r.gid p b

/-- The largest magnitude of the drained values, NaN skipped (R248). -/
def absMax (l : List Word32) : Word32 :=
  l.foldl (fun a x => let y := x &&& 0x7FFFFFFF; if (fmtF32.decode y.toNat).isNan || y.toNat ≤ a.toNat then a else y) 0

/-- A drain request is served (R246, R248, R249). -/
def servePortDrain (s : State) (r : MxReq) : State :=
  let t := (s.team? r.team).getD Team.none_
  let vals := fun (i : Nat) => (List.range 256).map (fun n => sget t.acc 0 (slotKey r i n))
  let s := r.rowList.foldl (fun s i =>
    let b := (vals i).flatMap (drainElem r.e4m3 (r.mod.getLsbD 5) r.scale)
    ((sectorsFrom 32 b).zipIdx).foldl (fun s x => drainSector s r (r.rowAddr.getD i 0 + 16 * x.2) x.1) s) s
  let s := if r.mod.getLsbD 3 then
      s.modTeam r.team (fun t => { t with acc := ssetAll t.acc 0 (zeroRows r) })
    else s
  let amax := if r.mod.getLsbD 4 then some (absMax (r.rowList.flatMap vals)) else none
  s.modCluster (clusterOf r.core) (fun c => openWindows s.cycle { c with
    reqs := mapIf c.reqs (·.id == r.id) (fun r => { r with stage := .finishing, amax := amax }) })

/-- SLOT_PORT_SERVICE (R238, R244 to R246): a request on the slot port whose turn has come is applied. -/
def execSlotPortService (req : Nat) (s : State) : Host.Outcome State Fault Refusal :=
  .next (
    match s.req? req with
    | none => s
    | some r =>
      if r.kind == .q || r.stage != .waiting || r.held || r.unmapped || r.blocked (s.cluster (clusterOf r.core)).reqs then s
      else
        match r.kind with
        | .zero =>
          portDone (s.modTeam r.team (fun t => { t with acc := ssetAll t.acc 0 (zeroRows r) })) r
        | .wr =>
          portDone (s.modTeam r.team (fun t => { t with acc := ssetAll t.acc 0 (writtenCols r) })) r
        | .rd =>
          let t := (s.team? r.team).getD Team.none_
          let put := fun (g : Group) => (r.rowList.flatMap (fun i => (List.range 4).map (fun j =>
            ((8 * r.octet + i) * 256 + r.reg + j, sget t.acc 0 (slotKey r i (4 * r.col + j)))))).foldl
              (fun g e => g.writeLate r.seq r.side e.1 e.2) g
          portDone (s.modGroup r.gid put) r
        | _ => servePortDrain s r)

/-! Freezes (R250). -/

/-- A pass that holds a quarter of one of the groups stops at the next chunk boundary: its quarters keep their running sums; those of
the groups are frozen, the others are Ready again. A pass whose last chunk has entered commits. -/
def freezePass (s : State) (cl : Nat) (gids : List Nat) (p : Pass) : State :=
  let reqs := passReqs (s.cluster cl) p
  match reqs with
  | [] => s
  | h :: _ =>
    let n := p.stop.getD (p.chunk s.cycle (chunkCycles h.fmt))
    if !reqs.any (fun r => gids.contains r.gid) || h.chunks ≤ h.next + n then s
    else
      let (l, s) := passSums s p n reqs
      let edge := p.start + n * chunkCycles h.fmt
      let rest := { p with members := [], free := edge, commit := edge, snaps := [], stop := none }
      l.foldl (fun s e => stopQuarter s n edge (gids.contains e.1.gid) e)
        ((s.modCluster cl (fun c => { c with passes := mapIf c.passes (·.id == p.id) (fun _ => rest) })).count (ctrMx cl 3) 1)

/-- A request on the slot port stands behind a frozen one of its team, so that it cannot complete before the save point. -/
def MxReq.behindFrozen (l : List MxReq) (r : MxReq) : Bool :=
  r.kind != .q && r.stage == .waiting &&
    l.any (fun a => a.team == r.team && decide (a.id < r.id) && a.stage == .frozen && a.slots.any (fun x => r.slots.contains x))

/-- The requests of groups freeze: waiting ones leave the table with next chunk 0, and requests on the slot port behind a frozen one
leave it as waiting ones (R250, R251). [DEDUCED, log entry 45] -/
def freezeGroups (s : State) (gids : List Nat) : State :=
  let s := s.clusters.foldl (fun s kc => kc.2.passes.foldl (fun s p => freezePass s kc.1 gids p) s) s
  { s with clusters := smapUpd s.clusters Cluster.reset (fun c =>
      if !c.reqs.any (fun r => gids.contains r.gid) then c else
      let l := mapIf c.reqs (fun r => gids.contains r.gid && r.kind == .q && r.stage == .waiting && !r.held)
        (fun r => { r with stage := .frozen, next := 0, part := [], since := none, window := none, closed := true })
      let mine := fun (r : MxReq) => c.reqs.any (fun a => gids.contains a.gid && a.team == r.team)
      openWindows s.cycle { c with reqs := mapIf l (fun r => mine r && r.behindFrozen l) (fun r => { r with stage := .frozen }) }) }

/-- The group has matrix work that must end before its save point (R250). -/
def mxBusy (s : State) (gid : Nat) : Bool :=
  s.clusters.any (fun kc => kc.2.reqs.any (fun r => r.gid == gid && r.stage != .frozen))

end Sys2Proof.Machine
end

