-- ==== Sys2Proof/Machine/Firefly.lean ====
section
/-! DEFINITION. The twelve `ffa.*` words: their checks, the command queue and the promise of a sweep (R254, R264, R268, R270 to
R282). -/

namespace Sys2Proof.Machine

/-! Ranges of register values (R274 to R281). -/

/-- Bits outside a mask are 0. -/
def within (x mask : Word64) : Bool := x &&& ~~~mask == 0

/-- The coupling descriptor: scratchpad, COUNT, START (R274). -/
def couplingDesc (x : Word64) : Option (Bool × Nat × Nat) :=
  let n := bitsOf x.toNat 30 16
  let st := bitsOf x.toNat 13 0
  if within x 0x800000007FFF3FFF && decide (1 ≤ n) && decide (n ≤ 16384) && decide (st + n ≤ 16384) then some (x.getLsbD 63, n, st) else none

/-- The node descriptor: scratchpad, COUNT, FIRST (R274). -/
def nodeDesc (x : Word64) : Option (Bool × Nat × Nat) :=
  let n := bitsOf x.toNat 26 16
  let f := bitsOf x.toNat 9 0
  if within x 0x8000000007FF03FF && decide (1 ≤ n) && decide (n ≤ 1024) && decide (f + n ≤ 1024) then some (x.getLsbD 63, n, f) else none

/-- The range of memory that a command reads or writes, when it has one: write, scratchpad, alignment, bytes; or a value out
of range (R272 check 2). -/
inductive FfaCheck where
  | bad
  | plain
  | range (write sp : Bool) (align addr bytes : Nat)
  deriving DecidableEq, Repr

/-- Check 2 and the range of a command (R274 to R281). -/
def ffaCheck (k : FfaKind) : FfaCheck :=
  match k with
  | .ldj a d => match couplingDesc d with | some (sp, n, _) => .range false sp 4 a.toNat (4 * n) | none => .bad
  | .ldh a d => match nodeDesc d with | some (sp, n, _) => .range false sp 8 a.toNat (8 * n) | none => .bad
  | .rdc a d => match nodeDesc d with | some (sp, n, _) => .range true sp 2 a.toNat (2 * n) | none => .bad
  | .rds a => .range true false 16 a.toNat 128
  | .ldc w => if within w 0xFFFFFFF && w.extractLsb' 0 4 != 0 && decide ((w.extractLsb' 0 4).toNat ≤ 8) then .plain else .bad
  | .clamp n a => if decide (n.toNat < 1024) && decide (a.toNat < 4) then .plain else .bad
  | .beta b => if decide (b.toNat < 65536) then .plain else .bad
  | .mode w st =>
    let lag := bitsOf w.toNat 8 4
    if within w 0xFFFFFFFF001FF1F1 && decide (1 ≤ lag) && decide (lag ≤ 16) && decide (st.toNat < 2 ^ 22) then .plain else .bad
  | .sweep n => if n ≤ 2 ^ 20 then .plain else .bad
  | .zc d => match nodeDesc d with | some _ => .plain | none => .bad
  | .bnd n w => if decide (n.toNat < 1024) && within w 0x8000000081FF03FF then .plain else .bad

/-- ARRAY_ID of a mode word is held by another array of the grid (R278). From when on an array holds its number the manual does not say: here from
the performing of its `ffa.mode`, so that two words which both execute before that give two arrays one number. [DESIGN CHOICE, log entry 46] -/
def arrayHeld (s : State) (g : Group) (k : FfaKind) : Bool :=
  match k with
  | .mode w _ => s.teams.any (fun t => t.grid == g.grid && t.id != g.team &&
      (match t.ffa with | some f => f.arrayId == some (bitsOf w.toNat 20 12) | none => false))
  | _ => false

/-- Checks 1 to 5 of R272: the fault with its address, or the pages of a global range. -/
def ffaChecks (s : State) (g : Group) (k : FfaKind) : Except (Code × Nat) (List (Nat × Page)) × State :=
  let t := s.teamOf g
  if t.ffa.isNone || arrayHeld s g k then (.error (.access, 0), s)
  else
    match ffaCheck k with
    | .bad => (.error (.access, 0), s)
    | .plain => (.ok [], s)
    | .range w sp al a n =>
      if a % al != 0 then (.error (.access, a), s)
      else if sp then (if t.scrSize < a + n then .error (.scrBounds, 0) else .ok [], s)
      else if 2 ^ 60 ≤ a then (.error (.access, a), s)
      else
        let (pages, cs, s) := gatherDevice s g (if w then needWrite else needRead) (spans a n)
        match worst cs with
        | some c => (.error c, s)
        | none => (.ok pages, s)

/-! Durations (R264). -/

/-- Phases of a colouring table, a colour visited once (R263). -/
def phases : List Nat → List Nat → List Nat
  | _, [] => []
  | seen, c :: r => if seen.contains c then phases seen r else c :: phases (c :: seen) r

/-- Nodes of a colour that a sweep updates. -/
def Ffa.members (f : Ffa) (c : Nat) : List Nat :=
  (List.range 1024).filter (fun i => let n := sget f.nodes Node.reset i; n.colour.toNat == c && !n.clamp)

/-- Array cycles of the phase of a colour; step 2 of the throttle updates 32 nodes a cycle (R264, R410). -/
def phaseCycles (f : Ffa) (tstep c : Nat) : Nat :=
  let rate := if 2 ≤ tstep then 32 else 128
  ((f.members c).length + rate - 1) / rate + 4

/-- Array cycles of one sweep, those for counting and publication included (R264). -/
def sweepCycles (f : Ffa) (tstep : Nat) : Nat := ((phases [] f.colours).map (phaseCycles f tstep)).foldl (· + ·) 8

/-- Array cycles of stage `n` of a sweep: its phases in order, then counting and publication (R264). A phase keeps the rate at which it began.
[DESIGN CHOICE, log entry 46] -/
def stageCycles (f : Ffa) (tstep n : Nat) : Nat := match (phases [] f.colours)[n]? with | some c => phaseCycles f tstep c | none => 8

/-- Array cycles of a command, its sweeps still to run included (R264). -/
def ffaCycles (f : Ffa) (tstep : Nat) (k : FfaKind) : Nat :=
  let count := fun (d : Word64) => bitsOf d.toNat 26 16
  match k with
  | .ldj _ d => 8 + (bitsOf d.toNat 30 16 + 15) / 16
  | .ldh _ d => 8 + (count d + 7) / 8
  | .rdc _ d => 8 + (count d + 31) / 32
  | .rds _ => 10
  | .zc d => 4 + (count d + 127) / 128
  | .sweep n => n * sweepCycles f tstep
  | _ => 4

/-- The clock now: a sag halves it, and after it the clock comes back in steps of 0.125 GHz over 1,000 ticks (R415). -/
def State.clkNow (s : State) : Nat :=
  if s.power.sag then s.clk / 2
  else if s.power.recover = 0 then s.clk
  else min s.clk (s.clk / 2 + 2 * ((s.clk - s.clk / 2 + 1) / 2 * (1000 - s.power.recover) / 1000))

/-- Ticks that a number of cycles takes at the present clock (R4, R279). -/
def cycleTicks (s : State) (n : Nat) : Nat := if s.clkNow = 0 then n else (16 * n + s.clkNow - 1) / s.clkNow

/-! Promises (R120). -/

/-- A free promise slot (R120). Which of the free ones a command takes the manual does not say: here the lowest. [DESIGN CHOICE, log entry 84] -/
def Group.freeSlot (g : Group) : Option Nat := (List.range 16).find? (fun n => n != 0 && !g.proms.any (·.slot == n))

/-- The promise word of a slot and time (R120). [DESIGN CHOICE, log entry 46] -/
def promiseWord (slot time : Nat) : Word64 := BitVec.ofNat 64 (slot * 2 ^ 60 + time % 2 ^ 60)

/-- A slot is taken and its word written; the word is discarded for s0. -/
def Group.promise (g : Group) (d : BitVec 6) (slot time : Nat) (ref : PromRef) : Group :=
  { g.writeS d (promiseWord slot time) with proms := g.proms ++ [{ slot := slot, time := time % 2 ^ 60, ref := ref }] }

/-! Entering the queue (R270). -/

/-- The command waits for earlier runs and scalar accesses (R271). -/
def FfaKind.reachesMemory : FfaKind → Bool
  | .ldj _ _ => true
  | .ldh _ _ => true
  | .rdc _ _ => true
  | .rds _ => true
  | _ => false

/-- The earliest cycle at which a command that begins now is performed; a sweep latches its ghosts at once (R263, R264). -/
def ffaReady (s : State) (vf : Nat) (f : Ffa) (k : FfaKind) : Nat :=
  s.cycle + (match k with | .sweep _ => 0 | k => ffaCycles f (s.tstepOf vf) k)

/-- The command that a word enters. -/
def ffaCmd (s : State) (f : Ffa) (k : FfaKind) (pages : List (Nat × Page)) : FfaCmd :=
  let g := s.cur
  { id := s.nextId, gid := g.gid, pc := g.pc, kind := k, mark := (s.teamOf g).past.length, at_ := s.gtc, pages := pages, performed := false,
    bound := g.febound.toNat, stamp := g.stamp3, since := none, force := false,
    ready := if f.queue.isEmpty then ffaReady s g.vf f k else 0, latched := none, phase := 0, ended := false, pending := 0, hmax := 0 }

/-- A queued `ffa.*` word (R270 to R272); a sweep also takes a promise (R279), whose time counts every queued sweep by the colours and
clamps that hold when the word executes. [DESIGN CHOICE, log entry 46] -/
def ffaWord (k : FfaKind) (dest : Option (BitVec 6)) (s : State) : Host.Outcome State Fault Refusal :=
  withCur s (
    if k.reachesMemory && !earlierDone s s.cur then s.hold
    else
      match ffaChecks s s.cur k with
      | (.error (c, a), s) => raiseScalar s c a
      | (.ok pages, s) =>
        match (s.teamOf s.cur).ffa with
        | none => s
        | some f =>
          if 16 ≤ f.queue.length then s.hold
          else
            let c := ffaCmd s f k pages
            let enter := fun (s : State) => ({ s with nextId := s.nextId + 1 } : State).modTeam s.cur.team (fun t =>
              { t with ffa := some { f with queue := f.queue ++ [c] } })
            match dest with
            | none => enter (s.onCur (·.next s.cycle))
            | some d =>
              match s.cur.freeSlot with
              | none => s.hold
              | some slot =>
                if !mayWriteS s d then s.hold
                else
                  let n := ((f.queue ++ [c]).map (fun x => ffaCycles f (s.tstepOf s.cur.vf) x.kind)).foldl (· + ·) 0
                  let time := s.timeOf s.cur + cycleTicks s n
                  enter (s.onCur (fun g => (g.promise d slot time (.ffa c.id)).next s.cycle)))

/-- `ffa.ldj` (R275). -/
def execFfaLdj (a b : BitVec 6) (s : State) : Host.Outcome State Fault Refusal := ffaWord (.ldj (s.cur.readS a) (s.cur.readS b)) none s
/-- `ffa.ldh` (R275). -/
def execFfaLdh (a b : BitVec 6) (s : State) : Host.Outcome State Fault Refusal := ffaWord (.ldh (s.cur.readS a) (s.cur.readS b)) none s
/-- `ffa.ldc` (R276). -/
def execFfaLdc (a : BitVec 6) (s : State) : Host.Outcome State Fault Refusal := ffaWord (.ldc (s.cur.readS a)) none s
/-- `ffa.clamp` (R277). -/
def execFfaClamp (a b : BitVec 6) (s : State) : Host.Outcome State Fault Refusal := ffaWord (.clamp (s.cur.readS a) (s.cur.readS b)) none s
/-- `ffa.beta` (R277). -/
def execFfaBeta (a : BitVec 6) (s : State) : Host.Outcome State Fault Refusal := ffaWord (.beta (s.cur.readS a)) none s
/-- `ffa.mode` (R278). -/
def execFfaMode (a b : BitVec 6) (s : State) : Host.Outcome State Fault Refusal := ffaWord (.mode (s.cur.readS a) (s.cur.readS b)) none s
/-- `ffa.sweep` (R279). -/
def execFfaSweep (a b : BitVec 6) (s : State) : Host.Outcome State Fault Refusal := ffaWord (.sweep (s.cur.readS b).toNat) (some a) s
/-- `ffa.rdc` (R280). -/
def execFfaRdc (a b : BitVec 6) (s : State) : Host.Outcome State Fault Refusal := ffaWord (.rdc (s.cur.readS a) (s.cur.readS b)) none s
/-- `ffa.rds` (R280). -/
def execFfaRds (a : BitVec 6) (s : State) : Host.Outcome State Fault Refusal := ffaWord (.rds (s.cur.readS a)) none s
/-- `ffa.zc` (R280). -/
def execFfaZc (a : BitVec 6) (s : State) : Host.Outcome State Fault Refusal := ffaWord (.zc (s.cur.readS a)) none s
/-- `ffa.bnd` (R281). -/
def execFfaBnd (a b : BitVec 6) (s : State) : Host.Outcome State Fault Refusal := ffaWord (.bnd (s.cur.readS a) (s.cur.readS b)) none s

/-- The health word (R282). -/
def healthWord (f : Ffa) : Word64 :=
  BitVec.ofNat 64 (pack [(39, if f.replay then 1 else 0), (38, if f.biased then 1 else 0), (24, f.nwin.toNat), (0, f.lastcnt)])

/-- `ffa.hs` (R282): does not enter the queue. -/
def execFfaHs (a : BitVec 6) (s : State) : Host.Outcome State Fault Refusal :=
  withCur s (
    match (s.teamOf s.cur).ffa with
    | none => raiseScalar s .access 0
    | some f => if mayWriteS s a then s.onCur (·.result s.cycle a (healthWord f) 1) else s.hold)

end Sys2Proof.Machine
end

