-- ==== Sys2Proof/Machine/FireflyRun.lean ====
section
/-! DEFINITION. The Firefly array at work: commands, sweeps, publications, waits and health windows (R256 to R269, R275 to
R284). -/

namespace Sys2Proof.Machine

/-! The update (R259 to R262). -/

/-- Tab (R260). -/
def sigmoidTab : List Nat :=
  [22, 36, 60, 98, 162, 267, 439, 720, 1179, 1921, 3108, 4971, 7812, 11955, 17625, 24743, 32768, 40793, 47911, 53581, 57724,
   60565, 62428, 63615, 64357, 64816, 65097, 65269, 65374, 65438, 65476, 65500, 65514]

/-- Weevil16 (R261). -/
def weevil16 (key ctr : Word32) : BitVec 16 := (weevilMix (ctr ^^^ key)).extractLsb' 16 16

/-- The threshold T of a field and β (R259). -/
def threshold (field : Int) (beta : Nat) : Nat :=
  let x := max (-2048) (min 2047 ((field * beta) / 256))
  let y := (x + 2048).toNat
  let k := y / 128
  let t0 := sigmoidTab.getD k 0
  t0 + (sigmoidTab.getD (k + 1) 0 - t0) * (y % 128) / 128

/-- ±1 of a state. -/
def spin (b : Bool) : Int := if b then 1 else -1

/-- The field of a node (R259): its bias and its couplings over latched states and ghosts. -/
def nodeField (f : Ffa) (st : List Bool) (ghost : Nat → Bool) (i : Nat) : Int :=
  let n := sget f.nodes Node.reset i
  (List.range (min n.ccount.toNat 32)).foldl (fun acc c =>
    let e := sget f.coup 0 ((n.cstart.toNat + c) % 16384)
    let nbr := bitsOf e.toNat 18 8
    let v := if nbr < 1024 then st.getD nbr false else ghost (nbr - 1024)
    acc + signedOf 8 (e.toNat % 256) * spin v) n.h.toInt

/-- The key of an array (R261). [DESIGN CHOICE, log entry 5] -/
def Ffa.drawKey (f : Ffa) : Word32 := f.key ^^^ BitVec.ofNat 32 (f.arrayId.getD 0 * 2 ^ 20)

/-- Nodes of one phase updated from the latched states; physical draws are counted (R259, R262, R263). -/
def phaseNodes (st : List Bool) (ghost : Nat → Bool) : List Nat → Ffa × Nat → Ffa × Nat
  | [], a => a
  | i :: r, (f, fresh) =>
    let t := threshold (nodeField f st ghost i) f.beta.toNat
    let u := if f.replay then weevil16 f.drawKey (BitVec.ofNat 32 (f.sweep * 1024 + i)) else Config.noise fresh
    let n := sget f.nodes Node.reset i
    phaseNodes st ghost r ({ f with nodes := sset f.nodes Node.reset i { n with s := decide (u.toNat < t) } },
      if f.replay then fresh else fresh + 1)

/-- The states of all nodes. -/
def Ffa.states (f : Ffa) : List Bool := (List.range 1024).map (fun i => (sget f.nodes Node.reset i).s)

/-- Every phase of a sweep (R263). -/
def runPhases (ghost : Nat → Bool) : List Nat → Ffa × Nat → Ffa × Nat
  | [], a => a
  | c :: r, (f, fresh) => runPhases ghost r (phaseNodes f.states ghost (f.members c) (f, fresh))

/-- Counts after a sweep: nodes at +1 count once, held at 65,535 (R263). -/
def countNodes (f : Ffa) : Ffa :=
  { f with nodes := (List.range 1024).foldl (fun m i =>
      let n := sget m Node.reset i
      if n.s && n.count != 0xFFFF then sset m Node.reset i { n with count := n.count + 1 } else m) f.nodes }

/-! Lag and rings (R265 to R268). -/

/-- Sweep numbers modulo 2^22. -/
def sweepMod : Nat := 2 ^ 22

/-- Tag `a` is older than tag `b`, within a window of 2^21 sweeps (R266). -/
def older (a b : Nat) : Bool := a != b && decide ((b + sweepMod - a) % sweepMod < 2 ^ 21)

/-- The tag that a slot needs for a sweep; none while it still reads INIT (R266). -/
def neededTag (f : Ffa) (b : BSlot) : Option Nat :=
  if (f.sweep + sweepMod - b.start) % sweepMod < f.lag then none else some ((f.sweep + sweepMod - f.lag % sweepMod) % sweepMod)

/-- The newest entry of a ring. -/
def newest (l : List (Nat × Bool)) : Option (Nat × Bool) :=
  l.foldl (fun (a : Option (Nat × Bool)) e => match a with | none => some e | some x => if older x.1 e.1 then some e else some x) none

/-- Some array of the grid holds the SRCID of a slot (R281). -/
def sourceHeld (s : State) (grid : Nat) (b : BSlot) : Bool :=
  s.teams.any (fun t => t.grid == grid && (match t.ffa with | some f => f.arrayId == some b.srcid | none => false))

/-- The ghost of a slot for the present sweep, or nothing while no acceptable entry is there, or no array holds its SRCID (R258, R266,
R281). Of two entries with one tag, which a source set back by `ffa.mode` leaves, replay takes the last that arrived and physical mode the
first: the manual does not say. [DEDUCED, log entry 46; DESIGN CHOICE, log entry 46] -/
def ghostOf (held : Bool) (f : Ffa) (b : BSlot) : Option Bool :=
  if !b.mapped then some b.init
  else
    match neededTag f b with
    | none => some b.init
    | some t =>
      if !held then none
      else if f.replay then (b.ring.reverse.find? (fun e => e.1 == t)).map (fun e => e.2)
      else (newest (b.ring.filter (fun e => !older e.1 t))).map (fun e => e.2)

/-- The ghost under IGNORE of FFA_STALE: the newest entry, or INIT (R283). -/
def forcedGhost (b : BSlot) : Bool := if b.mapped then ((newest b.ring).map (fun e => e.2)).getD b.init else b.init

/-- Entries older than the needed tag are discarded at the latch (R267). -/
def trimRing (f : Ffa) (b : BSlot) : BSlot :=
  match neededTag f b with
  | none => b
  | some t => if b.mapped then { b with ring := b.ring.filter (fun e => !older e.1 t) } else b

/-- The slots, of every array of the grid, that name nodes of an array, with their teams (R265). -/
def importers (s : State) (t : Team) (f : Ffa) : List (Team × Nat × BSlot) :=
  match f.arrayId with
  | none => []
  | some id =>
    (s.teams.filter (fun x => x.grid == t.grid)).flatMap (fun x =>
      match x.ffa with
      | none => []
      | some h => (h.slots.filter (fun b => b.2.mapped && b.2.srcid == id)).map (fun b => (x, b.1, b.2)))

/-- The slot's mapping has taken effect at its source (R265). -/
def BSlot.inEffect (b : BSlot) (gtc : Nat) : Bool := decide (b.at_ ≤ gtc)

/-- The slots to which an array publishes: those that name it and whose mapping has taken effect (R265). -/
def readers (s : State) (t : Team) (f : Ffa) : List (Team × Nat × BSlot) := (importers s t f).filter (fun i => i.2.2.inEffect s.gtc)

/-- A ring holds 16 entries, those on their way included (R267). -/
def ringFull (s : State) (i : Team × Nat × BSlot) : Bool :=
  decide (16 ≤ i.2.2.ring.length + (s.pubs.filter (fun p => p.team == i.1.id && p.slot == i.2.1 && p.map == i.2.2.map)).length)

/-- What the head sweep waits for is there: room in every ring that a replay source is to publish to, once a sweep has ended, else an
acceptable entry in every slot; or the wait is passed over (R266 to R268, R283). The manual states IGNORE of FFA_STALE for ghosts alone: where
the wait was for room, the array publishes, and the oldest entry of a full ring is replaced. [DESIGN CHOICE, log entry 46] -/
def sweepReady (s : State) (t : Team) (f : Ffa) (c : FfaCmd) : Bool :=
  c.force ||
    (if c.ended then !f.replay || (readers s t f).all (fun i => !ringFull s i)
     else f.slots.all (fun b => (ghostOf (sourceHeld s t.grid b.2) f b.2).isSome))

/-- The head sweep waits on an array whose team is saved: that time is not counted (R268, R380). -/
def waitsOnSaved (s : State) (t : Team) (f : Ffa) (c : FfaCmd) : Bool :=
  if c.ended then (readers s t f).any (fun i => ringFull s i && i.1.savedAt.isSome)
  else f.slots.any (fun b => (ghostOf (sourceHeld s t.grid b.2) f b.2).isNone &&
    s.teams.any (fun x => x.grid == t.grid && x.savedAt.isSome &&
      (match x.ffa with | some h => h.arrayId == some b.2.srcid | none => false)))

/-- The states of exported nodes set out to every slot to which the array publishes (R265). -/
def publish (s : State) (t : Team) (f : Ffa) (tag : Nat) : State :=
  (readers s t f).foldl (fun s i =>
    let (ready, s) := s.later
    { s with nextId := s.nextId + 1,
             pubs := s.pubs ++ [{ id := s.nextId, team := i.1.id, slot := i.2.1, map := i.2.2.map, tag := tag,
                                  val := (sget f.nodes Node.reset i.2.2.node).s, ready := ready }] }) s

/-- The oldest tag of a ring. -/
def oldestTag (l : List (Nat × Bool)) : Option (Nat × Bool) :=
  l.foldl (fun (a : Option (Nat × Bool)) e => match a with | none => some e | some x => if older e.1 x.1 then some e else some x) none

/-- A tagged state enters a ring; the oldest entry of a full one makes room (R267). -/
def BSlot.enter (b : BSlot) (tag : Nat) (val : Bool) : BSlot :=
  let ring := if b.ring.length < 16 then b.ring else match oldestTag b.ring with | some e => b.ring.erase e | none => b.ring
  { b with ring := ring ++ [(tag, val)] }

/-- BOUNDARY_PUBLICATION (R265, R267): a tagged state arrives in a ring, unless the slot has been mapped anew. -/
def execBoundaryPublication (msg : Nat) (s : State) : Host.Outcome State Fault Refusal :=
  .next (
    match s.pubs.find? (fun p => p.id == msg) with
    | none => s
    | some p =>
      let enter := fun (f : Ffa) =>
        let b := sget f.slots BSlot.reset p.slot
        if b.mapped && b.map == p.map then { f with slots := sset f.slots BSlot.reset p.slot (b.enter p.tag p.val) } else f
      let s := { s with pubs := s.pubs.filter (fun x => x.id != msg) }
      s.modTeam p.team (fun t => { t with ffa := t.ffa.map enter }))

/-! The head of the queue. -/

/-- Faults of a team's array that containment has still to resolve (R283). -/
def ffaFaults (s : State) (team : Nat) : List FaultRec :=
  (s.groups.flatMap (fun g => g.fault.toList ++ g.heldFaults)).filter (fun fr => fr.src == .ffa team)

/-- The array of a team that may work, with its head command: not saved, not retrimming, and with no open fault; a sweep in progress
ends all the same while the team is to be saved or a biased window is open, but a wait is abandoned (R283, R284). -/
def ffaHead (s : State) (team : Nat) : Option (Team × Ffa × FfaCmd) :=
  match s.team? team with
  | none => none
  | some t =>
    match t.ffa with
    | none => none
    | some f =>
      match f.queue with
      | [] => none
      | c :: _ =>
        let l := ffaFaults s team
        let begun := c.latched.isSome || (c.ended && c.since.isNone)
        let hold := t.savedAt.isSome || l.any (fun fr => fr.code != .ffaBias) ||
          (!begun && ((t.saving.isSome && (s.groupsOf team).all (·.preempt)) || !l.isEmpty || decide (s.gtc < f.trimTill)))
        if hold then none else some (t, f, c)

/-- The array of a team changed. -/
def State.modFfa (s : State) (team : Nat) (f : Ffa → Ffa) : State := s.modTeam team (fun t => { t with ffa := t.ffa.map f })

/-- The head command has finished: its promise slot is freed, its writes join H3, and the next one begins (R120, R220, R270). -/
def ffaFinish (s : State) (team : Nat) (c : FfaCmd) : State :=
  let s := s.modGroupAny c.gid (fun g => { g with
    h3 := max g.h3 (max c.hmax (s.timeOf g)), proms := g.proms.filter (fun p => p.ref != .ffa c.id) })
  s.modFfa team (fun f =>
    let f := { f with queue := f.queue.drop 1 }
    match f.queue with
    | [] => f
    | d :: r => { f with queue := { d with ready := ffaReady s (((s.team? team).map (fun (t : Team) => t.vf)).getD 0) f d.kind } :: r })

/-- The record of a fault of an array. -/
def ffaFault (s : State) (g : Group) (team pc : Nat) (code : Code) (faddr : Nat) : FaultRec :=
  { code := code, src := .ffa team, pc := pc, lane := false, run := 0, word := 0, side := 0, lmask := 0, faddr := BitVec.ofNat 64 faddr,
    gtime := s.timeOf g, imm := 0, isBrk := false, prog := 0, level := 0 }

/-- A fault of the array is raised to the group that issued a command; the queue stops (R283). Of a group that has been saved it waits in
the context (R284). Of one that has ended it is raised to nobody, and the command is discarded. [DESIGN CHOICE, log entry 46] -/
def raiseFfa (s : State) (team : Nat) (c : FfaCmd) (code : Code) (faddr : Nat) : State :=
  match s.group? c.gid with
  | some g => raise s c.gid (ffaFault s g team c.pc code faddr)
  | none =>
    match s.team? team with
    | none => s
    | some t =>
      if t.saved.any (fun g => g.gid == c.gid) then
        s.modTeam team (fun t => { t with saved := mapIf t.saved (·.gid == c.gid) (fun g =>
          { g with heldFaults := g.heldFaults ++ [ffaFault s g team c.pc code faddr] }) })
      else s.modFfa team (fun f => { f with queue := f.queue.filter (fun x => x.id != c.id) })

/-- The source bytes of a load, each sector old or new, and whether an error was met (R271, R283). -/
def ffaSource (s : State) (t : Team) (c : FfaCmd) : List Byte × Bool × State :=
  match ffaCheck c.kind with
  | .range false true _ a n =>
    let (b, s) := readSince s t c.mark a n
    (b, (wordsOf a n).any (fun w => t.errs.contains w), s)
  | .range false false _ a n => engineRead s c.pages pathFf t.core c.stamp (some c.at_) a (cuts a n)
  | _ => ([], false, s)

/-- Entry `i` of `n` bytes of a byte string, as a number. -/
def entryAt (b : List Byte) (n i : Nat) : Nat := ofBytes ((b.drop (n * i)).take n)

/-- Coupling entries loaded (R257, R275). -/
def loadCouplings (f : Ffa) (d : Word64) (b : List Byte) : Ffa :=
  let st := bitsOf d.toNat 13 0
  { f with coup := ssetAll f.coup 0 ((List.range (bitsOf d.toNat 30 16)).map (fun i => (st + i, BitVec.ofNat 32 (entryAt b 4 i)))) }

/-- The node that a record makes of a node, whose COUNT stays (R256, R275). -/
def nodeOf (n : Node) (x : Nat) : Node :=
  { n with
    h := BitVec.ofNat 16 x, colour := BitVec.ofNat 3 (bitsOf x 18 16), clamp := bitOf x 19, cval := bitOf x 20
    s := if bitOf x 19 then bitOf x 20 else bitOf x 21
    cstart := BitVec.ofNat 14 (bitsOf x 37 24), ccount := BitVec.ofNat 6 (min 32 (bitsOf x 43 38)) }

/-- Node records loaded (R256, R275). -/
def loadNodes (f : Ffa) (d : Word64) (b : List Byte) : Ffa :=
  let st := bitsOf d.toNat 9 0
  { f with nodes := (List.range (bitsOf d.toNat 26 16)).foldl (fun m i =>
      sset m Node.reset (st + i) (nodeOf (sget m Node.reset (st + i)) (entryAt b 8 i))) f.nodes }

/-- The effect of a command on the array alone (R276 to R278, R280, R281). `at_` is the tick at which a mapping takes effect
at its source, `map` its number. -/
def ffaEffect (f : Ffa) (k : FfaKind) (at_ map : Nat) : Ffa :=
  match k with
  | .ldc w => { f with colours := (List.range (w.extractLsb' 0 4).toNat).map (fun i => bitsOf w.toNat (3 * i + 6) (3 * i + 4)) }
  | .clamp n a =>
    let x := sget f.nodes Node.reset n.toNat
    let y := { x with clamp := a.getLsbD 1, cval := a.getLsbD 0, s := if a.getLsbD 1 then a.getLsbD 0 else x.s }
    { f with nodes := sset f.nodes Node.reset n.toNat y }
  | .beta b => { f with beta := b.extractLsb' 0 16 }
  | .mode w st =>
    { f with
      key := w.extractLsb' 32 32, arrayId := some (bitsOf w.toNat 20 12), lag := bitsOf w.toNat 8 4, replay := w.getLsbD 0
      sweep := st.toNat, slots := smapUpd f.slots BSlot.reset (fun b => { b with ring := [], start := st.toNat }) }
  | .zc d =>
    let st := bitsOf d.toNat 9 0
    { f with nodes := (List.range (bitsOf d.toNat 26 16)).foldl (fun m i =>
        sset m Node.reset (st + i) { sget m Node.reset (st + i) with count := 0 }) f.nodes }
  | .bnd n w =>
    let b : BSlot := { mapped := w.getLsbD 63, init := w.getLsbD 31, srcid := bitsOf w.toNat 24 16, node := bitsOf w.toNat 9 0,
                       start := f.sweep, at_ := at_, map := map, ring := [] }
    { f with slots := sset f.slots BSlot.reset n.toNat b }
  | _ => f

/-- The counts that `ffa.rdc` writes, 2 bytes each (R280). -/
def countBytes (f : Ffa) (d : Word64) : List Byte :=
  (List.range (bitsOf d.toNat 26 16)).flatMap (fun i => toBytes 2 (sget f.nodes Node.reset (bitsOf d.toNat 9 0 + i)).count.toNat)

/-- The bitmap that `ffa.rds` writes (R280). -/
def stateBytes (f : Ffa) : List Byte :=
  (List.range 128).map (fun b => BitVec.ofNat 8 ((List.range 8).foldl (fun x j => if (sget f.nodes Node.reset (8 * b + j)).s then x + 2 ^ j else x) 0))

/-- Bytes cut at sector boundaries, each with its address. -/
def sectorCuts (fuel a : Nat) (b : List Byte) : List (Nat × List Byte) :=
  match fuel with
  | 0 => []
  | f + 1 =>
    if b.isEmpty then []
    else
      let n := 16 - a % 16
      (a, b.take n) :: sectorCuts f (a + n) (b.drop n)

/-- A command's bytes written to global memory on the Firefly path, sector by sector (R271). -/
def ffaStore (s : State) (team : Nat) (c : FfaCmd) (a : Nat) (b : List Byte) : State :=
  (sectorCuts (b.length / 16 + 2) a b).foldl (fun s w =>
    match pageAt c.pages w.1 with
    | none => s
    | some p =>
      let (_, s) := arrive (if p.nc then s else l2Touch s p.pa w.2.length) p.pa w.2 pathFf (.ffa team c.id)
      s.modFfa team (fun f => { f with queue := mapIf f.queue (·.id == c.id) (fun c => { c with pending := c.pending + 1 }) })) s

/-- The command has taken effect; it finishes at once unless writes are on their way. -/
def ffaPerformed (s : State) (team : Nat) (c : FfaCmd) : State :=
  match ((s.team? team).bind (·.ffa)).bind (fun f => f.queue.find? (fun x => x.id == c.id)) with
  | none => s
  | some c => if c.pending = 0 then ffaFinish s team c
      else s.modFfa team (fun f => { f with queue := mapIf f.queue (·.id == c.id) (fun c => { c with performed := true }) })

/-- FFA_COMMAND_PERFORM (R270): the head command, other than a sweep, takes effect whole; a writing one finishes when its
writes have completed. -/
def execFfaCommandPerform (team : Nat) (s : State) : Host.Outcome State Fault Refusal :=
  .next (
    match ffaHead s team with
    | none => s
    | some (t, f, c) =>
      if c.performed then (if c.pending = 0 then ffaFinish s team c else s)
      else
        match c.kind with
        | .sweep _ => s
        | .ldj a d =>
          let (b, e, s) := ffaSource s t c
          if e then raiseFfa s team c .dataError a.toNat
          else ffaFinish (s.modFfa team (fun f => loadCouplings f d b)) team c
        | .ldh a d =>
          let (b, e, s) := ffaSource s t c
          if e then raiseFfa s team c .dataError a.toNat
          else ffaFinish (s.modFfa team (fun f => loadNodes f d b)) team c
        | .rdc a d =>
          if d.getLsbD 63 then ffaFinish (s.modTeam team (fun t => t.store a.toNat (countBytes f d))) team c
          else ffaPerformed (ffaStore s team c a.toNat (countBytes f d)) team c
        | .rds a => ffaPerformed (ffaStore s team c a.toNat (stateBytes f)) team c
        | k =>
          let (at_, s) := s.later
          ffaFinish ({ s with nextId := s.nextId + 1 }.modFfa team (fun f => ffaEffect f k at_ s.nextId)) team c)

/-- The head command of an array changed. -/
def modHead (s : State) (team : Nat) (c : FfaCmd) (f : FfaCmd → FfaCmd) : State :=
  s.modFfa team (fun x => { x with queue := mapIf x.queue (·.id == c.id) f })

/-- A sweep begins (R263, R267): its ghosts are latched, entries older than what it needs are discarded, and the cycles of its first phase run
(R264). -/
def sweepLatch (s : State) (t : Team) (f : Ffa) (c : FfaCmd) : State :=
  let ghosts := f.slots.map (fun b =>
    (b.1, if c.force then forcedGhost b.2 else (ghostOf (sourceHeld s t.grid b.2) f b.2).getD b.2.init))
  let s := s.modFfa t.id (fun f => { f with slots := smapUpd f.slots BSlot.reset (trimRing f) })
  modHead s t.id c (fun c => { c with latched := some ghosts, phase := 0, since := none, force := false, ready := s.cycle + stageCycles f (s.tstepOf t.vf) 0 })

/-- The next phase of a sweep begins, at the rate of now (R264). -/
def sweepPhase (s : State) (t : Team) (f : Ffa) (c : FfaCmd) : State :=
  modHead s t.id c (fun c => { c with phase := c.phase + 1, ready := c.ready + stageCycles f (s.tstepOf t.vf) (c.phase + 1) })

/-- The phases and counts of a sweep, at the end of its cycles (R263, R264). -/
def sweepOnce (s : State) (t : Team) (f : Ffa) (c : FfaCmd) (ghosts : List (Nat × Bool)) : State :=
  let (f2, fresh) := runPhases (fun n => sget ghosts false n) (phases [] f.colours) (f, s.fresh)
  let updates := ((phases [] f.colours).map (fun c => (f.members c).length)).foldl (· + ·) 0
  let s := ({ s with fresh := fresh }.count (ctrFfa t.core 0) updates).count (ctrFfa t.core 1) 1
  modHead (s.modFfa t.id (fun _ => countNodes f2)) t.id c (fun c => { c with latched := none, ended := true })

/-- The end of a sweep (R263, R265): its states are published, and SWEEP moves on. -/
def sweepPublish (s : State) (t : Team) (f : Ffa) (c : FfaCmd) (left : Nat) : State :=
  let s := (publish s t f f.sweep).modFfa t.id (fun f => { f with sweep := (f.sweep + 1) % sweepMod })
  modHead s t.id c (fun c => { c with kind := .sweep left, since := none, force := false, ended := false, ready := s.cycle })

/-- FFA_SWEEP_PERFORM (R263, R264, R267, R268, R279): the sweep in progress goes on to its next phase or ends, its states are published, the next one begins, or its
boundary wait does; a command whose sweeps are done ends. -/
def execFfaSweepPerform (team : Nat) (s : State) : Host.Outcome State Fault Refusal :=
  .next (
    match ffaHead s team with
    | none => s
    | some (t, f, c) =>
      match c.kind, c.latched with
      | .sweep _, some ghosts =>
        if s.cycle < c.ready then s
        else if c.phase < (phases [] f.colours).length then sweepPhase s t f c
        else sweepOnce s t f c ghosts
      | .sweep n, none =>
        if n = 0 then ffaFinish s team c
        else if !sweepReady s t f c then
          (if c.since.isSome then s else modHead s team c (fun c => { c with since := some (s.time (dieOf t.core)) }))
        else if c.ended then
          let s := sweepPublish s t f c (n - 1)
          if n = 1 then ffaFinish s team c else s
        else sweepLatch s t f c
      | _, _ => s)

/-- BOUNDARY_WAIT_EXPIRY (R268): a boundary wait has run out, while what it waits on is not saved. -/
def execBoundaryWaitExpiry (team : Nat) (s : State) : Host.Outcome State Fault Refusal :=
  .next (
    match ffaHead s team with
    | none => s
    | some (t, f, c) =>
      match c.since with
      | some d =>
        if !sweepReady s t f c && !waitsOnSaved s t f c && decide (d + c.bound ≤ s.time (dieOf t.core)) then raiseFfa s team c .ffaStale 0 else s
      | none => s)

/-- A tick of a boundary wait on a saved array is not counted (R268, R380). -/
def shiftBoundary (s : State) : State :=
  { s with teams := s.teams.map (fun (t : Team) =>
      match if t.savedAt.isSome then none else t.ffa with
      | none => t
      | some f =>
        let move := fun (c : FfaCmd) => if c.since.isSome && waitsOnSaved s t f c then { c with since := c.since.map (· + 1) } else c
        { t with ffa := some { f with queue := f.queue.map move } }) }

/-- Cycles of a health window: 2^16 draws of 8 nodes (R269). [DESIGN CHOICE, log entry 34] -/
def healthCycles : Nat := 8192

/-- HEALTH_WINDOW_CLOSE (R269): the count of the window is recorded; a biased one raises FFA_BIAS in physical mode, to the group that
issued the first queued command whose group has not ended, and where there is none to the team's group of the lowest slot: the manual names the
group that issued the command being performed, and not what holds where that group has ended or no command is queued. [DESIGN CHOICE, log
entries 5 and 46] -/
def execHealthWindowClose (team count : Nat) (s : State) : Host.Outcome State Fault Refusal :=
  .next (
    match s.team? team with
    | none => s
    | some t =>
      match t.ffa with
      | none => s
      | some f =>
        if t.savedAt.isSome || s.cycle < f.winStart + healthCycles then s
        else
          let n := count % 65537
          let biased := decide (n < 32768 - 1024) || decide (32768 + 1024 < n)
          let s := (s.modFfa team (fun f => { f with nwin := f.nwin + 1, lastcnt := n, biased := biased, winStart := s.cycle })).count
            (ctrFfa t.core 2) 1
          if !biased || f.replay then s
          else
            match f.queue.find? (fun c => (s.group? c.gid).isSome || t.saved.any (fun g => g.gid == c.gid)), s.groupsOf team with
            | some c, _ => raiseFfa s team c .ffaBias 0
            | none, g :: _ => raise s g.gid (ffaFault s g team g.pc .ffaBias 0)
            | none, [] => s)

end Sys2Proof.Machine
end

