-- ==== Sys2Proof/Machine/Issue.lean ====
section
/-! DEFINITION. The fetch of runs with its checks, the scheduler's choice, word sharing, the load cap, the grant, and the resumption
of parked runs (R20 to R22, R25, R28, R123, R286 to R295, R298). -/

namespace Sys2Proof.Machine

/-! Fetch (R22, R89, R123, R467). -/

/-- A failed fetch check: word index, rank at one index, code, lane mask, address. -/
structure FetchFail where
  index : Nat
  rank : Nat
  code : Code
  lanes : Word64
  addr : Nat

/-- A run as fetched: its words, each with its index, its trailer, and what failed. -/
structure Fetched where
  words : List (Nat × Instr)
  tr : Option (Nat × Trailer)
  fails : List FetchFail
  /-- The answer about a host page is awaited (R182). -/
  waits : Bool

/-- One fetched word before the failing ones or the trailer. -/
def Fetched.add (f : Fetched) (n : Nat) (i : Instr) : Fetched := { f with words := (n, i) :: f.words }
def Fetched.fail (f : Fetched) (x : FetchFail) : Fetched := { f with fails := x :: f.fails }

/-- A fetch that ends without a trailer. -/
def Fetched.ends (l : List FetchFail) : Fetched := { words := [], tr := none, fails := l, waits := false }

/-- A failure at a word that concerns the run or its encoding: no lane, no address. -/
def formFail (n rank : Nat) (c : Code) : FetchFail := { index := n, rank := rank, code := c, lanes := 0, addr := 0 }

/-- The words of a run from word `n` on, up to its trailer. The slots of a trailer that is itself an ILLEGAL_OP still name what they
name (R22). -/
def fetchFrom (s : State) (g : Group) (launched idx n : Nat) (fuel : Nat) : Fetched × State :=
  match fuel with
  | 0 => (.ends [formFail 24 2 .runForm], s)
  | f + 1 =>
    if g.lwords ≤ idx + n then (.ends [formFail n 2 .runForm], s)
    else
      match fetchLane s g launched (idx + n) with
      | (.error .page, s) => ({ Fetched.ends [] with waits := true }, s)
      | (.error (.fault c), s) =>
        let (r, s) := fetchFrom s g launched idx (n + 1) f
        (r.fail { index := n, rank := 0, code := c, lanes := 0, addr := g.lcb.toNat + 12 * (idx + n) }, s)
      | (.ok b, s) =>
        if isTrailer b then
          let bad := match decodeTrailer b with | .error _ => [formFail n 1 .illegalOp] | .ok _ => []
          ({ Fetched.ends bad with tr := some (n, trailerFields b) }, s)
        else
          let (r, s) := fetchFrom s g launched idx (n + 1) f
          match decodeLane b with
          | .error _ => (r.fail (formFail n 1 .illegalOp), s)
          | .ok i => (r.add n i, s)

/-- The words of a run (R22): an index of 2^17 or more fails at word 0. [DEDUCED, log entries 40 and 41] -/
def fetchRun (s : State) (g : Group) (launched idx : Nat) : Fetched × State :=
  if 2 ^ 17 ≤ idx then (.ends [formFail 0 2 .runForm], s)
  else fetchFrom s g launched idx 0 25

/-- Registers that a run's variable-latency words write and its trailer does not name, bounds of direct fields, and the load
flag (R21, R22, R89, R123). [DEDUCED, log entry 41] -/
def formFails (g : Group) (needL : Bool) (f : Fetched) : List FetchFail :=
  let unnamed := match f.tr with
    | none => []
    | some (_, t) => f.words.filterMap (fun w =>
        if (variableDests w.2).all (fun r => t.regs.any (fun x => x.toNat == r)) then none
        else some (formFail w.1 2 .runForm))
  let token := match f.tr with
    | some (n, t) => if 9 ≤ t.tok.toNat then [formFail n 2 .runForm] else []
    | none => []
  let loads := match if needL then f.words.find? (fun w => loadBearing w.2) else none with
    | some w => [formFail w.1 2 .runForm]
    | none => []
  let out := fun (n : Nat) => decide (g.alloc ≤ n)
  let bounds := f.words.filterMap (fun w =>
    if (directRegs w.2).any out then some { index := w.1, rank := 3, code := .regBounds, lanes := g.k0, addr := 0 : FetchFail } else none)
  let named := match f.tr with
    | some (n, t) => if t.regs.any (fun x => out x.toNat) then
        [{ index := n, rank := 3, code := .regBounds, lanes := g.k0, addr := 0 : FetchFail }] else []
    | none => []
  f.fails ++ unnamed ++ token ++ loads ++ bounds ++ named

/-- The failure that is reported: the lowest index, then side A, then the rank (R22). [DEDUCED, log entry 41] -/
def worstFail (l : List (Nat × FetchFail)) : Option (Nat × FetchFail) :=
  leastBy (fun x => [x.2.index, x.1, x.2.rank]) l

/-- The code of a fetched run that has passed. -/
def Fetched.code (f : Fetched) : Code1 :=
  { words := f.words.map (fun w => w.2), tr := match f.tr with | some (_, t) => t | none => { tok := 8, regs := [], masks := [] } }

/-- Raises what the fetch of a run or a pair has found (R22, R467). -/
def raiseFetch (s : State) (g : Group) (seq idx side : Nat) (x : FetchFail) : State :=
  raise s g.gid { code := x.code, src := .fetch seq, pc := g.pc, lane := true, run := idx, word := x.index, side := side, lmask := x.lanes
                  faddr := BitVec.ofNat 64 x.addr, gtime := s.timeOf g, imm := 0, isBrk := false, prog := 0, level := 0 }

/-- The run of a group that came back parked and is to be fetched in this cycle (R298). -/
def refetchDue (s : State) (g : Group) : Option Run := g.runs.find? (fun r => r.again && r.sides.all (fun d => decide (d.next ≤ s.cycle)))

/-- A restored parked run is fetched again from its index with the checks of R22, and goes on with what was fetched; a failure is raised at
its word, and a fetch that awaits its page is made again (R298, R467). [DEDUCED, log entry 62] -/
def refetch (s : State) (g : Group) (r : Run) : State :=
  let at_ := ((s.grid? g.grid).map (·.launchedAt)).getD 0
  let (l, s) := (r.sides.filter (fun d => !d.issued)).foldl (fun (a : List (Side × Fetched) × State) d =>
    let (f, s) := fetchRun a.2 g at_ d.idx
    (a.1 ++ [(d, f)], s)) ([], s)
  let later := s.modGroup g.gid (·.modRun r.seq (fun r => { r with sides := r.sides.map (fun d => { d with next := s.cycle + 1 }) }))
  let fails := l.flatMap (fun x => (formFails g (!r.pair && !r.lb) x.2).map (fun y => (x.1.side, y)))
  if l.any (fun x => x.2.waits) then later
  else
    match worstFail fails with
    | some (side, x) => raiseFetch later g r.seq (((r.side? side).map (·.idx)).getD 0) side x
    | none =>
      let put := fun (d : Side) => match l.find? (fun x => x.1.side == d.side) with
        | some (_, f) => { d with words := f.code.words, tr := f.code.tr }
        | none => d
      let s := s.modGroup g.gid (·.modRun r.seq (fun r => { r with again := false, sides := r.sides.map put }))
      r.sides.foldl (fun s d => consumeTrailer s g.gid r.seq d.side) s

/-- RUN_FETCH (R22, R286, R298): the head entry of a group's run queue, or a restored parked run, is fetched and checked; a fetch that awaits
a host page is made again later (R182). -/
def execRunFetch (gid : Nat) (s : State) : Host.Outcome State Fault Refusal :=
  .next (
    match s.group? gid with
    | none => s
    | some g =>
      match refetchDue s g, g.queue with
      | some r, _ => refetch s g r
      | none, [] => s
      | none, e :: _ =>
        if e.code.isSome then s
        else
          let at_ := ((s.grid? g.grid).map (·.launchedAt)).getD 0
          let (a, s) := fetchRun s g at_ e.idxA
          let (b, s) := if e.pair then fetchRun s g at_ e.idxB else (.ends [], s)
          let (t, again) := s.later
          let fails := (formFails g (!e.pair && !e.lb) a).map (fun x => (0, x)) ++
            (if e.pair then (formFails g false b).map (fun x => (1, x)) else [])
          if a.waits || b.waits then
            again.modGroup gid (fun g => { g with queue := mapIf g.queue (·.seq == e.seq) (fun e => { e with readyAt := max t (s.gtc + 1) }) })
          else match worstFail fails with
          | some (side, x) => raiseFetch s g e.seq (if side = 0 then e.idxA else e.idxB) side x
          | none =>
            s.modGroup gid (fun g => { g with queue := mapIf g.queue (·.seq == e.seq) (fun e =>
              { e with code := some (if e.pair then [a.code, b.code] else [a.code]) }) }))

/-! Readiness (R25, R104, R287). -/

/-- The tokens that the head's own trailers assign. -/
def ownTokens (l : List Code1) : List Nat := (l.map (fun c => c.tr.tok.toNat)).filter (· < 8)

/-- The head entry of a Ready group (R25 conditions 1 to 4, R104, R287). A run2 head waits for runs that have not retired and write
its selection mask, and for no landing. -/
def readyHead (s : State) (g : Group) : Option (Entry × List Code1) :=
  match g.queue with
  | [] => none
  | e :: _ =>
    match e.code with
    | none => none
    | some l =>
      let ok := !g.stopped && !g.preempt && g.tokensDone e.await && (ownTokens l).all (fun t => !g.tokenPending t) &&
        g.sides.all (·.issued) && decide (g.nextStart ≤ s.cycle) &&
        (!e.pair || !g.sides.any (fun d => !d.retired && setsMask e.k4.toNat d.words)) &&
        !s.ops.any (fun o => o.gid == g.gid && o.scalar && decide (o.seq < e.seq))
      if ok then some (e, l) else none

/-- The groups of a core, in resident-group slot order. -/
def groupsOn (s : State) (core : Nat) : List Group := s.groups.filter (fun g => g.core == core)

/-- A head is load-bearing: one of its words is, whatever its L bit says (R21). -/
def headLoads (l : List Code1) : Bool := l.any (fun c => c.words.any loadBearing)

/-- The group is load-active (R293). -/
def loadActive (g : Group) : Bool := g.runs.any (fun r => r.lb)

/-- The load cap of a core (R293). -/
def Core.cap (c : Core) : Nat := 48 - c.capDrop

/-- The load cap lets the head start (R293). -/
def capOk (s : State) (core : Nat) (g : Group) (l : List Code1) : Bool :=
  !headLoads l || loadActive g || g.cls == 0 ||
    decide (((groupsOn s core).filter loadActive).length < (s.core core).cap)

/-! Placement (R288, R290). -/

/-- Quarters and decoders held by the Issuing runs of a core. -/
def heldQuarters (s : State) (core : Nat) : Nat := (groupsOn s core).foldl (fun a g => g.runs.foldl (fun a r => a ||| r.quarters) a) 0
def heldDecoders (s : State) (core : Nat) : Nat := (groupsOn s core).foldl (fun a g => g.runs.foldl (fun a r => a ||| r.dec) a) 0

/-- The quarters that a width takes: the lowest free ones that fit (R288). -/
def takeQuarters (width held : Nat) : Option Nat :=
  let fits := if width = 8 then [1, 2, 4, 8] else if width = 16 then [3, 12] else [15]
  fits.find? (fun q => q &&& held == 0)

/-- The decoders that a head takes: the lowest free one, or both (R288). -/
def takeDecoders (pair : Bool) (held : Nat) : Option Nat :=
  if pair then (if held = 0 then some 3 else none)
  else if held &&& 1 = 0 then some 1 else if held &&& 2 = 0 then some 2 else none

/-- The started run of a head. -/
def newRun (s : State) (g : Group) (e : Entry) (l : List Code1) (quarters dec : Nat) (stream : Nat × Nat) : Run :=
  { seq := e.seq, pair := e.pair, sel := if e.pair then g.readK e.k4 else 0, await := e.await, lb := headLoads l, k4 := e.k4,
    sides := (l.zipIdx).map (fun c => { side := c.2, idx := if c.2 = 0 then e.idxA else e.idxB, words := c.1.words, tr := c.1.tr, wi := 0, pass := 0,
                                        issued := false, retired := false, held := false, next := s.cycle, half := [], acc := [], tick := 0, last := 0 })
    quarters := quarters, dec := dec, stream := stream, parked := false, again := false }

/-- A head starts: its entry is freed, ORF and LRF are zeroed, and the next entry becomes head and is fetched (R24, R28, R286). -/
def startRun (s : State) (g : Group) (e : Entry) (l : List Code1) (quarters dec : Nat) (stream : Nat × Nat) : State :=
  let (t, s) := s.later
  let run := newRun s g e l quarters dec stream
  let rest := match g.queue.drop 1 with
    | [] => []
    | x :: r => { x with readyAt := t } :: r
  let s := (s.setGroup { g with queue := rest, runs := g.runs ++ [run], orf := [], lrf := [] }).count (ctrCore g.core 1) 1
  run.sides.foldl (fun s d => consumeTrailer s g.gid e.seq d.side) s

/-- A run that started in this cycle and that others may join: decoder, section, index, members, stream. -/
structure Leader where
  dec : Nat
  vf : Nat
  lcb : Word64
  idx : Nat
  members : Nat
  stream : Nat × Nat

/-- One Ready group in scheduling order takes what its head needs, joins a run that starts in this cycle, or is passed over
(R288 to R290, R293). -/
def offer (core : Nat) (a : State × List Leader) (gid : Nat) : State × List Leader :=
  let s := a.1
  match s.group? gid with
  | none => a
  | some g =>
    match readyHead s g with
    | none => a
    | some (e, l) =>
      if !capOk s core g l then a
      else
        match takeQuarters g.width (heldQuarters s core) with
        | none => a
        | some q =>
          let host := a.2.find? (fun x => !e.pair && x.vf == g.vf && x.lcb == g.lcb && x.idx == e.idxA && decide (x.members < 4))
          match host with
          | some x =>
            ((startRun s g e l q x.dec x.stream).count (ctrCore core 3) 1,
              a.2.map (fun (y : Leader) => if y.dec == x.dec then { y with members := y.members + 1 } else y))
          | none =>
            match takeDecoders e.pair (heldDecoders s core) with
            | none => a
            | some d =>
              (startRun s g e l q d (g.gid, e.seq),
                if e.pair then a.2 else a.2 ++ [{ dec := d, vf := g.vf, lcb := g.lcb, idx := e.idxA, members := 1, stream := (g.gid, e.seq) }])

/-- Ages: a head that has become Ready takes the present time; one that is not Ready has none (R287). -/
def ageHeads (s : State) (core : Nat) : State :=
  (groupsOn s core).foldl (fun s g =>
    let ready := (readyHead s g).isSome
    s.modGroup g.gid (fun g => { g with queue := match g.queue with
      | [] => []
      | e :: r => { e with since := if ready then (match e.since with | none => some (s.timeOf g) | x => x) else none } :: r })) s

/-- Ready groups of a core by a key. -/
def readyBy (s : State) (core : Nat) (key : Group → List Nat) : List Group :=
  let l := (groupsOn s core).filter (fun g => (readyHead s g).isSome)
  l.foldl (fun acc g => (acc.filter (fun x => !lexLt (key g) (key x))) ++ g :: acc.filter (fun x => lexLt (key g) (key x))) []

/-- Age of a group's head. -/
def headAge (g : Group) : Nat := match g.queue with | e :: _ => e.since.getD 0 | [] => 0

/-- The key of the grant's choice: the oldest Ready group, ties by class, then slot (R288, R295). [DEDUCED, log entry 73] -/
def grantKey (g : Group) : List Nat := [headAge g, g.cls, g.slot]

/-- The armed grant (R295): the oldest Ready group starts ahead of every other, and others may join it (R290); nothing where it
does not fit, for then nothing starts on the core. [DEDUCED, log entry 73] -/
def useGrant (s : State) (core : Nat) : Option (State × List Leader) :=
  match (readyBy s core grantKey).head? with
  | none => some (s, [])
  | some g =>
    match readyHead s g with
    | none => some (s, [])
    | some (e, l) =>
      match takeQuarters g.width (heldQuarters s core), takeDecoders e.pair (heldDecoders s core) with
      | some q, some d =>
        some ((startRun s g e l q d (g.gid, e.seq)).modCore core (fun c => { c with grant := false }),
          if e.pair then [] else [{ dec := d, vf := g.vf, lcb := g.lcb, idx := e.idxA, members := 1, stream := (g.gid, e.seq) }])
      | _, _ => none

/-- The run of a group that came back parked and holds no quarters yet (R298). -/
def awaitsQuarters (g : Group) : Option Run :=
  if g.stopped || g.preempt then none else g.runs.find? (fun r => r.parked && !r.again && r.quarters == 0 && r.sides.any (fun d => !d.issued))

/-- The quarters and decoders that a restored parked run takes: both decoders while both sides of a pair have words to issue (R298). -/
def quartersFor (s : State) (g : Group) (r : Run) : Option (Nat × Nat) :=
  match takeQuarters g.width (heldQuarters s g.core), takeDecoders (r.pair && r.sides.all (fun d => !d.issued)) (heldDecoders s g.core) with
  | some q, some d => some (q, d)
  | _, _ => none

/-- A restored parked run takes its quarters and decoders afresh, if they are free (R298). [DEDUCED, log entry 73] -/
def takeAgain (s : State) (gid : Nat) : State :=
  match (s.group? gid).bind (fun g => (awaitsQuarters g).map (fun r => (g, r))) with
  | none => s
  | some (g, r) =>
    match quartersFor s g r with
    | none => s
    | some (q, d) => s.modGroup gid (·.modRun r.seq (fun r => { r with quarters := q, dec := d }))

/-- Everything that starts on a core in this cycle: the armed grant; restored parked runs, by slot, which R298 gives no place among the
Ready groups; and the Ready groups in scheduling order (R288 to R290, R295, R298). [DEDUCED, log entry 73] -/
def startCycle (s : State) (core : Nat) : State :=
  let s := ageHeads s core
  let go := fun (a : State × List Leader) =>
    let s := (groupsOn a.1 core).foldl (fun s g => takeAgain s g.gid) a.1
    ((readyBy s core (fun g => [g.cls, headAge g, g.slot])).foldl (fun a g => offer core a g.gid) (s, a.2)).1
  if (s.core core).grant then
    match useGrant s core with
    | none => s
    | some a => go a
  else go (s, [])

/-- RUN_START (R24, R25, R288 to R295). -/
def execRunStart (core : Nat) (s : State) : Host.Outcome State Fault Refusal := .next (startCycle s core)

/-- Something on the core may start in this cycle, or a head has become Ready: RUN_START is due. -/
def startsDue (s : State) (core : Nat) : Bool :=
  (groupsOn s core).any (fun g =>
    match readyHead s g with
    | none => false
    | some (e, l) =>
      e.since.isNone || (capOk s core g l && !(s.core core).grant && (takeQuarters g.width (heldQuarters s core)).isSome &&
        (takeDecoders e.pair (heldDecoders s core)).isSome)) ||
    ((readyBy s core grantKey).isEmpty || !(s.core core).grant) && (groupsOn s core).any (fun g => match awaitsQuarters g with
      | some r => (quartersFor s g r).isSome
      | none => false) ||
    ((s.core core).grant && (match (readyBy s core grantKey).head? with
      | none => false
      | some g => (takeQuarters g.width (heldQuarters s core)).isSome &&
          (takeDecoders (match g.queue with | e :: _ => e.pair | [] => false) (heldDecoders s core)).isSome))

/-- ISSUE_GRANT_ARM (R295): one grant at the first cycle of each window. -/
def execIssueGrantArm (core : Nat) (s : State) : Host.Outcome State Fault Refusal :=
  .next (s.modCore core (fun c =>
    if c.grantWin ≤ window1024 s.cycle then { c with grantWin := window1024 s.cycle + 1, grant := true } else c))

/-- The cap after a window with a count (R294). -/
def newCap (cap count : Nat) : Nat := if 64 < count then max 2 (cap / 2) else if 16 ≤ count then cap else min 48 (cap + 1)

/-- LOST_LOCALITY_WINDOW (R294): the load cap is adjusted at the end of each window. [DEDUCED, log entry 73] -/
def execLostLocalityWindow (core : Nat) (s : State) : Host.Outcome State Fault Refusal :=
  .next (s.modCore core (fun c =>
    if c.lossWin < window1024 s.cycle then { c with lossWin := window1024 s.cycle, capDrop := 48 - newCap c.cap c.lost, lost := 0 } else c))

/-! The turn of a run's word, and parked runs (R26, R27, R35, R37, R291, R298). -/

/-- The decoder of a run is its own to use: while others of the stream that a fault split still issue on it, the split member waits,
and of two split members the one of the lower slot goes first (R291). [DEDUCED, log entry 73] -/
def decoderFree (s : State) (g : Group) (r : Run) : Bool :=
  r.stream.2 != 0 || !(groupsOn s g.core).any (fun h => h.gid != g.gid && h.runs.any (fun x =>
    x.dec &&& r.dec != 0 && x.sides.any (fun d => !d.issued) &&
      (x.stream.2 != 0 || (decide (h.slot < g.slot) && x.sides.any (goesOn s h x)))))

/-- The side of an Issuing run whose word issues in this cycle: the two words of a pair at one position issue together, so the earlier waits
for both stall counts; sides at different positions go on by themselves (R24, R26, R27, R35). -/
def turnOf (s : State) (g : Group) (r : Run) : Option Side :=
  let live := r.sides.filter (goesOn s g r)
  let ready := live.filter (fun d => live.all (fun e => e.wi != d.wi || e.pass != d.pass || decide (e.next ≤ s.cycle)))
  if r.quarters == 0 || !decoderFree s g r then none else leastBy (fun d => [d.wi, d.pass, d.side]) ready

/-- A word that issues together with others: its group, run and side, and the word. -/
structure Member where
  gid : Nat
  seq : Nat
  side : Nat
  word : Instr

/-- The words that issue together with the word of a side: those of the other members of its stream and of the other side of its pair at
the same position (R35, R291). -/
def together (s : State) (stream : Nat × Nat) (d : Side) : List Member :=
  s.groups.flatMap (fun g => (g.runs.filter (fun r => r.stream == stream && r.quarters != 0)).flatMap (fun r =>
    (r.sides.filter (fun e => goesOn s g r e && e.wi == d.wi && e.pass == d.pass)).filterMap (fun e =>
      (e.words[e.wi]?).map (fun i => { gid := g.gid, seq := r.seq, side := e.side, word := i }))))

/-- The words that an engine or the Ant queue may hold up (R298). -/
def isEngineWord (i : Instr) : Bool :=
  match i with
  | .atom _ => true | .red _ => true | .mxQ _ => true | .mxZero _ => true | .mxRd _ => true | .mxWr _ => true | .mxDrain _ => true
  | _ => false

/-- A word that an engine or the Ant queue may hold up, executed at the issue position (R298). -/
def engineWord (i : Instr) (s : State) : Host.Outcome State Fault Refusal :=
  match i with
  | .atom w => execAtom w s
  | .red w => execRed w s
  | .mxQ w => execMxQ w s
  | .mxZero w => execMxZero w s
  | .mxRd w => execMxRd w s
  | .mxWr w => execMxWr w s
  | .mxDrain w => execMxDrain w s
  | _ => .next s

/-- The issue position moved to a side of a group's run. -/
def State.at_ (s : State) (gid seq side : Nat) : State := (s.focus gid).onCur (fun g => { g with pos := (seq, side) })

/-- The run is parked. -/
def parkedNow (s : State) (m : Member) : Bool :=
  match (s.group? m.gid).bind (fun g => g.run? m.seq) with | some r => r.parked | none => false

/-- Every engine word of a stream issued, one after the other; none where one of them cannot issue (R291). -/
def issueAll (s : State) : List Member → Option State
  | [] => some s
  | m :: r =>
    if !isEngineWord m.word then issueAll s r
    else
      match engineWord m.word (s.at_ m.gid m.seq m.side) with
      | .next t => if parkedNow t m then none else issueAll t r
      | _ => none

/-- All members of a stream parked at their word (R291, R298). -/
def parkAll (s : State) (ms : List Member) : State := ms.foldl (fun s m => s.modGroup m.gid (·.parkRun s.cycle m.seq)) s

/-- The engine words that issue together issue in one cycle, or all of them wait (R35, R291, R298). -/
def issueTogether (s : State) (ms : List Member) : State := (issueAll s ms).getD (parkAll s ms)

/-- The parked run of a group with the side whose word may be tried again in this cycle. -/
def parkedSide (s : State) (g : Group) : Option (Run × Side × Instr) :=
  (g.runs.filter (fun r => r.parked)).findSome? (fun r => (turnOf s g r).bind (fun d => (d.words[d.wi]?).map (fun i => (r, d, i))))

/-- PARKED_RUN_RESUME (R298): the word at which a group's run is parked is tried again, with those that must issue beside it. -/
def execParkedRunResume (gid : Nat) (s : State) : Host.Outcome State Fault Refusal :=
  match s.group? gid with
  | none => .next s
  | some g =>
    match if g.preempt then none else parkedSide s g with
    | none => .next s
    | some (r, d, i) =>
      let ms := together s r.stream d
      if 2 ≤ ms.length then .next (issueTogether s ms) else engineWord i (s.at_ gid r.seq d.side)

end Sys2Proof.Machine
end

