-- ==== Sys2Proof/Machine/Barrier.lean ====
section
/-! DEFINITION. Barrier slots: arrivals, phases, waits and the four barrier words (R381 to R389). -/

namespace Sys2Proof.Machine

/-- Phases complete while EXPECT is met (R382). -/
def Bar.complete (b : Bar) : Bar :=
  if b.expect = 0 then b
  else { b with arrived := b.arrived % b.expect, phase := (b.phase + b.arrived / b.expect) % 2 ^ 32 }

/-- Arrivals counted, saturating at 2^40 − 1, and the phases that they complete (R382, R386). -/
def Bar.arrive (b : Bar) (n : Nat) : Bar := { b with arrived := min (b.arrived + n) (2 ^ 40 - 1) }.complete

/-- The wait for phase `p` is satisfied (R388). -/
def Bar.satisfied (b : Bar) (p : Nat) : Bool :=
  let d := (b.phase + 2 ^ 32 - p % 2 ^ 32) % 2 ^ 32
  decide (1 ≤ d) && decide (d ≤ 2 ^ 31)

/-- Every group of a team changed, resident or already saved. -/
def State.modGroupsOf (s : State) (team : Nat) (f : Group → Group) : State :=
  let f' := fun (g : Group) => if g.live && g.team == team then f g else g
  { s with cur := f' s.cur, others := s.others.map f' }.modTeam team (fun t => { t with saved := t.saved.map f })

/-- The end of a `bar.wait` with a status; a satisfied wait raises ACQFLOOR to the tick of its end (R388). -/
def Group.endBarWait (cycle time status : Nat) (b : BitVec 6) (g : Group) : Group :=
  let g := { g.result cycle b (BitVec.ofNat 64 status) 1 with stall := .none }
  if status = 0 then { g with acqfloor := max g.acqfloor time } else g

/-- The waits of a team's groups on a slot end with a status where a test on the awaited phase holds. -/
def endWaits (s : State) (team slot status : Nat) (p : Nat → Bool) : State :=
  let time := fun (g : Group) => s.timeOf g
  s.modGroupsOf team (fun g => match g.stall with
    | .barWait n ph _ b => if n == slot && p ph then g.endBarWait s.cycle (time g) status b else g
    | _ => g)

/-- The slot of a team. -/
def Team.bar (t : Team) (n : Nat) : Bar := t.bars.getD n Bar.reset

/-- A slot changed; satisfied waits end at that instant (R382, R388). -/
def setBar (s : State) (team n : Nat) (b : Bar) : State :=
  endWaits (s.modTeam team (fun t => { t with bars := t.bars.set n b })) team n 0 b.satisfied

/-- Bytes or arrivals counted on a slot of a team; one that it does not hold counts nothing (R317, R389). -/
def countBar (s : State) (team n count : Nat) : State :=
  match s.team? team with
  | none => s
  | some t => if n < t.bars.length then setBar s team n ((t.bar n).arrive count) else s

/-- The slot that a slot word names, if it is well formed and the team holds it (R384). -/
def slotOf (s : State) (x : Word64) : Option Nat :=
  let n := bitsOf x.toNat 4 0
  if bitsOf x.toNat 31 5 = 0 && decide (n < (s.teamOf s.cur).bars.length) then some n else none

/-- `bar.init` (R385): the slot begins anew and every wait on it ends with status 2. -/
def execBarInit (a b : BitVec 6) (s : State) : Host.Outcome State Fault Refusal :=
  withCur s (
    let x := s.cur.readS b
    match slotOf s (s.cur.readS a) with
    | none => raiseScalar s .access 0
    | some n =>
      if bitsOf x.toNat 63 41 != 0 then raiseScalar s .access 0
      else
        let bar : Bar := { mode := x.getLsbD 40, arrived := 0, expect := bitsOf x.toNat 39 0, phase := 0 }
        let s := s.modTeam s.cur.team (fun t => { t with bars := t.bars.set n bar })
        (endWaits s s.cur.team n 2 (fun _ => true)).onCur (·.next s.cycle))

/-- `bar.arr` once its release may perform (R386). [DEDUCED, log entry 49] -/
def barArrEnd (a b : BitVec 6) (s : State) : State :=
  let x := s.cur.readS b
  match slotOf s (s.cur.readS a) with
  | none => raiseScalar s .access 0
  | some n =>
    if b != 0 && bitsOf x.toNat 63 40 != 0 then raiseScalar s .access 0
    else
      let bar := (s.teamOf s.cur).bar n
      let token := BitVec.ofNat 64 (bar.phase * 2 ^ 32 + n)
      (setBar s s.cur.team n (bar.arrive (if b = 0 then 1 else bitsOf x.toNat 39 0))).onCur (·.result s.cycle a token 1)

/-- `bar.arr` (R386): a release. It is tried again until the release may perform, in the order of the slots of a tick (R382).
[DEDUCED, log entry 49] -/
def execBarArr (a b : BitVec 6) (s : State) : Host.Outcome State Fault Refusal :=
  withCur s (
    if !earlierDone s s.cur || s.hdPending s.cur.gid || !mayWriteS s a || s.timeOf s.cur < s.cur.hd + 2 then s.hold
    else barArrEnd a b s)

/-- `bar.exp` (R387). -/
def execBarExp (a b : BitVec 6) (s : State) : Host.Outcome State Fault Refusal :=
  withCur s (
    let x := s.cur.readS b
    match slotOf s (s.cur.readS a) with
    | none => raiseScalar s .access 0
    | some n =>
      if bitsOf x.toNat 63 40 != 0 then raiseScalar s .access 0
      else
        let bar := (s.teamOf s.cur).bar n
        (setBar s s.cur.team n { bar with expect := bitsOf x.toNat 39 0 }.complete).onCur (·.next s.cycle))

/-- `bar.wait` (R388): it ends in the next cycle when it is satisfied as it begins, or it waits to the end of tick D. -/
def execBarWait (a b : BitVec 6) (s : State) : Host.Outcome State Fault Refusal :=
  withCur s (
    let x := s.cur.readS a
    let y := s.cur.readS b
    match slotOf s x with
    | none => raiseScalar s .access 0
    | some n =>
      if bitsOf y.toNat 63 32 != 0 then raiseScalar s .access 0
      else if !mayWriteS s b then s.hold
      else
        let p := bitsOf x.toNat 63 32
        let limit := if y = 0 then s.cur.febound.toNat else y.toNat
        if ((s.teamOf s.cur).bar n).satisfied p then
          s.onCur (fun g => { g with stall := .horizon (s.timeOf g) (.barEnd b), sready := s.cycle + 1 })
        else s.onCur (fun g => { g with stall := .barWait n p (s.timeOf g + limit) b }))

/-- BAR_WAIT_TIMEOUT (R388): the end of tick D finds the wait unsatisfied, or of the last one before it where the follower's GTC passes over
D; an open fault of the group does not prolong it (R380). [DEDUCED, log entry 13] -/
def execBarWaitTimeout (gid : Nat) (s : State) : Host.Outcome State Fault Refusal :=
  .next (
    match s.timed? gid with
    | none => s
    | some g =>
      match g.stall with
      | .barWait n p d b =>
        if d < s.timeNext (dieOf g.core) && !((s.teamOf g).bar n).satisfied p then s.modGroupAny gid (·.endBarWait s.cycle (s.timeOf g) 1 b) else s
      | _ => s)

end Sys2Proof.Machine
end

