-- ==== Sys2Proof/Machine/Hash.lean ====
section
/-! DEFINITION. The digest SHA3-256 of the shape hash and of the reproducibility signature (R403, R404), and the check CRC-32C of images
(R251, R374). The manual names the functions and does not spell them out: they are that of FIPS 202 (PRESUMED, log entry 9) and that of
RFC 3720 (PRESUMED, log entry 8). -/

namespace Sys2Proof.Machine

/-- The sponge: 25 words of 64 bits as numbers, word x of row y at place 5 y + x. -/
abbrev Sponge := List Nat

/-- A 64-bit word turned left. -/
def turn64 (w n : Nat) : Nat := w * 2 ^ n % 2 ^ 64 + w / 2 ^ (64 - n)

/-- θ: every word takes in the parity of the column before it and that of the column after it, turned by one. -/
def mixColumns (a : Sponge) : Sponge :=
  let parity := fun (x : Nat) => [0, 5, 10, 15, 20].foldl (fun p r => p ^^^ a.getD (r + x % 5) 0) 0
  let mix := (List.range 5).map (fun x => parity (x + 4) ^^^ turn64 (parity (x + 1)) 1)
  (a.zipIdx).map (fun e => e.1 ^^^ mix.getD (e.2 % 5) 0)

/-- The walk of ρ and π from word x of row y: each word of it moves to the place of the next, turned by the triangular number of its
step. -/
def wordWalk (step x y : Nat) : (n : Nat) → List (Nat × Nat × Nat)
  | 0 => []
  | n + 1 =>
    let z := (2 * x + 3 * y) % 5
    (5 * y + x, 5 * z + y, (step + 1) * (step + 2) / 2 % 64) :: wordWalk (step + 1) y z n

/-- ρ and π: the 24 words of the walk from word 1 of row 0 move along it; word 0 of row 0 stays. -/
def moveWords (a : Sponge) : Sponge :=
  (wordWalk 0 1 0 24).foldl (fun b m => b.set m.2.1 (turn64 (a.getD m.1 0) m.2.2)) a

/-- χ: every word is mixed with the next two of its row. -/
def mixRows (a : Sponge) : Sponge :=
  (a.zipIdx).map (fun e =>
    let near := fun (k : Nat) => a.getD (e.2 / 5 * 5 + (e.2 + k) % 5) 0
    e.1 ^^^ ((2 ^ 64 - 1 - near 1) &&& near 2))

/-- The words of ι, from a register that shifts with the polynomial x^8 + x^6 + x^5 + x^4 + 1: its low bit is bit 2^j − 1 of a word, for
j from 0 to 6 in turn. -/
def iotaWords (reg : Nat) : (rounds : Nat) → List Nat
  | 0 => []
  | n + 1 =>
    let x := (List.range 7).foldl (fun (x : Nat × Nat) j =>
      (x.1 + x.2 % 2 * 2 ^ (2 ^ j - 1), if x.2 < 128 then 2 * x.2 else 2 * x.2 ^^^ 0x171)) (0, reg)
    x.1 :: iotaWords x.2 n

/-- The permutation: 24 rounds. -/
def stir (a : Sponge) : Sponge :=
  (iotaWords 1 24).foldl (fun a c => (mixRows (moveWords (mixColumns a))).modifyHead (· ^^^ c)) a

/-- Whole blocks of 136 bytes taken in, at most `n`. -/
def soak (a : Sponge) (b : List Byte) : (n : Nat) → Sponge
  | 0 => a
  | n + 1 =>
    let block := (List.range 17).map (fun i => ofBytes ((b.drop (8 * i)).take 8))
    soak (stir ((a.zipIdx).map (fun e => e.1 ^^^ block.getD e.2 0))) (b.drop 136) n

/-- A message as a number with its end mark: the two bits 01, then 1, zeros and 1 to the end of the last block. -/
def marked (b : List Byte) : List Byte :=
  let blocks := b.length / 136 + 1
  toBytes (136 * blocks) (ofBytes b + 6 * 256 ^ b.length + 2 ^ (1088 * blocks - 1))

/-- SHA3-256; the digest's first byte is the lowest (R3). [PRESUMED, log entry 9] -/
def sha3 (b : List Byte) : BitVec 256 :=
  let a := soak (List.replicate 25 0) (marked b) (b.length / 136 + 1)
  BitVec.ofNat 256 (pack4 (a.take 4))
where
  /-- Four words as one number, the first lowest. -/
  pack4 (l : List Nat) : Nat := l.foldr (fun w r => w + 2 ^ 64 * r) 0

/-- The reproducibility signature of a `.det on` grid (R404): the scalar code, the lane code, the launch descriptor with w0, w1, w3, w8,
w10 and w23 set to 0, the first ARGLEN bytes of the argument block, and the shape hash. [PRESUMED, log entry 9] -/
def signature (scalarCode laneCode descriptor argumentBytes : List Byte) (shape : BitVec 256) : BitVec 256 :=
  let kept := (descriptor.zipIdx).map (fun e => if [0, 1, 3, 8, 10, 23].contains (e.2 / 8) then 0 else e.1)
  sha3 (scalarCode ++ laneCode ++ kept ++ argumentBytes ++ toBytes 32 shape.toNat)

/-! CRC-32C. -/

/-- One bit of the check, the lowest first: the polynomial 0x1EDC6F41 with its bits reversed (R251). [PRESUMED, log entry 8] -/
def crcBit (c : Nat) : Nat := if c % 2 = 1 then c / 2 ^^^ 0x82F63B78 else c / 2

/-- One byte of the check. -/
def crcByte (c : Nat) (b : Byte) : Nat :=
  crcBit (crcBit (crcBit (crcBit (crcBit (crcBit (crcBit (crcBit (c ^^^ b.toNat))))))))

/-- CRC-32C of a byte string (R251, R374). [PRESUMED, log entry 8] -/
def crc32c (l : List Byte) : Nat := l.foldl crcByte 0xFFFFFFFF ^^^ 0xFFFFFFFF

end Sys2Proof.Machine
end

