-- ==== Sys2Proof/Machine/Twe.lean ====
section
/-! DEFINITION. Tile descriptors, `cpy`, `cpym` and `cpyc`, the walk with its guard words, byte counts and collectives
(R310 to R321). -/

namespace Sys2Proof.Machine

/-! Fields of a tile descriptor (R310). -/

/-- A tile descriptor read out. -/
structure Tile where
  src : Nat
  sps : Bool
  dst : Nat
  spd : Bool
  ss1 : Int
  ss2 : Int
  ds1 : Int
  ds2 : Int
  /-- Extents, not less 1. -/
  n0 : Nat
  n1 : Nat
  n2 : Nat
  esize : Nat
  etype : Nat
  op : Bool
  bar : Nat
  bv : Bool
  gv : Bool
  guard : Nat
  cmask : Nat
  dieset : Nat
  coll : Nat

/-- The fields of a descriptor (R310). -/
def tileOf (d : BitVec 512) : Tile :=
  let n := d.toNat
  { src := bitsOf n 59 0, sps := bitOf n 63, dst := bitsOf n 123 64, spd := bitOf n 127, ss1 := signedOf 32 (bitsOf n 159 128),
    ss2 := signedOf 32 (bitsOf n 191 160), ds1 := signedOf 32 (bitsOf n 223 192), ds2 := signedOf 32 (bitsOf n 255 224),
    n0 := bitsOf n 287 256 + 1, n1 := bitsOf n 303 288 + 1, n2 := bitsOf n 319 304 + 1, esize := bitsOf n 328 326,
    etype := bitsOf n 332 329, op := bitOf n 333, bar := bitsOf n 341 337, bv := bitOf n 342, gv := bitOf n 343,
    guard := bitsOf n 383 352, cmask := bitsOf n 415 384, dieset := bitsOf n 431 428, coll := bitsOf n 447 432 }

/-- Bytes of an element. -/
def Tile.size (t : Tile) : Nat := 2 ^ t.esize
/-- Elements of the tile. -/
def Tile.count (t : Tile) : Nat := t.n0 * t.n1 * t.n2
/-- Bytes of the tile. -/
def Tile.bytes (t : Tile) : Nat := t.count * t.size

/-- The offset of element `i` of the walk from a base, by the strides of one side (R311). -/
def Tile.offset (t : Tile) (s1 s2 : Int) (i : Nat) : Int :=
  (i / (t.n0 * t.n1) : Nat) * s2 + (i / t.n0 % t.n1 : Nat) * s1 + (i % t.n0 : Nat) * (t.size : Int)

/-- Source and destination addresses of an element (R311). -/
def Tile.srcAt (t : Tile) (i : Nat) : Int := t.src + t.offset t.ss1 t.ss2 i
def Tile.dstAt (t : Tile) (i : Nat) : Int := t.dst + t.offset t.ds1 t.ds2 i

/-- The lowest address of a side and the one past its highest. -/
def Tile.box (t : Tile) (base : Nat) (s1 s2 : Int) : Int × Int :=
  let a := s1 * ((t.n1 - 1 : Nat) : Int)
  let b := s2 * ((t.n2 - 1 : Nat) : Int)
  (base + min 0 a + min 0 b, base + max 0 a + max 0 b + (t.n0 * t.size : Nat))

/-- A side lies within the first `n` bytes. -/
def Tile.fits (t : Tile) (base : Nat) (s1 s2 : Int) (n : Nat) : Bool :=
  decide (0 ≤ (t.box base s1 s2).1) && decide ((t.box base s1 s2).2 ≤ (n : Int))

/-- The kinds of a tile word. -/
def tileFields (k : TweKind) (d : BitVec 512) : Bool :=
  let n := d.toNat
  let t := tileOf d
  let coll := k == .cpyc
  let sz : Int := t.size
  bitsOf n 511 448 = 0 && bitsOf n 427 416 = 0 && bitsOf n 351 344 = 0 && bitsOf n 336 334 = 0 && bitsOf n 325 320 = 0 &&
    bitsOf n 126 124 = 0 && bitsOf n 62 60 = 0 &&
    (coll || (t.coll = 0 && t.dieset = 0 && !t.op && t.etype = 0)) &&
    (k == .cpym || t.cmask = 0) && (k != .cpym || t.spd) && (t.spd || (!t.gv && !t.bv)) && t.guard % 8 = 0 &&
    decide (t.esize ≤ 4) && decide (t.n0 ≤ 2 ^ 24) && decide (t.bytes ≤ 2 ^ 32) &&
    t.src % t.size = 0 && t.dst % t.size = 0 &&
    (t.n1 = 1 || (t.ss1 % sz == 0 && t.ds1 % sz == 0)) && (t.n2 = 1 || (t.ss2 % sz == 0 && t.ds2 % sz == 0)) &&
    (!coll || (t.esize == 2 && [0, 1, 4].contains t.etype) || (t.esize == 1 && t.etype == 5))

/-! Receivers and checks (R312, R313, R318). -/

/-- The teams of the grid that a core of the quadrant holds. -/
def teamsAt (s : State) (grid core : Nat) : List Team :=
  s.teams.filter (fun t => t.grid == grid && t.core == core && t.savedAt.isNone)

/-- The cores that CMASK names. -/
def maskedCores (quad cmask : Nat) : List Nat := ((List.range 32).filter (fun j => bitOf cmask j)).map (· + 32 * quad)

/-- The receivers of a command: the teams of CMASK, or the issuing team (R312). -/
def receivers (s : State) (g : Group) (k : TweKind) (t : Tile) : List Team :=
  if k == .cpym then (maskedCores (quadOf g.core) t.cmask).flatMap (teamsAt s g.grid) else [s.teamOf g]

/-- Compute dies of a partition. -/
def diesOf (s : State) (part : Nat) : List Nat :=
  let p := s.part part
  (List.range 4).filter (fun d => (List.range 4).any (fun q =>
    decide (p.baseq.toNat ≤ 4 * d + q) && decide (4 * d + q < p.baseq.toNat + 2 ^ p.log2q.toNat)))

/-- Check 6 beyond the fields: every bit of CMASK names a core with a team of the grid, and a collective's dies are the issuing
one and dies of the partition (R313, R318). The manual names no fault for a DIESET that leaves out the issuing die or names one outside the
partition: here it fails check 6, with ACCESS. [DESIGN CHOICE, log entry 51] -/
def tilePlaces (s : State) (g : Group) (k : TweKind) (t : Tile) : Bool :=
  (k != .cpym || (maskedCores (quadOf g.core) t.cmask).all (fun c => !s.harvest.contains c && !(teamsAt s g.grid c).isEmpty)) &&
    (k != .cpyc || (bitOf t.dieset (dieOf g.core) &&
      (List.range 4).all (fun d => !bitOf t.dieset d || (diesOf s ((s.partOfVf g.vf).getD 0)).contains d)))

/-- Check 7 (R313). [DESIGN CHOICE, log entry 50] -/
def tileBounds (s : State) (g : Group) (k : TweKind) (t : Tile) : Bool :=
  (!t.sps || t.fits t.src t.ss1 t.ss2 (s.teamOf g).scrSize) &&
    (!t.spd || (receivers s g k t).all (fun r => t.fits t.dst t.ds1 t.ds2 r.scrSize &&
      (!t.gv || decide (t.guard + 8 ≤ r.scrSize)) && (!t.bv || decide (t.bar < r.bars.length))))

/-- An open participant of a collective: executed, and not combined yet (R318). From when on a die may use a COLLID again the manual
does not say: here a participant counts no more once it is combined, though its command is still writing. [DESIGN CHOICE, log entry 51] -/
def openPart (grid coll : Nat) (c : TweCmd) : Bool :=
  c.kind == .cpyc && c.grid == grid && c.result.isNone && (tileOf c.desc).coll == coll

/-- Two participants give equal shapes (R318). -/
def sameShape (a b : Tile) : Bool :=
  a.n0 == b.n0 && a.n1 == b.n1 && a.n2 == b.n2 && a.esize == b.esize && a.etype == b.etype && a.op == b.op && a.dieset == b.dieset

/-- A participant of unequal shape, or of the same die, has executed (R318). -/
def collClash (s : State) (g : Group) (t : Tile) : Bool :=
  s.twe.any (fun c => openPart g.grid t.coll c && (c.die == dieOf g.core || !sameShape (tileOf c.desc) t))

/-- What keeps an engine from a byte: a fault with its address, or nothing yet, for a page that is awaited (R182). -/
def stopAt (a : Nat) (e : Stop) : Option (Code × Nat) := e.code.map (fun c => (c, a))

/-- Checks 1 to 5 on a 64-byte block that a scalar operand names, and its bytes (R313, R322); no code while its host page is awaited
(R182). On which path the block is read the manual does not say: R219 names the reads of the walk alone. Here it is read on the lane path,
under the staging time of the group's lane accesses. [DESIGN CHOICE, log entry 50] -/
def readBlock (s : State) (x : Word64) : Except (Option (Code × Nat)) (BitVec 512) × State :=
  let g := s.cur
  let t := s.teamOf g
  let a := bitsOf x.toNat 59 0
  if bitsOf x.toNat 62 60 != 0 || a % 64 != 0 then (.error (some (.access, a)), s)
  else if x.getLsbD 63 then
    if t.scrSize < a + 64 then (.error (some (.scrBounds, 0)), s)
    else if (wordsOf a 64).any (fun w => t.errs.contains w) then (.error (some (.dataError, a)), s)
    else (.ok (BitVec.ofNat 512 (ofBytes (readBytes t.scr a 64))), s)
  else
    match reach s g.vf g.core (s.grid? g.grid) a 64 needRead with
    | (.error e, s) => (.error (stopAt a e), s)
    | (.ok p, s) =>
      if p.ptype == 3 then (.error (some (.access, a)), s)
      else if p.ptype == 0 then
        if hasErr s p.pa 64 then (.error (some (.dataError, a)), s)
        else
          let (b, s) := stagedRead s pathLane g.core g.stamp0 p.pa 64
          (.ok (BitVec.ofNat 512 (ofBytes b)), s)
      else
        let (b, s) := freeBytes s 64
        (.ok (BitVec.ofNat 512 (ofBytes b)), s)

/-! Entering the queue (R314). -/

/-- Bytes a tick that a TWE writes at most (R314, R410 step 4). [DESIGN CHOICE, log entry 46] -/
def tweRate (s : State) (vf : Nat) : Nat := if 6 ≤ s.tstepOf vf then 32 else 128

/-- Bytes that a command has still to write, one count a receiver. [DESIGN CHOICE, log entry 46] -/
def TweCmd.left (c : TweCmd) : Nat :=
  ((c.recvs.filter (fun r => !r.done)).map (fun r => (tileOf c.desc).bytes - r.progress * (tileOf c.desc).size)).foldl (· + ·) 0

/-- The commands in the queue of a cluster's TWE, in queue order (R314). -/
def tweQueue (s : State) (cluster : Nat) : List TweCmd := s.twe.filter (fun c => c.cluster == cluster && c.stage == .queued)

/-- A receiver that nothing has been written to yet. -/
def Recv.fresh (team : Nat) : Recv :=
  { team := team, progress := 0, since := none, arrived := 0, done := false, pending := 0, pages := [], held := false, own := [], next := 0 }

/-- The command of a checked word. -/
def tweCmd (s : State) (k : TweKind) (d : BitVec 512) (rs : List Nat) : TweCmd :=
  let g := s.cur
  { id := s.nextId, gid := g.gid, team := g.team, grid := g.grid, vf := g.vf, cluster := clusterOf g.core, die := dieOf g.core,
    kind := k, pc := g.pc, desc := d,
    recvs := rs.map Recv.fresh,
    bound := g.febound.toNat, stamp := g.stamp1, issuedAt := s.gtc, mark := (s.teamOf g).past.length, result := none,
    since := s.timeOf g, held := false, hmax := 0, ready := 0, stage := .checked }

/-- The promised time of a command: the bytes queued before it and its own at the full rate (R314). [DESIGN CHOICE, log entry 50] -/
def tweTime (s : State) (c : TweCmd) : Nat :=
  let n := ((tweQueue s (clusterOf s.cur.core) ++ [c]).map (fun (x : TweCmd) => x.left)).foldl (· + ·) 0
  s.timeOf s.cur + (n + tweRate s s.cur.vf - 1) / tweRate s s.cur.vf

/-- A checked command of the group at the issue position takes a promise slot, then an entry of the queue of 64; while one is missing
the scalar stream stalls (R120, R314). -/
def admitTwe (s : State) (a : BitVec 6) (c : TweCmd) : State :=
  let enter := fun (s : State) =>
    if 64 ≤ (tweQueue s (clusterOf s.cur.core)).length then s.hold
    else
      let c' : TweCmd := { c with cluster := clusterOf s.cur.core, stage := .queued, ready := s.gtc + 1 + Config.latency s.fresh }
      { s.onCur (·.next s.cycle) with twe := s.twe.filter (fun x => x.id != c.id) ++ [c'], fresh := s.fresh + 1 }
  if s.cur.proms.any (fun p => p.ref == .twe c.id) then enter s
  else match s.cur.freeSlot with
    | none => s.hold
    | some slot => enter (s.onCur (·.promise a slot (tweTime s c) (.twe c.id)))

/-- The checked command of a group that has not entered the queue yet. -/
def checkedTwe (s : State) (gid : Nat) : Option TweCmd := s.twe.find? (fun c => c.gid == gid && c.stage == .checked)

/-- `cpy`, `cpym` and `cpyc` (R313, R314, R318): after the group's earlier runs and scalar accesses, the checks in order on the
descriptor, which is read once; then a promise slot and a queue entry. Where the clash of two participants stands among the checks the manual
does not say: here it comes after check 7. [DESIGN CHOICE, log entry 51] -/
def tileWord (k : TweKind) (a b : BitVec 6) (s : State) : Host.Outcome State Fault Refusal :=
  withCur s (
    match checkedTwe s s.cur.gid with
    | some c => admitTwe s a c
    | none =>
      if !earlierDone s s.cur || !mayWriteS s a then s.hold
      else
        match readBlock s (s.cur.readS b) with
        | (.error none, s) => s.hold
        | (.error (some (c, f)), s) => raiseScalar s c f
        | (.ok d, s) =>
          let t := tileOf d
          if !tileFields k d || !tilePlaces s s.cur k t then raiseScalar s .access 0
          else if !tileBounds s s.cur k t then raiseScalar s .scrBounds 0
          else if k == .cpyc && collClash s s.cur t then raiseScalar s .access 0
          else
            let c := tweCmd s k d ((receivers s s.cur k t).map (fun (r : Team) => r.id))
            admitTwe { s with twe := s.twe ++ [c], nextId := s.nextId + 1 } a c)

/-- `cpy` (R312 to R314). -/
def execCpy (a b : BitVec 6) (s : State) : Host.Outcome State Fault Refusal := tileWord .cpy a b s
/-- `cpym` (R312 to R314). -/
def execCpym (a b : BitVec 6) (s : State) : Host.Outcome State Fault Refusal := tileWord .cpym a b s
/-- `cpyc` (R313, R314, R318). -/
def execCpyc (a b : BitVec 6) (s : State) : Host.Outcome State Fault Refusal := tileWord .cpyc a b s

/-! The walk (R311, R315). -/

/-- What the walk to one receiver carries: the last source sector read, the destination sector being filled, the bytes the command has
itself written, which later elements of the walk read, and the bytes that the TWE has written in this tick. -/
structure Walk where
  sector : Option (Nat × List Byte)
  /-- The virtual sector, its page at the sector's first byte, and the bytes to write by place. -/
  buf : Option (Nat × Page × List (Nat × Byte))
  own : SMap (Option Byte)
  used : Nat

/-- The key of a destination byte: its scratchpad offset, or its physical address and kind of page. -/
def ownKey (spd : Bool) (p : Page) (a : Nat) : Nat := if spd then a else 4 * a + p.ptype.toNat

/-- Bytes as the walk sees them: its own earlier writes over what it read. -/
def Walk.over (w : Walk) (spd : Bool) (p : Page) (a : Nat) (b : List Byte) : List Byte :=
  (b.zipIdx).map (fun x => (sget w.own none (ownKey spd p (a + x.2))).getD x.1)

/-- The team whose scratchpad a command reads: the one that issued it. -/
def TweCmd.home (s : State) (c : TweCmd) : Team := (s.team? c.team).getD Team.none_

/-- A source sector read at some time since the execution (R311, R315, R219). -/
def sourceSector (s : State) (c : TweCmd) (p : Page) (sec : Nat) : List Byte × State :=
  if (tileOf c.desc).sps then readSince s (c.home s) c.mark (16 * sec) 16
  else if p.ptype == 0 then
    stagedSince (if p.nc then s else l2Touch s (16 * sec) 16) pathTwe c.cluster c.stamp (some c.issuedAt) (16 * sec) 16
  else freeBytes s 16

/-- The page of a side of the walk at an address, or what keeps the walk from it: a fault, or nothing yet while a host page is awaited or
the port of a peer page is held (R182, R320, R425). -/
def walkPage (s : State) (c : TweCmd) (scr : Bool) (at_ : Int) (need : Need) : Except (Option (Code × Nat)) Page × State :=
  let a := at_.toNat
  if scr then (.ok { scratchPage with pa := a }, s)
  else if at_ < 0 then (.error (some (.access, a)), s)
  else
    match reach s c.vf (4 * c.cluster) (s.grid? c.grid) a (tileOf c.desc).size need with
    | (.error e, s) => (.error (stopAt a e), s)
    | (.ok p, s) => (if p.ptype == 3 then .error (some (.access, a)) else .ok p, s)

/-- One element of the source: its bytes, or what keeps the walk from them. [DESIGN CHOICE, log entry 50] -/
def readElement (s : State) (c : TweCmd) (w : Walk) (ownTeam : Bool) (i : Nat) :
    Except (Option (Code × Nat)) (List Byte) × Walk × State :=
  let t := tileOf c.desc
  match c.result with
  | some r => (.ok ((r.drop (i * t.size)).take t.size), w, s)
  | none =>
    match walkPage s c t.sps (t.srcAt i) needRead with
    | (.error e, s) => (.error e, w, s)
    | (.ok p, s) =>
      let bad := if t.sps then (wordsOf p.pa t.size).any (fun k => (c.home s).errs.contains k) else p.ptype == 0 && hasErr s p.pa t.size
      if bad then (.error (some (.dataError, (t.srcAt i).toNat)), w, s)
      else
        let sec := p.pa / 16
        let key := 4 * sec + p.ptype.toNat
        let (b, s) := match w.sector with
          | some (k, b) => if k == key then (b, s) else sourceSector s c p sec
          | none => sourceSector s c p sec
        let seen := if t.sps == t.spd && ownTeam then w.over t.spd p (16 * sec) b else b
        (.ok ((seen.drop (p.pa % 16)).take t.size), { w with sector := some (key, b) }, s)

/-- The pieces of a sector's bytes that stand side by side: places ascending. -/
def sectorRuns (l : List (Nat × Byte)) : List (Nat × List Byte) :=
  (sortBy (fun x => x.1) l).foldl (fun acc x =>
    match acc.getLast? with
    | some (a, b) => if a + b.length = x.1 then acc.dropLast ++ [(a, b ++ [x.2])] else acc ++ [(x.1, [x.2])]
    | none => [(x.1, [x.2])]) []

/-- The sector being filled is one write: in the receiver's scratchpad at once, with its byte count; else at its home, or out of the
device (R311, R317). -/
def flushWalk (s : State) (c : TweCmd) (r : Nat) (w : Walk) : Walk × State :=
  match w.buf with
  | none => (w, s)
  | some (va, p, l) =>
    let t := tileOf c.desc
    let s := s.count (ctrTwe c.cluster 0) l.length
    let places := l.map (fun x => x.1)
    let lo := places.foldl min 16
    let n := places.foldl max 0 + 1 - lo
    let b := (List.range n).map (fun i => ((l.find? (fun x => x.1 == lo + i)).map (fun x => x.2)).getD 0)
    let keep := (List.range n).filter (fun i => !places.contains (lo + i))
    let s := if t.spd then
        let s := (s.modTeam r (fun x => x.storeKeep (p.pa + lo) b keep)).modTwe c.id (fun c => { c with hmax := max c.hmax (s.time c.die) })
        if t.bv then countBar s r t.bar l.length else s
      else if p.ptype == 0 then
        let s := if p.nc then s else l2Touch s (p.pa + lo) n
        let (_, s) := arriveKeep s (p.pa + lo) b keep pathTwe (.twe c.id r)
        s.modTwe c.id (fun c => { c with recvs := mapIf c.recvs (·.team == r) (fun x =>
          { x with pending := x.pending + 1, pages := insertNat (16 * va / 65536) x.pages }) })
      else (sectorRuns l).foldl (fun s x => storeOut s c.vf c.gid { p with pa := p.pa + x.1 } x.2) s
    ({ w with buf := none }, s)

/-- The element opens a sector: it is not in the one being filled, or it writes a byte of it again. -/
def Walk.opens (w : Walk) (t : Tile) (i : Nat) : Bool :=
  let a := (t.dstAt i).toNat
  match w.buf with
  | some (va, _, l) => va != a / 16 || l.any (fun x => decide (a % 16 ≤ x.1) && decide (x.1 < a % 16 + t.size))
  | none => true

/-- An element added to the sector being filled, which is first written if it is another one; source reads that follow see it. -/
def putElement (s : State) (c : TweCmd) (r i : Nat) (w : Walk) (p : Page) (b : List Byte) : Walk × State :=
  let t := tileOf c.desc
  let a := (t.dstAt i).toNat
  let (w, s) := if w.opens t i then flushWalk s c r w else (w, s)
  let new := (b.zipIdx).map (fun x => (a % 16 + x.2, x.1))
  let buf := match w.buf with
    | some (va, q, l) => (va, q, l ++ new)
    | none => (a / 16, { p with pa := p.pa / 16 * 16 }, new)
  let own := if t.sps == t.spd then ssetAll w.own none ((b.zipIdx).map (fun x => (ownKey t.spd p (p.pa + x.2), some x.1))) else w.own
  ({ w with buf := some buf, own := own, used := w.used + b.length }, s)

/-- How a stretch of a walk ends. -/
inductive WalkEnd where
  /-- The bytes of the tick are used up, or the tile is at its end. -/
  | pause
  /-- A fault with its address, or a page or port that is awaited. -/
  | stop (e : Option (Code × Nat))

/-- A stretch of the walk from an element on, within the bytes that the TWE may write in a tick: how it ends, and the element reached
(R311, R314, R320). [DESIGN CHOICE, log entry 50] -/
def walkStretch (c : TweCmd) (r rate i : Nat) (w : Walk) (s : State) : (fuel : Nat) → WalkEnd × Nat × Walk × State
  | 0 => let (w, s) := flushWalk s c r w; (.pause, i, w, s)
  | f + 1 =>
    let ends := fun (e : WalkEnd) (w : Walk) (s : State) => let (w, s) := flushWalk s c r w; (e, i, w, s)
    if w.opens (tileOf c.desc) i && rate < w.used + 16 then ends .pause w s
    else
      match readElement s c w (c.team == r) i with
      | (.error e, w, s) => ends (.stop e) w s
      | (.ok b, w, s) =>
        match walkPage s c (tileOf c.desc).spd ((tileOf c.desc).dstAt i) needWrite with
        | (.error e, s) => ends (.stop e) w s
        | (.ok p, s) =>
          let (w, s) := putElement s c r i w p b
          walkStretch c r rate (i + 1) w s f

/-- The commands that a cluster's TWE walks now: up to 8, begun in queue order (R314). -/
def walked (s : State) (c : TweCmd) : Bool := ((tweQueue s c.cluster).take 8).any (fun x => x.id == c.id)

/-- An earlier command of the group still has bytes to write where this one writes (R314). [DESIGN CHOICE, log entry 50] -/
def tweBlocked (s : State) (c : TweCmd) (r : Nat) : Bool :=
  let t := tileOf c.desc
  let (x, y) := t.box t.dst t.ds1 t.ds2
  s.twe.any (fun e =>
    let u := tileOf e.desc
    let (a, b) := u.box u.dst u.ds1 u.ds2
    e.gid == c.gid && e.stage == .queued && decide (e.id < c.id) && u.spd == t.spd && decide (a < y) && decide (x < b) &&
      e.recvs.any (fun q => !q.done && (q.team == r || !t.spd)))

/-- VDEV_QERR takes the first rejection until it is cleared, and vector 1 is signalled (R358, R359, R401, R422). -/
def noteReject (s : State) (k : Pkt) (reason : Nat) : State :=
  if (s.vdev k.vf).qerrV then s
  else
    let f := fun (v : VDev) => { v with
      qerrV := true, qerrQueue := BitVec.ofNat 4 k.queue, qerrOp := k.bits.extractLsb' 0 8, qerrReason := BitVec.ofNat 8 reason }
    (s.modVDev k.vf f).signal (k.vf + 1) 1

/-- A walk fault of a command: raised to the group that issued it, held for a saved one (R320, R321); a COPY packet's is recorded
and ends the walk (R358). [DEDUCED, log entry 40] -/
def raiseTwe (s : State) (c : TweCmd) (recv : Nat) (code : Code) (faddr : Nat) : State :=
  match c.kind with
  | .packet k =>
    let s := s.modTwe c.id (fun c => { c with recvs := c.recvs.map (fun r => { r with done := true }) })
    match s.pkt? k with
    | none => s
    | some k => noteReject s k 8
  | _ =>
    let fr : FaultRec := { code := code, src := .twe c.id recv, pc := c.pc, lane := false, run := 0, word := 0, side := 0,
                           lmask := 0, faddr := BitVec.ofNat 64 faddr, gtime := s.time c.die, imm := 0, isBrk := false, prog := 0,
                           level := 0 }
    raiseHeld s c.gid fr

/-- The guard word of a receiver is empty (R316). -/
def guardEmpty (s : State) (t : Tile) (r : Nat) : Bool := !sget ((s.team? r).getD Team.none_).fe false (t.guard / 8)

/-- The receiver may be served: it stands, is not saved, and nothing holds it (R316, R320, R321). -/
def servable (s : State) (c : TweCmd) (r : Nat) : Option Recv :=
  match c.recvs.find? (fun x => x.team == r && !x.done && !x.held) with
  | none => none
  | some x =>
    let away := (tileOf c.desc).spd && ((s.team? r).getD Team.none_).savedAt.isSome
    if c.held || away || c.stage != .queued || !walked s c || tweBlocked s c r || (c.kind == .cpyc && c.result.isNone) then none else some x

/-- The data are in place: the guard word is set full with the bytes delivered, and the receiver is done (R316). -/
def finishRecv (s : State) (c : TweCmd) (r : Nat) : State :=
  let t := tileOf c.desc
  let s := s.modTwe c.id (fun c => { c with recvs := mapIf c.recvs (·.team == r) (fun x => { x with done := true, since := none }) })
  if t.gv then
    let s := s.modTeam r (fun x => (x.store t.guard (toBytes 8 t.bytes)).setBits [t.guard / 8] true)
    wakeTeam (s.modTwe c.id (fun c => { c with hmax := max c.hmax (s.time c.die) })) r [t.guard / 8]
  else s

/-- One receiver of a command changed. -/
def State.modRecv (s : State) (cmd team : Nat) (f : Recv → Recv) : State :=
  s.modTwe cmd (fun c => { c with recvs := mapIf c.recvs (·.team == team) f })

/-- The bytes that a cluster's TWE has written in the present tick (R314). -/
def tweUsed (s : State) (cluster : Nat) : Nat := let c := s.cluster cluster; if c.tweAt = s.gtc then c.tweUsed else 0

/-- A stretch of a receiver's writes (R311, R314, R320). -/
def walkRecv (s : State) (c : TweCmd) (x : Recv) : State :=
  let t := tileOf c.desc
  let holds := match c.kind with | .packet _ => false | .cpy => true | .cpym => true | .cpyc => true
  let w : Walk := { sector := none, buf := none, own := x.own, used := tweUsed s c.cluster }
  match walkStretch c x.team (tweRate s c.vf) x.progress w s (min (t.count - x.progress) 256) with
  | (e, i, w, s) =>
    let s := s.modCluster c.cluster (fun k => { k with tweAt := s.gtc, tweUsed := w.used })
    let s := s.modRecv c.id x.team (fun y => { y with progress := i, own := w.own, since := none })
    match e with
    | .pause => if i = t.count then finishRecv s c x.team else s
    | .stop none => s
    | .stop (some (e, f)) => raiseTwe (s.modTwe c.id (fun c => { c with held := holds })) c x.team e f

/-- TWE_RECEIVER_WRITE (R311, R316, R317): a receiver's writes of a tick, or its guard wait. They stand at the beginning of a tick,
before the barrier words of groups (R382). [DESIGN CHOICE, log entry 50] -/
def execTweReceiverWrite (cmd receiver : Nat) (s : State) : Host.Outcome State Fault Refusal :=
  .next (
    match s.twe? cmd with
    | none => s
    | some c =>
      match servable s c receiver with
      | none => s
      | some x =>
        let s := s.modRecv cmd receiver (fun x => { x with next := s.gtc + 1 })
        if (tileOf c.desc).gv && x.progress = 0 && !guardEmpty s (tileOf c.desc) receiver then
          if x.since.isSome then s else s.modRecv cmd receiver (fun x => { x with since := some (s.time c.die), arrived := s.cycle })
        else
          let s := match x.since with
            | some d => s.count (ctrTwe c.cluster 2) (s.time c.die - d)
            | none => s
          walkRecv s c x)

/-- GUARD_WAIT_EXPIRY (R320, R392): a guard wait has lasted longer than FEBOUND. -/
def execGuardWaitExpiry (cmd receiver : Nat) (s : State) : Host.Outcome State Fault Refusal :=
  .next (
    match s.twe? cmd with
    | none => s
    | some c =>
      match servable s c receiver with
      | none => s
      | some x =>
        match x.since with
        | none => s
        | some d =>
          if s.time c.die < d + c.bound || guardEmpty s (tileOf c.desc) receiver then s
          else raiseTwe ((s.count (ctrTwe c.cluster 2) (s.time c.die - d)).modRecv cmd receiver (fun x => { x with held := true })) c receiver .feWait 0)

/-- TWE_COMMAND_COMPLETE (R315, R214, R220): every write has performed and its completion time has returned; the promise slot
is freed, and the time joins H1, and Hd for writes to a scratchpad. A participant that IGNORE has ended before it was combined stays as
an executed one for the others (R319). -/
def execTweCommandComplete (cmd : Nat) (s : State) : Host.Outcome State Fault Refusal :=
  .next (
    match s.twe? cmd with
    | none => s
    | some c =>
      if c.held || c.stage != .queued || c.recvs.any (fun r => !r.done || r.pending != 0) then s
      else
        let left := if c.kind == .cpyc && c.result.isNone then mapIf s.twe (·.id == cmd) (fun c => { c with stage := .past })
          else s.twe.filter (fun x => x.id != cmd)
        let s := { s with twe := left }.count (ctrTwe c.cluster 1) 1
        match c.kind with
        | .packet k => s.modPkt k (fun p => { p with st := .completing 0, h := max p.h c.hmax })
        | _ =>
          let h := max c.hmax (s.time c.die)
          let sp := (tileOf c.desc).spd
          (s.modGrid c.grid (fun d => { d with h := max d.h h })).modGroupAny c.gid (fun g => { g with
            proms := g.proms.filter (fun p => p.ref != .twe cmd), h1 := max g.h1 h, hd := if sp then max g.hd h else g.hd }))

/-! Collectives (R318, R319). -/

/-- The participants of a command's collective, in ascending die number. -/
def participants (s : State) (c : TweCmd) : List TweCmd :=
  sortBy (fun (x : TweCmd) => x.die) (s.twe.filter (openPart c.grid (tileOf c.desc).coll))

/-- Every die of DIESET has executed its participant. [DEDUCED, log entry 51] -/
def allHere (s : State) (c : TweCmd) : Bool :=
  (List.range 4).all (fun d => !bitOf (tileOf c.desc).dieset d || (participants s c).any (fun x => x.die == d))

/-- One step of the fold (R318). -/
def collStep (t : Tile) (a b : Nat) : Nat :=
  let lt := fun (x y : Nat) => decide (signedOf 32 x < signedOf 32 y)
  match t.op, t.etype with
  | false, 4 => antFadd a b
  | false, 5 => (toFloat fmtBf16 0 false false (fpAdd false (fmtBf16.decode a) (fmtBf16.decode b)).val).1
  | false, _ => (a + b) % 2 ^ 32
  | true, 0 => if lt a b then b else a
  | true, 4 => (fmtF32.minMax true a b).1
  | true, 5 => (fmtBf16.minMax true a b).1
  | true, _ => max a b

/-- A participant's source elements in walk order, or its fault. -/
def collSource (c : TweCmd) (w : Walk) (i : Nat) (s : State) : (fuel : Nat) → Except (Option (Code × Nat)) (List Nat) × State
  | 0 => (.ok [], s)
  | f + 1 =>
    match readElement s c w false i with
    | (.error e, _, s) => (.error e, s)
    | (.ok b, w, s) =>
      match collSource c w (i + 1) s f with
      | (.error e, s) => (.error e, s)
      | (.ok l, s) => (.ok (ofBytes b :: l), s)

/-- The fold of the participants' sources, in order; a fault names its participant. [DEDUCED, log entry 51] -/
def collFold (t : Tile) (acc : Option (List Nat)) (s : State) : List TweCmd → Except (TweCmd × Option (Code × Nat)) (List Nat) × State
  | [] => (.ok (acc.getD []), s)
  | c :: r =>
    match collSource c { sector := none, buf := none, own := [], used := 0 } 0 s t.count with
    | (.error e, s) => (.error (c, e), s)
    | (.ok l, s) =>
      let acc := match acc with
        | none => l
        | some x => (x.zip l).map (fun p => collStep t p.1 p.2)
      collFold t (some acc) s r

/-- COLLECTIVE_COMBINE (R318): the fold is computed; each participant then writes it by the rules of its own receiver. One that IGNORE
has ended leaves with it, or alone when its source cannot be read. [DEDUCED, log entry 51] -/
def execCollectiveCombine (cmd : Nat) (s : State) : Host.Outcome State Fault Refusal :=
  .next (
    match s.twe? cmd with
    | none => s
    | some c =>
      let ps := participants s c
      let idle := fun (x : TweCmd) => x.stage != .past && (x.held || !walked s x || x.recvs.all (·.done))
      if c.kind != .cpyc || c.stage != .queued || c.result.isSome || !allHere s c || ps.any idle then s
      else
        let s := s.modTwe cmd (fun c => { c with ready := max c.ready (s.gtc + 1) })
        match collFold (tileOf c.desc) none s ps with
        | (.error (_, none), s) => s
        | (.error (x, some (e, a)), s) =>
          if x.stage == .past then { s with twe := s.twe.filter (fun y => y.id != x.id) }
          else raiseTwe (s.modTwe x.id (fun c => { c with held := true })) x x.team e a
        | (.ok l, s) =>
          let b := l.flatMap (toBytes (tileOf c.desc).size)
          let mine := fun (x : TweCmd) => ps.any (fun y => y.id == x.id)
          { s with twe := mapIf (s.twe.filter (fun x => !(mine x && x.stage == .past))) mine (fun x => { x with result := some b }) })

/-- COLLECTIVE_WAIT_EXPIRY (R319): a participant's wait for the others has run out. -/
def execCollectiveWaitExpiry (cmd : Nat) (s : State) : Host.Outcome State Fault Refusal :=
  .next (
    match s.twe? cmd with
    | none => s
    | some c =>
      let away := ((s.team? c.team).getD Team.none_).savedAt.isSome
      if c.kind != .cpyc || c.stage != .queued || c.result.isSome || c.held || away || allHere s c || s.time c.die < c.since + c.bound then s
      else raiseTwe (s.modTwe cmd (fun c => { c with held := true })) c c.team .feWait 0)

end Sys2Proof.Machine
end

