-- ==== Sys2Proof/Machine/Task.lean ====
section
/-! DEFINITION. Task mode: the Hamper, records, runners, the six task words, `sleep`, `exit`, the watchdog and the fold
(R38 to R40, R43, R121, R176, R326 to R356). -/

namespace Sys2Proof.Machine

/-! The Hamper (R331 to R333). -/

/-- The share of the Hamper that a team's tree uses: the key of its blocks, its first address and its bytes. -/
def hamperOf (s : State) (d : Grid) (tree : Nat) : Nat × Nat × Nat :=
  if d.hsp then (tree, ((s.team? tree).getD Team.none_).scrSize, d.hsize) else (0, d.hamper.toNat, d.hsize)

/-- The lowest free place for `n` bytes, in blocks of 64 bytes (R331, R333). [DESIGN CHOICE, log entry 36] -/
def hamperFit (d : Grid) (share : Nat × Nat × Nat) (n : Nat) : Option Nat :=
  let bs := d.blocks.filter (fun b => b.1 == share.1)
  let free := fun (a : Nat) => decide (a + n ≤ share.2.1 + share.2.2) && bs.all (fun b => decide (a + n ≤ b.2.1) || decide (b.2.1 + b.2.2 ≤ a))
  ((share.2.1 :: bs.map (fun b => b.2.1 + b.2.2)).filter free).foldl (fun a x => match a with | none => some x | some y => some (min x y)) none

/-- A block taken. [DESIGN CHOICE, log entry 36] -/
def Grid.take (d : Grid) (key a n : Nat) : Grid := { d with blocks := d.blocks ++ [(key, a, n)] }

/-- Bytes that the task machinery writes in the Hamper: in the team's scratchpad, or page by page at their homes in device memory. A
page that cannot be written takes nothing. [DESIGN CHOICE, log entry 36] -/
def hamperPut (s : State) (d : Grid) (tree a : Nat) (b : List Byte) : State :=
  if d.hsp then s.modTeam tree (fun t => t.store a b)
  else
    ((spans a b.length).foldl (fun (x : State × List Byte) c =>
      (match reachDevice x.1 d.vf (32 * (d.vf / 8)) none c.1 c.2 needWrite with
        | (.ok p, s) => State.usedPage s d.vf c.1 (hubWrite s p.pa (x.2.take c.2) pathTwe).2
        | (.error _, s) => s, x.2.drop c.2)) (s, b)).1

/-- A record's size in bytes (R330). -/
def recSize (ns nl width : Nat) : Nat := (128 + 8 * ns + 4 * width * nl + 63) / 64 * 64

/-- The bytes of a record (R330). -/
def recBytes (d : Grid) (r : Rec) : List Byte :=
  let t := r.task
  let head := pack [(192, r.mask.toNat), (164, r.pc), (160, t.msel), (155, t.ns), (150, t.nl), (142, t.lbase), (136, t.sbase),
    (132, (r.wait.map (fun (p : Promise) => p.slot)).getD 0), (128, t.stack.length), (108, t.id), (92, t.scope), (80, t.sidx),
    (20, (r.wait.map (fun (p : Promise) => p.time)).getD 0)]
  let stack := (List.range 8).map (fun i => match t.stack[i]? with | some (id, n) => id + 65536 * n | none => 0)
  let ptr := (List.range 8).map (fun i =>
    ((d.views.find? (fun (v : View) => v.task == t.id && v.tile == i && v.st == 1)).map (fun (v : View) => v.addr)).getD 0)
  toBytes 32 head ++ stack.flatMap (toBytes 4) ++ ptr.flatMap (toBytes 8) ++ r.svals.flatMap (fun x => toBytes 8 x.toNat) ++
    r.vvals.flatMap (fun l => l.flatMap (fun x => toBytes 4 x.toNat))

/-- The 64 bytes of a view header (R339). -/
def headerBytes (v : View) : List Byte :=
  toBytes 64 (pack [(64, v.addr + 64), (61, v.st), (58, v.tile), (38, v.task), (22, v.scope), (10, v.sidx)])

/-- The headers of a task's views written back when its runner leaves it (R339). -/
def putHeaders (s : State) (grid task tree : Nat) : State :=
  match s.grid? grid with
  | none => s
  | some d => (d.views.filter (fun v => v.task == task)).foldl (fun s v => hamperPut s d tree v.addr (headerBytes v)) s

/-! Runners (R326 to R329, R334, R335, R356). -/

/-- GCTL at launch (R168). [DEDUCED, log entry 33] -/
def Grid.gctl (d : Grid) : Word64 :=
  BitVec.ofNat 64 (pack [(6, d.prio), (5, if d.det then 1 else 0), (0, if d.check then 1 else 0)])

/-- A task that a runner takes up: nothing of its previous one survives (R327). Its lane path has staged nothing older than the fold that
its record waited for (R342). [DEDUCED, log entry 33] -/
def Group.takeTask (cycle : Nat) (d : Grid) (r : Rec) (g : Group) : Group :=
  let t := r.task
  let s := ssetAll [] 0 (((List.range 9).zip g.launch).map (fun x => (x.1 + 1, x.2)))
  let s := ssetAll s 0 (((List.range t.ns).zip r.svals).filterMap (fun x => if t.sbase + x.1 = 0 then none else some (t.sbase + x.1, x.2)))
  let v := ssetAll [] 0 ((r.vvals.zipIdx).flatMap (fun l => (l.1.zipIdx).map (fun x => (x.2 * 256 + t.lbase + l.2, x.1))))
  let k := sset [] 0 0 g.k0
  let k := if t.msel = 0 then k else sset k 0 t.msel r.mask
  { g with s := s, v := v, k := k, kc := k, lstat := [], klog := [], late := [], runs := [], queue := [], out := [], proms := [],
           pc := r.pc, gctl := d.gctl, gstat := 0, febound := 0x100000, task := some t, stretch := cycle, stall := .none,
           sready := cycle + 1, sboard := [], fault := none, heldFaults := [], acqfloor := 0, hd := 0, hs := 0, h1 := 0, h2 := 0, h3 := 0,
           stamp0 := max d.launchedAt r.stamp, stamp1 := d.launchedAt, stamp2 := d.launchedAt, stamp3 := d.launchedAt }

/-- A record leaves the lists and its task starts or resumes on a runner (R327); what the runner's earlier tasks wrote stays part of
the team's completion time (R364). -/
def startRecord (s : State) (gid rec : Nat) : State :=
  match s.gridOfRec rec with
  | none => s
  | some d =>
    match d.rec? rec with
    | none => s
    | some r =>
      let s := match s.group? gid with
        | some g => s.modTeam g.team (fun t => { t with h := max t.h g.latest })
        | none => s
      (s.modGrid d.id (fun d => { d with recs := d.recs.filter (fun x => x.id != rec) })).modGroup gid (Group.takeTask s.cycle d r)

/-- The block of a task's record: its own, or for a root task that found none at its start the first that is free now (R333).
[DESIGN CHOICE, log entry 36] -/
def recordBlock (s : State) (d : Grid) (t : Task) (n : Nat) : Task × Grid :=
  match t.addr with
  | some _ => (t, d)
  | none =>
    let share := hamperOf s d t.tree
    match hamperFit d share n with
    | some a => ({ t with addr := some a }, d.take share.1 a n)
    | none => (t, d)

/-- A record written in its block; one without a block is not written. [DESIGN CHOICE, log entry 36] -/
def putRecord (s : State) (d : Grid) (r : Rec) : State :=
  match r.task.addr with
  | some a => hamperPut s d r.task.tree a (recBytes d r)
  | none => s

/-- The runner's task is saved as a record at a PC, and the runner goes to its work point (R345). -/
def saveTask (s : State) (gid pc : Nat) (wait : Option Promise) (closing : Bool) : State :=
  match s.group? gid with
  | none => s
  | some g =>
    match g.task, s.grid? g.grid with
    | some t, some d =>
      let (t, d) := recordBlock s d t (recSize t.ns t.nl g.width)
      let r : Rec := { id := s.nextId, task := t, pc := pc, mask := g.readK (BitVec.ofNat 4 t.msel) &&& g.k0
                       svals := (List.range t.ns).map (fun i => g.readS (BitVec.ofNat 6 (t.sbase + i)))
                       vvals := (List.range t.nl).map (fun i => (List.range g.width).map (fun j => g.readV j (t.lbase + i)))
                       wait := wait, home := g.team, closing := closing, stamp := 0 }
      let s := putHeaders (putRecord { s with nextId := s.nextId + 1 } d r) g.grid t.id t.tree
      let s := (s.modGrid g.grid (fun x => { x with recs := x.recs ++ [r], blocks := d.blocks })).modGroup gid (clearRunner s.cycle)
      if wait.isNone && !closing then pushTop s g.team r.id else s
    | _, _ => s

/-- q of R335: the first of 7, 11 and 13 that does not divide N. -/
def stealStride (n : Nat) : Nat := if n % 7 != 0 then 7 else if n % 11 != 0 then 11 else 13

/-- The core that a steal attempt visits (R335). -/
def stealTarget (s : State) (g : Group) : Nat :=
  match s.partOfVf g.vf with
  | none => g.core
  | some p =>
    let l := s.coresOf p
    l.getD ((s.coreId g.core + stealStride l.length * g.steals) % max 1 l.length) g.core

/-- A record that a runner's steal takes: from the top of the visited core's deque, when a team of the grid holds that core;
with `.views sp` only from its own (R335). -/
def steal (s : State) (g : Group) (d : Grid) : Option Nat × State :=
  let c := if d.hsp then g.core else stealTarget s g
  let s := s.modGroup g.gid (fun g => { g with steals := g.steals + 1 })
  match s.teams.find? (fun t => t.core == c && t.grid == g.grid && t.savedAt.isNone) with
  | some t => takeTop s t.id
  | none => (none, s)

/-- The task machinery of a team has nothing left (R329). [DEDUCED, log entry 57] -/
def teamDone (s : State) (t : Team) (d : Grid) : Bool :=
  let root := fun (k : Task) => k.root && k.tree == t.id
  !d.recs.any (fun r => root r.task || (r.home == t.id && (r.wait.isSome || r.closing))) &&
    !s.groups.any (fun g => g.grid == t.grid && (match g.task with | some k => root k || g.team == t.id | none => false)) &&
    t.deque.isEmpty && t.spill.isEmpty && t.saving.isNone && t.savedAt.isNone

/-- The runners of a team that has nothing left end as by `exit` (R329). -/
def endRunners (s : State) (team : Nat) : State :=
  match s.team? team with
  | none => s
  | some t =>
    match s.grid? t.grid with
    | none => s
    | some d => if teamDone s t d then (s.groupsOf team).foldl (fun s g => endGroup s g.gid) s else s

/-- The runner stands at a work point and may take a task. -/
def atWork (s : State) (g : Group) : Bool :=
  (match g.stall with | .idle c => decide (c ≤ s.cycle) | _ => false) && g.task.isNone && !g.stopped &&
    (s.teamOf g).saving.isNone

/-- RUNNER_IDLE_RETRY (R328, R329, R335): an idle runner looks for work. -/
def execRunnerIdleRetry (gid : Nat) (s : State) : Host.Outcome State Fault Refusal :=
  .next (
    match s.group? gid with
    | none => s
    | some g =>
      match s.grid? g.grid with
      | none => s
      | some d =>
        if !atWork s g || !d.task then s
        else
          match takeBottom s g.team with
          | (some r, s) => startRecord s gid r
          | (none, s) =>
            match steal s g d with
            | (some r, s) => startRecord s gid r
            | (none, s) => endRunners (s.modGroup gid (fun g => { g with stall := .idle (s.cycle + 64) })) g.team)

/-! The task words (R343 to R350). -/

/-- In a grid not launched in task mode every task word is an ACCESS (R343). -/
def taskWord (s : State) (f : Grid → Task → State) : Host.Outcome State Fault Refusal :=
  withCur s (
    match s.grid? s.cur.grid, s.cur.task with
    | some d, some t => if d.task then f d t else raiseScalar s .access 0
    | _, _ => raiseScalar s .access 0)

/-- Earlier runs have retired and landed, and earlier scalar accesses have completed. A tile-walk command in flight does not hold a yield:
its promise is what the task may yield on (R345). [DEDUCED, log entry 52] -/
def taskQuiet (s : State) : Bool := s.cur.quiet && earlierDone s s.cur

/-- A number after `n` modulo a bound that is not in use. -/
def freshNumber (fuel n bound : Nat) (used : Nat → Bool) : Nat :=
  match fuel with
  | 0 => n % bound
  | f + 1 => if used (n % bound) then freshNumber f (n + 1) bound used else n % bound

/-- The task id is in use by a live task of the grid (R330). -/
def taskUsed (s : State) (d : Grid) (id : Nat) : Bool :=
  d.recs.any (fun r => r.task.id == id) || s.groups.any (fun g => g.grid == d.id && g.task.any (fun (t : Task) => t.id == id))

/-- An id for a new task: one that no live task has, and no task whose views are still to be folded while such a one is left (R330, R333). -/
def freshTask (s : State) (d : Grid) : Nat :=
  let id := freshNumber (d.liveTasks + d.views.length + 2) d.nextTask (2 ^ 20) (fun n => taskUsed s d n || d.views.any (fun v => v.task == n))
  if taskUsed s d id then freshNumber (d.liveTasks + 2) d.nextTask (2 ^ 20) (taskUsed s d) else id

/-- The checks of a spawn descriptor (R344). -/
def spawnOk (g : Group) (x : Word64) (b : BitVec 6) : Bool :=
  let n := x.toNat
  bitsOf n 63 46 = 0 && decide (bitsOf n 37 33 + bitsOf n 32 28 ≤ 16) && decide (bitsOf n 45 38 + bitsOf n 37 33 ≤ g.alloc) &&
    decide (b.toNat + bitsOf n 32 28 ≤ 64) && decide (bitsOf n 23 0 < g.swords)

/-- The idle runners of a core look for work at once (R328). -/
def rouse (s : State) (core : Nat) : State :=
  let f := fun (g : Group) => if g.live && g.core == core then
      (match g.stall with | .idle c => { g with stall := .idle (min c s.cycle) } | _ => g) else g
  { s with cur := f s.cur, others := s.others.map f }

/-- `spawn` (R344, R333). -/
def execSpawn (a b : BitVec 6) (s : State) : Host.Outcome State Fault Refusal :=
  taskWord s (fun d t =>
    if !taskQuiet s then s.hold
    else
      let g := s.cur
      let x := g.readS a
      let n := x.toNat
      let ns := bitsOf n 32 28
      let nl := bitsOf n 37 33
      match t.stack.getLast? with
      | none => raiseScalar s .access 0
      | some (sc, next) =>
        if !spawnOk g x b || decide (4096 ≤ next) then raiseScalar s .access 0
        else
          let share := hamperOf s d t.tree
          match if 2 ^ 20 ≤ d.liveTasks then none else hamperFit d share (recSize ns nl g.width) with
          | none => raiseScalar s .viewPool 0
          | some addr =>
            let id := freshTask s d
            let child : Task := { id := id, root := false, scope := sc, sidx := next, stack := [], msel := bitsOf n 27 24
                                  sbase := b.toNat, ns := ns, lbase := bitsOf n 45 38, nl := nl, tree := t.tree, addr := some addr }
            let r : Rec := { id := s.nextId, task := child, pc := bitsOf n 23 0
                             mask := g.readK (BitVec.ofNat 4 child.msel) &&& g.k0
                             svals := (List.range ns).map (fun i => g.readS (BitVec.ofNat 6 (b.toNat + i)))
                             vvals := (List.range nl).map (fun i => (List.range g.width).map (fun j => g.readV j (child.lbase + i)))
                             wait := none, home := g.team, closing := false, stamp := 0 }
            let f := fun (d : Grid) => { d.take share.1 addr (recSize ns nl g.width) with
              nextTask := id + 1, liveTasks := d.liveTasks + 1, recs := d.recs ++ [r] }
            let s := pushBottom (putRecord ({ s with nextId := s.nextId + 1 }.modGrid d.id f) d r) g.team r.id
            let t' := { t with stack := t.stack.dropLast ++ [(sc, next + 1)] }
            rouse (s.onCur (fun g => { g.next s.cycle with task := some t' })) g.core)

/-- `yield` once its waits are over (R345). -/
def yieldEnd (a : BitVec 6) (resume : Nat) (s : State) : State :=
  let s := s.onCur (fun g => { g with stall := .none })
  let x := (s.cur.readS a).toNat
  let held := if a = 0 then none else s.cur.proms.find? (fun p => p.slot == bitsOf x 63 60 && p.time == bitsOf x 59 0)
  saveTask s s.cur.gid resume held false

/-- `yield` (R345). -/
def execYield (a : BitVec 6) (s : State) : Host.Outcome State Fault Refusal :=
  taskWord s (fun _ _ =>
    if !taskQuiet s then s.hold else untilTick s (s.cur.hd + 2) (.yield a) (yieldEnd a (s.cur.pc + 1)))

/-- The views of an ended task take their place in the fold; a root task's are discarded (R340, R347). -/
def endViews (d : Grid) (t : Task) : Grid :=
  if t.root then d.dropViews (fun v => v.task == t.id && v.st == 1)
  else { d with views := mapIf d.views (fun v => v.task == t.id && v.st == 1) (fun v => { v with st := 2 }) }

/-- `tend` once its waits are over (R347). -/
def tendEnd (s : State) : State :=
  match s.cur.task with
  | none => s
  | some t =>
    let g := s.cur
    let s := putHeaders (s.modGrid g.grid (endViews · t)) g.grid t.id t.tree
    let s := s.modGrid g.grid (fun d => { d.freeRec t with liveTasks := d.liveTasks - 1 })
    let s := s.modGroup g.gid (clearRunner s.cycle)
    endRunners (if t.root then s else childEnded s g.grid t.scope t.sidx (s.starter g)) g.team

/-- `tend` (R347). -/
def execTend (s : State) : Host.Outcome State Fault Refusal :=
  taskWord s (fun _ t =>
    if !t.stack.isEmpty then raiseScalar s .access 0
    else if !taskQuiet s || !s.cur.proms.isEmpty then s.hold
    else untilTick s (s.cur.hd + 2) .tend tendEnd)

/-- `scope.open` (R348, R333). -/
def execScopeOpen (s : State) : Host.Outcome State Fault Refusal :=
  taskWord s (fun d t =>
    if t.stack.length = 8 then raiseScalar s .access 0
    else if 65535 ≤ d.scopes.length then raiseScalar s .viewPool 0
    else
      let id := freshNumber (d.scopes.length + 2) d.nextScope 65536 (fun n => n = 0 || d.scopes.any (fun c => c.id == n))
      let c : Scope := { id := id, owner := t.id, ended := [], turn := 0, total := none, folded := false, aborted := false }
      let s := s.modGrid d.id (fun d => { d with nextScope := id + 1, scopes := d.scopes ++ [c] })
      s.onCur (fun g => { g.next s.cycle with task := some { t with stack := t.stack ++ [(id, 0)] } }))

/-- The scope of a finished `scope.close` is popped and its status written (R349). -/
def popScope (a : BitVec 6) (t : Task) (id : Nat) (aborted : Bool) (s : State) : State :=
  let s := s.modGrid s.cur.grid (fun d => { d with scopes := d.scopes.filter (fun c => c.id != id) })
  s.onCur (fun g => { g.result s.cycle a (bit64 aborted) 1 with task := some { t with stack := t.stack.dropLast } })

/-- `scope.close` once its waits are over (R349): it ends, or the task yields at the word until its turns are done. -/
def scopeCloseEnd (a : BitVec 6) (s : State) : State :=
  let s := s.onCur (fun g => { g with stall := .none })
  match s.cur.task with
  | none => s
  | some t =>
    match t.stack.getLast? with
    | none => raiseScalar s .access 0
    | some (id, n) =>
      let g := s.cur
      let find := fun (s : State) => (s.grid? g.grid).bind (·.scope? id)
      match find s with
      | none => popScope a t id true s
      | some c =>
        if c.aborted then popScope a t id true (abortScopes 65536 s g.grid [id])
        else
          let s := advanceScope 5000 (s.modGrid g.grid (·.modScope id (fun c => { c with total := some n }))) g.grid id (s.starter g)
          if ((find s).map (fun (c : Scope) => c.folded)).getD true then popScope a t id false s
          else saveTask s g.gid g.pc none true

/-- `scope.close` (R349). -/
def execScopeClose (a : BitVec 6) (s : State) : Host.Outcome State Fault Refusal :=
  taskWord s (fun _ t =>
    if t.stack.isEmpty then raiseScalar s .access 0
    else if !taskQuiet s || !mayWriteS s a then s.hold
    else untilTick s (s.cur.hd + 2) (.scopeClose a) (scopeCloseEnd a))

/-! Views (R337, R340, R350). -/

/-- Bytes of an element of an operator (R337). -/
def elemSize (op : Nat) : Nat := if op = 2 then 8 else 4

/-- The identity of an operator (R337). -/
def viewIdentity (op : Nat) : Nat :=
  match op with
  | 1 => 0x80000000 | 3 => 0x7FFFFFFF | 4 => 0x80000000 | 6 => 0xFF800000 | 7 => 0xFFFFFFFF | 8 => 0x7F800000 | _ => 0

/-- One element combined: the value, and whether NV is set (R67, R337). -/
def viewStep (op a b : Nat) : Nat × Bool :=
  let lt := fun (x y : Nat) => decide (signedOf 32 x < signedOf 32 y)
  let fl := fun (r : Nat × BitVec 7) => (r.1, r.2.getLsbD 6)
  match op with
  | 0 => ((a + b) % 2 ^ 32, false)
  | 1 => (if lt a b then b else a, false)
  | 2 => ((a + b) % 2 ^ 64, false)
  | 3 => (if lt b a then b else a, false)
  | 4 => fl (fmtF32.write 0 false false (fpAdd false (fmtF32.decode a) (fmtF32.decode b)))
  | 5 => (a ||| b, false)
  | 6 => fl (fmtF32.minMax true a b)
  | 7 => (a &&& b, false)
  | 8 => fl (fmtF32.minMax false a b)
  | _ => (a ^^^ b, false)

/-- A write of these device bytes is visible at once by R208: every lease has ended, and no byte has an instant of now or later. -/
def clearAt (s : State) (pa n : Nat) : Bool :=
  (List.range ((pa + n - 1) / 128 - pa / 128 + 1)).all (fun i =>
    decide (sget s.leases 0 (pa / 128 + i) ≤ s.homeTime (128 * (pa / 128 + i)))) &&
    (List.range n).all (fun i => decide (sget s.lastV 0 (pa + i) ≤ s.homeTime (pa + i)))

/-- The pages of a new view (R350): the pieces that it covers, or its fault. [DEDUCED, log entry 54] -/
def viewPages (s : State) (vf core : Nat) : List (Nat × Nat) → Except (Code × Nat) (List (Nat × Nat)) × State
  | [] => (.ok [], s)
  | (va, n) :: r =>
    match reachDevice s vf core none va n { rd := true, w := true, at_ := false } with
    | (.error c, s) => (.error (c, va), s)
    | (.ok p, s) =>
      if hasErr s p.pa n then (.error (.dataError, va), s)
      else
        match viewPages s vf core r with
        | (.error e, s) => (.error e, s)
        | (.ok l, s) => (.ok ((p.pa, n) :: l), s)

/-- `vaddr` on a blank view whose block stands (R350): filled with the identity and marked live. -/
def fillView (s : State) (d : Grid) (t : Task) (dest : BitVec 6) (tile : Nat) (vt : VTile) (addr : Nat) : State :=
  let v : View := { tile := tile, task := t.id, scope := t.scope, sidx := t.sidx, addr := addr, team := if d.hsp then t.tree else 0
                    st := 1, acc := false }
  let fill := (List.range (vt.size / elemSize vt.op)).flatMap (fun _ => toBytes (elemSize vt.op) (viewIdentity vt.op))
  let bytes := headerBytes v ++ fill
  let key := (hamperOf s d t.tree).1
  let finish := fun (s : State) =>
    (s.modGrid d.id (fun d => { d.take key addr (64 + vt.size) with views := d.views ++ [v] })).onCur
      (·.result s.cycle dest (BitVec.ofNat 64 (tile * 2 ^ 29)) 1)
  if d.hsp then finish (s.modTeam t.tree (fun x => x.store addr bytes))
  else
    match viewPages s d.vf s.cur.core (spans addr (64 + vt.size)) with
    | (.error (c, a), s) => raiseScalar s c a
    | (.ok l, s) =>
      if l.all (fun p => clearAt s p.1 p.2) then
        let put := fun (x : State × List Byte) (c : (Nat × Nat) × (Nat × Nat)) =>
          (State.usedPage x.1 d.vf c.1.1 (hubWrite x.1 c.2.1 (x.2.take c.2.2) pathLane).2, x.2.drop c.2.2)
        finish (((spans addr (64 + vt.size)).zip l).foldl put (s, bytes)).1
      else s.hold

/-- `vaddr` (R350). -/
def execVaddr (a b : BitVec 6) (s : State) : Host.Outcome State Fault Refusal :=
  taskWord s (fun d t =>
    let x := (s.cur.readS b).toNat
    let vt := d.vtiles.getD x { valid := false, trap := false, op := 0, size := 0 }
    if 8 ≤ x || !vt.valid then raiseScalar s .access 0
    else if !mayWriteS s a then s.hold
    else if d.views.any (fun v => v.task == t.id && v.tile == x && v.st == 1) then
      s.onCur (·.result s.cycle a (BitVec.ofNat 64 (x * 2 ^ 29)) 1)
    else
      match hamperFit d (hamperOf s d t.tree) (64 + vt.size) with
      | none => raiseScalar s .viewPool 0
      | some addr => fillView s d t a x vt addr)

/-! `sleep` and `exit` (R121, R176, R346, R355). -/

/-- The promise that a word names is held (R121). -/
def promiseHeld (g : Group) (slot t : Nat) : Bool := slot != 0 && g.proms.any (fun p => p.slot == slot && p.time == t)

/-- `sleep` (R121); a task's on a held promise acts as a yield (R346). -/
def execSleep (a : BitVec 6) (s : State) : Host.Outcome State Fault Refusal :=
  withCur s (
    let x := (s.cur.readS a).toNat
    let t := bitsOf x 59 0
    let slot := bitsOf x 63 60
    if s.cur.task.isSome && promiseHeld s.cur slot t then
      if !taskQuiet s then s.hold else untilTick s (s.cur.hd + 2) (.sleepYield a) (yieldEnd a s.cur.pc)
    else s.onCur (fun g => { g with stall := .sleep t slot }))

/-- SLEEP_DEADLINE (R121): a sleep whose time has come ends, or raises PROMISE_MISSED, once; under RETRY it ends with its operation. An
open fault of the group does not prolong it (R380). -/
def execSleepDeadline (gid : Nat) (s : State) : Host.Outcome State Fault Refusal :=
  .next (
    match s.group? gid with
    | none => s
    | some g =>
      let done := s.setGroup { g.next s.cycle with stall := .none }
      if (g.fault.toList ++ g.heldFaults).any (fun f => match f.src with | .promise _ _ => true | _ => false) then s
      else
        match g.stall with
        | .sleep t slot =>
          if s.timeOf g < t then s
          else if promiseHeld g slot t then
            raise s gid { scalarFault s g .promiseMissed 0 with src := .promise slot t }
          else done
        | .sleepOp t slot => if promiseHeld g slot t then s else done
        | _ => s)

/-- `exit` (R43, R176): a task's is an ACCESS (R355). -/
def execExit (s : State) : Host.Outcome State Fault Refusal :=
  withCur s (
    if s.cur.task.isSome then raiseScalar s .access 0
    else if !taskQuiet s || !s.cur.proms.isEmpty then s.hold
    else endGroup s s.cur.gid)

/-! Yields, the watchdog and the fold. -/

/-- The operation of a promise is complete. -/
def refDone (s : State) (r : PromRef) : Bool :=
  match r with
  | .twe c => !s.twe.any (fun x => x.id == c)
  | .ffa c => !s.teams.any (fun t => match t.ffa with | some f => f.queue.any (fun x => x.id == c) | none => false)

/-- YIELD_OPERATION_COMPLETE (R345, R334): a record whose operation is complete enters the top of the deque on which it yielded. -/
def execYieldOperationComplete (rec : Nat) (s : State) : Host.Outcome State Fault Refusal :=
  .next (
    match (s.gridOfRec rec).bind (fun d => (d.rec? rec).map (fun r => (d, r))) with
    | none => s
    | some (d, r) =>
      match r.wait with
      | none => s
      | some p =>
        if refDone s p.ref then
          pushTop (s.modGrid d.id (fun d => { d with recs := mapIf d.recs (·.id == rec) (fun r => { r with wait := none }) })) r.home rec
        else s)

/-- The watchdog limit of a group, in core cycles (R40). -/
def watchdogLimit (s : State) (g : Group) : Nat :=
  match s.partOfVf g.vf with
  | some n => if (s.part n).rsvc = 0 then 2 ^ 20 else 16384
  | none => 2 ^ 20

/-- TASK_WATCHDOG_EXPIRY (R40, R353). -/
def execTaskWatchdogExpiry (gid : Nat) (s : State) : Host.Outcome State Fault Refusal :=
  .next (
    match s.group? gid with
    | none => s
    | some g =>
      if g.task.isSome && !g.stopped && decide (g.stretch + watchdogLimit s g ≤ s.cycle) then
        raise s gid { scalarFault s g .taskWatchdog 0 with src := .watchdog }
      else s)

/-- The views of a turn for its tile: the one combined in, and the one combined into (R341). -/
def turnViews (d : Grid) (t : Turn) : Option View × Option View :=
  let acc := d.views.find? (fun v => v.scope == t.scope && v.tile == t.tile && v.acc)
  match t.sidx with
  | some i => (d.views.find? (fun v => v.scope == t.scope && v.sidx == i && v.tile == t.tile && v.st != 1 && !v.acc), acc)
  | none =>
    let owner := (d.scope? t.scope).map (fun (c : Scope) => c.owner)
    (acc, d.views.find? (fun v => some v.task == owner && v.tile == t.tile && v.st == 1))

/-- The task that owns a scope, wherever it is. -/
def ownerTask (s : State) (d : Grid) (id : Nat) : Option Task :=
  ((d.recs.map (fun (r : Rec) => r.task)) ++ (s.groups.filterMap (fun g => if g.grid == d.id then g.task else none))).find? (fun t => t.id == id)

/-- The header of a view written back as the view now stands (R339). -/
def putHeader (s : State) (d : Grid) (v : View) : State := hamperPut s d v.team v.addr (headerBytes v)

/-- A view adopted: as the accumulator of its scope, or as the parent's view, whose waiting record takes its pointer (R330, R340, R341). -/
def adopt (s : State) (d : Grid) (t : Turn) (v : View) : State :=
  let same := fun (x : View) => x.team == v.team && x.addr == v.addr
  let v' := match t.sidx, (d.scope? t.scope).bind (fun (c : Scope) => ownerTask s d c.owner) with
    | none, some o => { v with task := o.id, scope := o.scope, sidx := o.sidx, st := 1, acc := false }
    | _, _ => { v with acc := true }
  let d' := { d with views := mapIf d.views same (fun _ => v') }
  let s := putHeader (s.modGrid d.id (fun _ => d')) d' v'
  if t.sidx.isSome then s else (d'.recs.filter (fun r => r.task.id == v'.task)).foldl (fun s r => putRecord s d' r) s

/-- What one element of a turn comes to: combined with the instant of its write, or a fault with its cause and address (R341, R351). -/
inductive Combined where
  | done (v : Nat)
  | fault (cause addr : Nat)
  deriving DecidableEq, Repr

/-- The place of an element in device memory, or the cause that keeps the TWE from it (R351). -/
def viewPlace (s : State) (d : Grid) (core va n : Nat) (need : Need) : Except (Nat × Nat) Nat × State :=
  match reachDevice s d.vf core none va n need with
  | (.error c, s) => (.error (if c == .xlate then 1 else if c == .dataError then 3 else 2, va), s)
  | (.ok p, s) => if hasErr s p.pa n then (.error (3, va), s) else (.ok p.pa, s)

/-- One element: left := op(left, right), on the TWE path, in the order of the homes (R207, R341, R342). `trap`: an NV stops it
(R351). -/
def foldElement (s : State) (d : Grid) (core : Nat) (vt : VTile) (trap : Bool) (right left : View) (off : Nat) : Combined × State :=
  let n := elemSize vt.op
  let x := right.addr + 64 + off
  let y := left.addr + 64 + off
  if d.hsp then
    let t := (s.team? left.team).getD Team.none_
    if t.errs.contains (x / 8) then (.fault 3 x, s)
    else if t.errs.contains (y / 8) then (.fault 3 y, s)
    else
      let r := viewStep vt.op (ofBytes (readBytes t.scr y n)) (ofBytes (readBytes t.scr x n))
      if trap && r.2 then (.fault 4 0, s) else (.done s.gtc, s.modTeam left.team (fun t => t.store y (toBytes n r.1)))
  else
    match viewPlace s d core x n needRead with
    | (.error e, s) => (.fault e.1 e.2, s)
    | (.ok px, s) =>
      match viewPlace s d core y n { rd := true, w := true, at_ := false } with
      | (.error e, s) => (.fault e.1 e.2, s)
      | (.ok py, s) =>
        let r := viewStep vt.op (ofBytes (homeBytes s py n)) (ofBytes (homeBytes s px n))
        if trap && r.2 then (.fault 4 0, s) else let (v, t) := hubWrite s py (toBytes n r.1) pathTwe; (.done v, State.usedPage s d.vf y t)

/-- Elements from an offset on, ascending: the fault that stops them, the offset reached, and the latest instant of their writes (R341). -/
def foldElements (d : Grid) (core : Nat) (vt : VTile) (right left : View) (off h : Nat) (s : State) :
    (fuel : Nat) → Option (Nat × Nat) × Nat × Nat × State
  | 0 => (none, off, h, s)
  | f + 1 =>
    match foldElement s d core vt vt.trap right left off with
    | (.done v, s) => foldElements d core vt right left (off + elemSize vt.op) (max h v) s f
    | (.fault c a, s) => (some (c, a), off, h, s)

def State.modTurn (s : State) (id : Nat) (f : Turn → Turn) : State := { s with turns := mapIf s.turns (·.id == id) f }

/-- The turn passes to its next tile. -/
def nextTile (s : State) (t : Turn) : State :=
  s.modTurn t.id (fun t => { t with tile := t.tile + 1, off := 0, stopped := false, cause := 0, faddr := 0 })

/-- After the last tile, once every write of the turn is seen on every path, its position is passed, or the fold into the parent is
complete (R341, R342). The turns that follow at once are those of the event that started the chain, also where a later `tend` or
`scope.close` fell into it: the manual does not say which event's core and PC they take. [DESIGN CHOICE, log entry 54] -/
def finishTurn (s : State) (t : Turn) : State :=
  if s.gtc < t.h + 2 then s.modTurn t.id (fun x => { x with ready := max x.ready (t.h + 2) })
  else
    let s := { s with turns := s.turns.filter (fun x => x.id != t.id) }
    match t.sidx with
    | some _ =>
      advanceScope 5000 (s.modGrid t.grid (·.modScope t.scope (fun c => { c with ended := c.ended.erase c.turn, turn := c.turn + 1 })))
        t.grid t.scope t.who
    | none => resumeParent (s.modGrid t.grid (·.modScope t.scope (fun c => { c with folded := true }))) t.grid t.scope

/-- The right view of a turn is merged: its header says so, and its blocks are freed (R340). -/
def freeRight (s : State) (t : Turn) (v : View) : State :=
  (match s.grid? t.grid with | some d => putHeader s d { v with st := 4 } | none => s).modGrid t.grid (fun d => d.dropViews (fun x => x.team == v.team && x.addr == v.addr))

/-- KILL_SELF of a turn (R352): the right view's remaining elements are discarded. [DEDUCED, log entry 54] -/
def discardRight (s : State) (t : Turn) : State :=
  match (s.grid? t.grid).bind (fun d => (turnViews d t).1) with
  | none => nextTile s t
  | some v =>
    let s := s.modGrid t.grid (fun d => { d with discard := d.discard ||| BitVec.ofNat 8 (2 ^ t.tile) })
    nextTile (freeRight s t v) t

/-- IGNORE of a turn (R352): of cause 4 the element is written without the trap; where it can no longer be reached, the turn takes that
fault at its offset. [DEDUCED, log entry 54] -/
def ignoreTurn (s : State) (t : Turn) (cause : Nat) : State :=
  if cause != 4 then discardRight s t
  else
    match s.grid? t.grid with
    | none => s
    | some d =>
      match turnViews d t, d.vtiles[t.tile]? with
      | (some r, some l), some vt =>
        match foldElement s d t.who.core vt false r l t.off with
        | (.done v, s) => s.modTurn t.id (fun t => { t with off := t.off + elemSize vt.op, h := max t.h v, stopped := false, cause := 0, faddr := 0 })
        | (.fault _ _, s) => s.modTurn t.id (fun t => { t with stopped := false, cause := 0, faddr := 0 })
      | _, _ => s

/-- The progress record (R351): LEFT and RIGHT are the addresses of the views' data (R455). -/
def progressRecord (d : Grid) (t : Turn) (cause addr : Nat) : Nat :=
  let v := turnViews d t
  let data := fun (x : Option View) => match x with | some x => x.addr + 64 | none => 0
  pack [(192, data v.2), (128, data v.1), (104, t.off),
    (101, t.tile), (89, t.sidx.getD 0xFFF), (73, t.scope), (64, cause), (0, addr)]

/-- Where the halt record of a turn goes, and the architected part behind it: the group whose word started it, or, where that has left with
its team, the place of the first group of a team of the grid that holds room (R373, R468). [DESIGN CHOICE, log entry 54] -/
def turnPlace (s : State) (d : Grid) (t : Turn) : Nat × List Byte :=
  match (s.group? t.who.gid).orElse (fun _ => (s.teams.flatMap (fun (x : Team) => x.saved)).find? (fun g => g.gid == t.who.gid)) with
  | some g => (haltAddr s g, architected g)
  | none =>
    match s.teams.find? (fun x => x.grid == d.id) with
    | some x => (roomAddr s x + groupOffset d 0, [])
    | none => ((s.vdev d.vf).save.toNat * 65536, [])

/-- The turn halts (R351, R352): its halt record is written and signalled, and it stays stopped. [DEDUCED, log entry 54] -/
def haltTurn (s : State) (d : Grid) (t : Turn) (cause addr level : Nat) : State :=
  let fr : FaultRec := { code := .mergeFault, src := .scalar, pc := t.who.pc, lane := false, run := 0, word := 0, side := 0, lmask := 0,
                         faddr := BitVec.ofNat 64 addr, gtime := s.gtc, imm := 0, isBrk := false
                         prog := BitVec.ofNat 256 (progressRecord d t cause addr), level := level }
  let (a, ctx) := turnPlace s d t
  let s := (hubWrite s a (toBytes 128 (headerOf d.statusAddr t.who fr level) ++ ctx) pathLane).2
  let s := s.modTurn t.id (fun t => { t with stopped := true, cause := cause, faddr := addr })
  let h : Halt := { addr := a, gid := t.who.gid, merge := true, turn := t.id, grid := d.id, team := 0, ctx := [] }
  (s.modVDev d.vf (fun v => { v with halts := v.halts ++ [h] })).signal (d.vf + 1) 0

/-- MERGE_FAULT goes to containment (R351, R352). [DEDUCED, log entry 54] -/
def mergeFault (s : State) (d : Grid) (t : Turn) (cause addr : Nat) : State :=
  match policyOf s d.id d.vf .mergeFault with
  | (.retry, _) =>
    let (ready, s) := s.later
    s.modTurn t.id (fun t => { t with ready := max ready (s.gtc + 1) })
  | (.ignore, _) => ignoreTurn s t cause
  | (.killSelf, _) => discardRight s t
  | (.killParent, _) => advanceScope 5000 (abortScopes 65536 (noteKill s d.id .mergeFault) d.id [t.scope]) d.id t.scope t.who
  | (_, l) => haltTurn s d t cause addr l

/-- The turn waits for a saved team: the one whose word started it, one whose share holds a view of it, or the one on which the task that owns
a live view of it, or the scope, has yielded (R356). [DEDUCED, log entry 54] -/
def turnAway (s : State) (d : Grid) (t : Turn) : Bool :=
  let away := fun (id : Nat) => ((s.team? id).getD Team.none_).savedAt.isSome
  let task := fun (id : Nat) => d.recs.any (fun x => x.task.id == id && away x.home)
  let live := fun (v : View) => v.st == 1 && task v.task
  s.teams.any (fun x => x.savedAt.isSome && x.saved.any (fun g => g.gid == t.who.gid)) ||
    (t.sidx.isNone && ((d.scope? t.scope).map (fun (c : Scope) => task c.owner)).getD false) ||
    (turnViews d t).1.any live || (turnViews d t).2.any live ||
    (d.hsp && (match turnViews d t with
      | (some r, some l) => away r.team || away l.team
      | (some r, none) => away r.team
      | _ => false))

/-- MERGE_TURN (R341, R342, R351): the turn's next tile, or its end. -/
def execMergeTurn (turn : Nat) (s : State) : Host.Outcome State Fault Refusal :=
  .next (
    match s.turns.find? (fun t => t.id == turn) with
    | none => s
    | some t =>
      match s.grid? t.grid with
      | none => s
      | some d =>
        if t.stopped || turnAway s d t then s
        else
          if 8 ≤ t.tile then finishTurn s t
          else match turnViews d t, d.vtiles[t.tile]? with
          | (none, _), _ => nextTile s t
          | (some v, none), _ => nextTile (adopt s d t v) t
          | (some r, some l), some vt =>
            let mark := fun (x : View) => if x.team == r.team && x.addr == r.addr then { x with st := 3 } else x
            let s := (if r.st = 3 then s else putHeader s d { r with st := 3 }).modGrid d.id (fun d => { d with views := d.views.map mark })
            match foldElements d t.who.core vt r l t.off t.h s ((vt.size - t.off) / elemSize vt.op) with
            | (none, _, h, s) => nextTile (freeRight (s.modTurn turn (fun t => { t with h := h })) t r) t
            | (some (c, a), off, h, s) => mergeFault (s.modTurn turn (fun t => { t with off := off, h := h })) d { t with off := off, h := h } c a
          | (some _, some _), none => nextTile s t)

end Sys2Proof.Machine
end

