-- ==== Sys2Proof/Machine/Packet.lean ====
section
/-! DEFINITION. Command queues, packets and their checks, the launch descriptor, dependencies and completion (R15, R226, R324,
R357 to R364, R390). -/

namespace Sys2Proof.Machine

/-! Queues (R323, R362). -/

/-- The number of a queue over the device. -/
def queueNo (vf q : Nat) : Nat := 16 * vf + q

/-- A queue of a virtual function. -/
def State.queue (s : State) (vf q : Nat) : Queue := sget (s.vdev vf).queues Queue.reset q

/-- Entries of a queue. [DESIGN CHOICE, log entry 23] -/
def queueCap (vf q : Nat) : Nat := Config.queueEntries (queueNo vf q) + 1

/-- Free entries of a queue. -/
def queueFree (s : State) (vf q : Nat) : Nat := queueCap vf q - (s.queue vf q).entries.length

/-- A packet entered at the write index (R323). [DESIGN CHOICE, log entry 35] -/
def enqueuePacket (s : State) (vf q : Nat) (p : BitVec 512) : State :=
  let f := fun (v : VDev) =>
    let x := sget v.queues Queue.reset q
    { v with queues := sset v.queues Queue.reset q { entries := x.entries ++ [p], widx := x.widx + 1 } }
  s.modVDev vf f

/-! Fields of a packet (R357). -/

def pktOp (b : BitVec 512) : Nat := bitsOf b.toNat 7 0
def pktClass (b : BitVec 512) : Nat := bitsOf b.toNat 9 8
def pktDv (b : BitVec 512) : Bool := b.getLsbD 10
def pktNdec (b : BitVec 512) : Nat := bitsOf b.toNat 13 11
def pktOrd (b : BitVec 512) : Bool := b.getLsbD 14
def pktBf (b : BitVec 512) : Bool := b.getLsbD 15
def pktDep (b : BitVec 512) : Nat := bitsOf b.toNat 127 64
def pktDec (b : BitVec 512) (i : Nat) : Nat := b.toNat / 2 ^ (128 + 64 * i) % 2 ^ 64
def pktP0 (b : BitVec 512) : Nat := bitsOf b.toNat 447 384
def pktP1 (b : BitVec 512) : Nat := bitsOf b.toNat 511 448

/-- The core whose TLBs the hub uses for a virtual function. -/
def hubCore (vf : Nat) : Nat := 32 * (vf / 8)

/-- The use that a packet makes of an address: a signal or counter, a read of `n` bytes, or a write of 8. -/
inductive PktUse where
  | signal
  | read (n : Nat)
  | write
  deriving DecidableEq, Repr

/-- The physical page of an address of a packet, when it passes check 4 of R359. A host page is not requested by the check. [DEDUCED, log
entry 37] -/
def pktPage (s : State) (vf : Nat) (u : PktUse) (va : Nat) : Option Page × State :=
  let (al, n, need) := match u with
    | .signal => (8, 8, needAtomic)
    | .read n => (64, n, needRead)
    | .write => (8, 8, needWrite)
  if va % al != 0 then (none, s)
  else
    match reachPage s vf (hubCore vf) none va (min n 64) need with
    | (.error _, s) => (none, s)
    | (.ok p, s) => if (u == .signal && p.ptype != 0) || p.ptype == 3 then (none, s) else (some p, s)

/-- The addresses that a packet uses, each with its use (R359 check 4). -/
def pktUses (b : BitVec 512) : List (PktUse × Nat) :=
  (if pktDv b then [(.signal, pktDep b)] else []) ++ (List.range (pktNdec b)).map (fun i => (.signal, pktDec b i)) ++
    (match pktOp b with
      | 1 => [(.signal, pktP0 b)]
      | 2 => (.read 192, pktP0 b) :: (if pktP1 b = 0 then [] else [(.write, pktP1 b)])
      | 3 => [(.read 64, pktP0 b)]
      | 4 => [(.signal, pktP0 b)]
      | 5 => [(.write, pktP0 b)]
      | _ => [])

/-- Every address of a list passes. -/
def pagesPass (s : State) (vf : Nat) : List (PktUse × Nat) → Bool × State
  | [] => (true, s)
  | (u, a) :: r =>
    match pktPage s vf u a with
    | (none, s) => (false, s)
    | (some _, s) => pagesPass s vf r

/-- Checks 1 to 4 of R359, but for the reading of a descriptor: the reason of the first that fails. [DEDUCED, log entry 55] -/
def parseCheck (s : State) (k : Pkt) : Option Nat × State :=
  let b := k.bits
  if 5 < pktOp b then (some 1, s)
  else if bitsOf b.toNat 63 16 != 0 then (some 2, s)
  else if 4 < pktNdec b then (some 3, s)
  else
    match pagesPass s k.vf (pktUses b) with
    | (true, s) => (none, s)
    | (false, s) => (some 4, s)

/-! Rejection (R359). -/

/-- The packet is tried again in the next tick: what it needs is not there yet. -/
def retryPacket (s : State) (k : Pkt) : State := s.modPkt k.id (fun k => { k with recheck := s.gtc + 1 })

/-- The packet leaves the ready lists and the wait table of its partition. -/
def delist (s : State) (k : Pkt) : State :=
  s.modPart k.part (fun p => p.leave k.id)

/-- LAUNCH_REJECT at a valid status address (R359, R361). -/
def writeReject (s : State) (k : Pkt) (reason : Nat) : State :=
  let a := pktP1 k.bits
  if pktOp k.bits != 2 || a = 0 then s
  else
    match pktPage s k.vf .write a with
    | (some p, s) =>
      if p.ptype == 0 then
        let (v, t) := hubWrite s p.pa (toBytes 8 (reason * 2 ^ 24 + 3)) pathLane
        (State.usedPage s k.vf a t).modPkt k.id (fun k => { k with h := max k.h v })
      else hubOut s k.vf p (toBytes 8 (reason * 2 ^ 24 + 3))
    | (none, s) => s

/-- A packet is rejected: recorded, and its valid decrements still follow (R359). -/
def reject (s : State) (k : Pkt) (reason status : Nat) : State :=
  writeReject ((delist (noteReject s k reason) k).modPkt k.id (fun k => { k with rejected := true, st := .completing 0 })) k status

/-! The launch descriptor (R360). -/

/-- Words of a launch descriptor. -/
abbrev Words := List Nat

/-- Word `i`. -/
def wd (l : Words) (i : Nat) : Nat := l.getD i 0

/-- An address field: bits 63:60 clear and a multiple. -/
def addrOk (x al : Nat) : Bool := decide (x < 2 ^ 60) && x % al == 0

/-- A role word (R360 w6, w7). -/
def roleOf (x : Nat) : Role := { entry := bitsOf x 34 11, alloc := 8 * (bitsOf x 10 6 + 1), count := bitsOf x 5 0 }
def roleOk (x : Nat) : Bool := decide (x < 2 ^ 35) && decide (bitsOf x 5 0 ≤ 48)

/-- A tile word (R360 w12 to w19, R337). -/
def vtileOf (x : Nat) : VTile := { valid := bitOf x 30, trap := bitOf x 29, op := bitsOf x 28 25, size := bitsOf x 24 0 }
def vtileOk (x : Nat) : Bool :=
  let t := vtileOf x
  decide (x < 2 ^ 31) && (!t.valid || (decide (t.op ≤ 9) && t.size % 64 == 0 && decide (64 ≤ t.size) && decide (t.size ≤ 2 ^ 24) &&
    (!t.trap || [4, 6, 8].contains t.op)))

/-- A policy word pair (R360 w20, w21). -/
def containOk (x : Nat) : Bool :=
  let nib := fun (n : Nat) => x / 16 ^ n % 16
  (List.range 32).all (fun n => decide (nib n ≤ 6)) && ([0, 0x12, 0x18] ++ [28, 29, 30, 31]).all (fun n => nib n == 0)

/-- Lanes of a group at a width code (R360). -/
def descWidth (l : Words) : Nat := 8 * 2 ^ bitsOf (wd l 4) 55 53

/-- Groups of both roles. -/
def descGroups (l : Words) : Nat := (roleOf (wd l 6)).count + (roleOf (wd l 7)).count

/-- Check 5 of a LAUNCH packet (R359, R360). [DEDUCED, log entry 55] -/
def descOk (l : Words) : Bool :=
  let hsp := bitOf (wd l 11) 32
  let hs := bitsOf (wd l 11) 31 0
  addrOk (wd l 0) 64 && addrOk (wd l 1) 64 && addrOk (wd l 3) 1 && addrOk (wd l 8) 64 && addrOk (wd l 10) 1 && addrOk (wd l 23) 64 &&
    decide (wd l 2 < 2 ^ 41) && decide (1 ≤ bitsOf (wd l 2) 40 24) && decide (1 ≤ bitsOf (wd l 2) 23 0) &&
    decide (wd l 4 < 2 ^ 59) && decide (bitsOf (wd l 4) 55 53 ≤ 3) &&
    decide (wd l 5 < 2 ^ 51) && bitsOf (wd l 5) 13 11 == 0 && decide (64 ≤ bitsOf (wd l 5) 50 37) && decide (bitsOf (wd l 5) 50 37 ≤ 8192) &&
    decide (bitsOf (wd l 5) 36 29 ≤ 128) && decide (bitsOf (wd l 5) 28 20 ≤ 256) && decide (bitsOf (wd l 5) 19 14 ≤ 32) &&
    decide (1 ≤ bitsOf (wd l 5) 10 0) && decide (bitsOf (wd l 5) 10 0 ≤ 1024) &&
    roleOk (wd l 6) && roleOk (wd l 7) && decide (wd l 9 < 2 ^ 32) && wd l 9 % 64 == 0 &&
    decide (wd l 11 < 2 ^ 33) && (if hsp then wd l 10 == 0 else hs % 65536 == 0 && (hs != 0 || wd l 10 == 0)) &&
    ((l.drop 12).take 8).all vtileOk && containOk (wd l 20 + 2 ^ 64 * wd l 21) && decide (wd l 22 ≤ 2 ^ 20) &&
    decide ((descGroups l - 1) * descWidth l < bitsOf (wd l 5) 10 0) && decide (bitsOf (wd l 5) 10 0 ≤ descGroups l * descWidth l)

/-- The grid that a descriptor describes. [DESIGN CHOICE, log entry 2] -/
def gridOf (s : State) (k : Pkt) (id : Nat) (l : Words) : Grid :=
  let w4 := wd l 4
  let w5 := wd l 5
  { id := id, vf := k.vf, part := k.part, pkt := k.id, scb := BitVec.ofNat 64 (wd l 0), lcb := BitVec.ofNat 64 (wd l 1)
    swords := bitsOf (wd l 2) 23 0, lwords := bitsOf (wd l 2) 40 24, args := BitVec.ofNat 64 (wd l 3), data := BitVec.ofNat 64 (wd l 23)
    ffa := bitOf w4 58, gang := bitsOf w4 57 56 + 1, width := descWidth l, check := bitOf w4 52, prio := bitsOf w4 51 50
    det := bitOf w4 49, task := bitOf w4 48, x := bitsOf w4 15 0 + 1, y := bitsOf w4 31 16 + 1, z := bitsOf w4 47 32 + 1
    lease := bitsOf w5 50 37, scratch := bitsOf w5 36 29, accum := bitsOf w5 28 20, bars := bitsOf w5 19 14, lanes := bitsOf w5 10 0
    prod := roleOf (wd l 6), cons := roleOf (wd l 7), ovf := BitVec.ofNat 64 (wd l 8), ovfSize := wd l 9
    hamper := BitVec.ofNat 64 (wd l 10), hsp := bitOf (wd l 11) 32
    hsize := if bitOf (wd l 11) 32 then 4096 * bitsOf (wd l 11) 31 0 else bitsOf (wd l 11) 31 0
    vtiles := ((l.drop 12).take 8).map vtileOf, contain := BitVec.ofNat 128 (wd l 20 + 2 ^ 64 * wd l 21), arglen := wd l 22
    statusAddr := BitVec.ofNat 64 (pktP1 k.bits), launchedAt := s.gtc, nextTeam := 0, endedTeams := 0, kfault := 0, discard := 0
    hostKilled := false, restoreFail := false, killedTeams := 0, deferred := [], nextDefer := 0, nextTask := 1, liveTasks := 0, nextScope := 1
    recs := [], views := [], scopes := [], blocks := [], h := 0, ended := false }

/-- MRF bytes of a team of a grid (R13). -/
def mrfBytes (d : Grid) : Nat := 4 * d.width * (d.prod.count * d.prod.alloc + d.cons.count * d.cons.alloc)

/-- Scratchpad granules of a team of a grid, `.views sp` included (R331, R366). -/
def granules (d : Grid) : Nat := d.scratch + (if d.hsp then d.hsize / 4096 else 0)

/-- The clusters of a partition, absolute. -/
def clustersOf (s : State) (part : Nat) : List Nat :=
  let p := s.part part
  (List.range (8 * 2 ^ p.log2q.toNat)).map (· + 8 * p.baseq.toNat)

/-- The cores of a cluster left after harvest. -/
def coresIn (s : State) (cl : Nat) : List Nat := ((List.range 4).map (· + 4 * cl)).filter (fun c => !s.harvest.contains c)

/-- Check 7 (R15, R359): the number of the first case that holds (R361). [DEDUCED, log entry 55] -/
def gridReject (s : State) (d : Grid) : Option Nat :=
  if 2 ^ 19 < mrfBytes d then some 1
  else if 128 < granules d then some 2
  else if 32 < d.bars then some 3
  else if 256 < d.accum then some 4
  else if 48 < d.prod.count + d.cons.count then some 5
  else if 1024 < d.lanes then some 6
  else if d.x * d.y * d.z % d.gang != 0 then some 7
  else if (clustersOf s d.part).all (fun c => decide ((coresIn s c).length < d.gang)) then some 8
  else if d.task && d.prod.count != 0 then some 11
  else if 2 ^ 32 < d.x * d.y * d.z then some 12
  else none

/-- The bytes of a descriptor, piece by piece of one page each, or what keeps the hub from them: a fault where one cannot be read (R359
check 4), or a host page or a peer's port that is awaited (R182, R425). -/
def readDesc (s : State) (vf va : Nat) : List Nat → Except Stop (List Byte) × State
  | [] => (.ok [], s)
  | n :: r =>
    match reach s vf (hubCore vf) none va n needRead with
    | (.error e, s) => (.error e, s)
    | (.ok p, s) =>
      if p.ptype == 3 then (.error (.fault .access), s)
      else if p.ptype == 0 && hasErr s p.pa n then (.error (.fault .dataError), s)
      else
        let (b, s) := if p.ptype == 0 then (readBytes s.mem p.pa n, s) else freeBytes s n
        match readDesc s vf (va + n) r with
        | (.error e, s) => (.error e, s)
        | (.ok l, s) => (.ok (b ++ l), s)

/-- The 8-byte words of a byte string. -/
def words8 (n : Nat) (b : List Byte) : Words :=
  match n with
  | 0 => []
  | n + 1 => ofBytes (b.take 8) :: words8 n (b.drop 8)

/-! Parsing and dependencies (R362, R363). -/

/-- The packet becomes ready: appended to its list, and a round is due (R363, R365). -/
def makeReady (s : State) (k : Pkt) : State :=
  let f := fun (p : Part) => { p with ready := p.ready ++ [(pktClass k.bits, pktBf k.bits, k.id)], table := p.table.filter (fun e => e.2 != k.id) }
  needRound ((s.modPart k.part f).modPkt k.id (fun k => { k with st := .ready, recheck := 0 })) k.part

/-- A counter or signal as its Ant reads it; nothing from a word that holds an uncorrectable error (R226, R300, R465). [DEDUCED, log
entry 59] -/
def antRead (s : State) (pa : Nat) : Option Nat := if hasErr s pa 8 then none else some (ofBytes (homeBytes s pa 8))

/-- The counter reads 0 or less (R363). -/
def depDone (s : State) (pa : Nat) : Bool := (antRead s pa).any (fun x => decide (signedOf 64 x ≤ 0))

/-- The lowest free index of a wait table (R363). -/
def freeIndex (l : List (Nat × Nat)) : Option Nat := (List.range 4096).find? (fun i => !l.any (fun e => e.1 == i))

/-- A parsed packet is processed (R359, R363). -/
def processPacket (s : State) (k : Pkt) : State :=
  match parseCheck s k with
  | (some r, s) => reject s k r (if r = 4 then 13 else 0)
  | (none, s) =>
    if !pktDv k.bits then makeReady s k
    else
      match pktPage s k.vf .signal (pktDep k.bits) with
      | (none, s) => reject s k 4 13
      | (some p, s) =>
        if depDone s p.pa then makeReady s k
        else
          match freeIndex (s.part k.part).table with
          | none => s
          | some i =>
            let f := fun (x : Part) => { x with table := (x.table.filter (fun e => decide (e.1 < i))) ++ (i, k.id) :: x.table.filter (fun e => decide (i < e.1)) }
            (s.modPart k.part f).modPkt k.id (fun k => { k with pa := p.pa, recheck := s.gtc + 4096 })

/-- The packet has not completed (R362 ORD, R358). -/
def Pkt.open_ (k : Pkt) : Bool := match k.st with | .completing _ => false | _ => true

/-- The wait table of a partition has a free entry beside those that the packets already taken in this pass may come to need
(R362, R363). -/
def tableRoom (s : State) (part : Nat) : Bool :=
  let t := (s.part part).table
  let taken := s.pkts.filter (fun k => k.part == part && k.st == .waiting && pktDv k.bits && !t.any (fun e => e.2 == k.id))
  decide (t.length + taken.length < 4096)

/-- The head of a queue may be taken (R358, R362, R400, R407). -/
def mayParse (s : State) (vf q : Nat) : Option (BitVec 512) :=
  match (s.queue vf q).entries with
  | [] => none
  | b :: _ =>
    let mine := s.pkts.filter (fun k => k.vf == vf && k.queue == q && k.open_)
    let part := (s.partOfVf vf).getD 0
    if (s.vdev vf).state.toNat != 1 || (s.part part).state != 1 then none
    else if mine.any (fun k => pktOp k.bits == 4) || (pktOrd b && !mine.isEmpty) then none
    else if !tableRoom s part then none
    else some b

/-- The rank of a type within a pass (R362). -/
def typeRank (b : BitVec 512) : Nat :=
  match pktOp b with
  | 1 => 0 | 2 => 1 | 3 => 2 | 4 => 3 | 5 => 4 | _ => 5

/-- The packets that a pass takes, with the state they leave (R362). -/
def takePackets (s : State) : List Nat → List Pkt × State
  | [] => ([], s)
  | n :: r =>
    let vf := n / 16
    let q := n % 16
    match mayParse s vf q with
    | none => takePackets s r
    | some b =>
      let k : Pkt := { id := s.nextId, vf := vf, queue := q, part := (s.partOfVf vf).getD 0, bits := b, st := .waiting, rejected := false
                       h := 0, recheck := 0, pa := 0 }
      let f := fun (v : VDev) =>
        let x := sget v.queues Queue.reset q
        { v with queues := sset v.queues Queue.reset q { x with entries := x.entries.drop 1 } }
      let s := { s with nextId := s.nextId + 1, pkts := s.pkts ++ [k] }.modVDev vf f
      let (l, s) := takePackets s r
      (k :: l, s)

/-- FIRMWARE_PASS (R362): one packet a lane, processed by type and lane. -/
def execFirmwarePass (s : State) : Host.Outcome State Fault Refusal :=
  .next (
    if s.hub.bootState != 1 then s
    else
      let p := s.hub.firmwarePass
      let (l, s) := takePackets s ((List.range 64).map (fun j => 64 * (p % 32) + j))
      let s := { s with hub := { s.hub with firmwarePass := p + 1, lastPass := s.gtc } }
      (sortBy (fun k => typeRank k.bits) l).foldl processPacket s)

/-- A waiting packet becomes ready: an Ant update has left its counter at 0 or less, or the counter is read again and is (R363). -/
def recheckOne (all : Bool) (s : State) (id : Nat) : State :=
  match s.pkt? id with
  | none => s
  | some k =>
    if k.recheck = 0 then makeReady s k
    else if !all && s.gtc < k.recheck then s
    else if depDone s k.pa then makeReady s k
    else s.modPkt id (fun k => { k with recheck := s.gtc + 4096 })

/-- DEPENDENCY_RECHECK (R363), at the end of a tick: the packets whose counters Ant updates of the tick have left at 0 or less, in table
order, and every 4,096 ticks all waiting packets of a partition. -/
def execDependencyRecheck (part : Nat) (s : State) : Host.Outcome State Fault Refusal :=
  .next (
    let all := decide ((s.part part).lastCheck + 4096 ≤ s.gtc)
    let s := if all then s.modPart part (fun p => { p with lastCheck := s.gtc }) else s
    ((s.part part).table.map (fun e => e.2)).foldl (recheckOne all) s)

/-! Execution (R358, R364). -/

/-- The packet is at the head of its list and ready to be executed, its opcode as given (R364). -/
def headPacket (s : State) (id op : Nat) : Option Pkt :=
  match s.pkt? id with
  | none => none
  | some k =>
    let l := (s.part k.part).ready.filter (fun r => r.1 == pktClass k.bits && r.2.1 == pktBf k.bits)
    if (l.head?.map (fun r => r.2.2)) == some id && k.st == .ready && decide (k.recheck ≤ s.gtc) && pktOp k.bits == op then some k else none

/-- The packet has been executed and is removed from its list; its work is complete at `h` (R364). -/
def completePacket (s : State) (k : Pkt) (h : Nat) : State :=
  needRound ((delist s k).modPkt k.id (fun k => { k with st := .completing 0, h := max k.h h })) k.part

/-- PACKET_NOP (R358). -/
def execPacketNop (pkt : Nat) (s : State) : Host.Outcome State Fault Refusal :=
  .next (match headPacket s pkt 0 with | none => s | some k => completePacket s k 0)

/-- SIGNAL (R358): the Ant adds V. [DEDUCED, log entry 59] -/
def execSignal (pkt : Nat) (s : State) : Host.Outcome State Fault Refusal :=
  .next (
    match headPacket s pkt 1 with
    | none => s
    | some k =>
      match pktPage s k.vf .signal (pktP0 k.bits) with
      | (none, s) => reject s k 4 0
      | (some p, s) =>
        match antWord s p.pa 8 (.pkt k.id) (fun m => (m + pktP1 k.bits) % 2 ^ 64) with
        | (some (_, v), t) => completePacket (State.usedPage s k.vf (pktP0 k.bits) t) k v
        | (none, s) => completePacket s k 0)

/-- LAUNCH (R358, R359): the descriptor is read and checked, and the grid stands ready to be placed. [DEDUCED, log entry 55] -/
def execLaunch (pkt : Nat) (s : State) : Host.Outcome State Fault Refusal :=
  .next (
    match headPacket s pkt 2 with
    | none => s
    | some k =>
      match readDesc s k.vf (pktP0 k.bits) (cuts (pktP0 k.bits) 192) with
      | (.error .page, s) => retryPacket s k
      | (.error (.fault _), s) => reject s k 4 13
      | (.ok b, s) =>
        let l := words8 24 b
        let d := gridOf s k s.nextId l
        if !descOk l then reject s k 7 9
        else if pktClass k.bits != d.prio then reject s k 5 10
        else
          match gridReject s d with
          | some r => reject s k 6 r
          | none =>
            needRound ({ s with nextId := s.nextId + 1, grids := s.grids ++ [d] }.modPkt k.id (fun k => { k with st := .running })) k.part)

/-- COPY (R358): the descriptor is read and checked, and the TWE of the partition's lowest cluster walks it. -/
def execCopy (pkt : Nat) (s : State) : Host.Outcome State Fault Refusal :=
  .next (
    match headPacket s pkt 3 with
    | none => s
    | some k =>
      let cl := 8 * (s.part k.part).baseq.toNat
      match readDesc s k.vf (pktP0 k.bits) [64] with
      | (.error .page, s) => retryPacket s k
      | (.error (.fault _), s) => reject s k 4 0
      | (.ok b, s) =>
        let d := BitVec.ofNat 512 (ofBytes b)
        let t := tileOf d
        if !tileFields .cpy d || t.sps || t.spd || t.gv || t.bv then reject s k 7 0
        else if 64 ≤ (tweQueue s cl).length then retryPacket s k
        else
          let c : TweCmd :=
            { id := s.nextId, gid := 0, team := 0, grid := 0, vf := k.vf, cluster := cl, die := dieOfCluster cl, kind := .packet k.id, pc := 0
              desc := d, recvs := [Recv.fresh 0], bound := 0
              stamp := s.gtc, issuedAt := s.gtc, mark := 0, result := none, since := s.gtc, held := false, hmax := 0
              ready := s.gtc + 1 + Config.latency s.fresh, stage := .queued }
          let s := delist { s with twe := s.twe ++ [c], nextId := s.nextId + 1, fresh := s.fresh + 1 } k
          needRound (s.modPkt k.id (fun k => { k with st := .running })) k.part)

/-- A WAIT's signal is read: it completes once it has reached V, else it is read again (R358). -/
def tryWait (s : State) (k : Pkt) (pa : Nat) : State :=
  if (antRead s pa).any (fun x => decide (0 ≤ signedOf 64 ((x + 2 ^ 64 - pktP1 k.bits) % 2 ^ 64))) then completePacket s k 0
  else s.modPkt k.id (fun k => { k with st := .running, pa := pa, recheck := s.gtc + 4096 })

/-- PACKET_WAIT (R358). [DEDUCED, log entry 55] -/
def execPacketWait (pkt : Nat) (s : State) : Host.Outcome State Fault Refusal :=
  .next (
    match headPacket s pkt 4 with
    | none => s
    | some k =>
      match pktPage s k.vf .signal (pktP0 k.bits) with
      | (none, s) => reject s k 4 0
      | (some p, s) => tryWait (needRound (delist s k) k.part) k p.pa)

/-- WAIT_RECHECK (R358). -/
def execWaitRecheck (pkt : Nat) (s : State) : Host.Outcome State Fault Refusal :=
  .next (
    match s.pkt? pkt with
    | none => s
    | some k => if k.st == .running && pktOp k.bits == 4 && decide (k.recheck ≤ s.gtc) then tryWait s k k.pa else s)

/-- TIMESTAMP (R358): the GTC at execution is written; a host page, or the port of a peer page, is awaited (R182, R425). -/
def execTimestamp (pkt : Nat) (s : State) : Host.Outcome State Fault Refusal :=
  .next (
    match headPacket s pkt 5 with
    | none => s
    | some k =>
      match pktPage s k.vf .write (pktP0 k.bits) with
      | (none, s) => reject s k 4 0
      | (some p, s) =>
        match atsStage s k.vf p with
        | (.error .page, s) => retryPacket s k
        | (.error (.fault _), s) => reject s k 4 0
        | (.ok p, s) =>
          if p.ptype == 0 then
            let (v, t) := hubWrite s p.pa (toBytes 8 s.gtc) pathLane
            completePacket (State.usedPage s k.vf (pktP0 k.bits) t) k v
          else if peerHeld s k.vf p then retryPacket s k
          else completePacket (hubOut s k.vf p (toBytes 8 s.gtc)) k 0)

/-! Completion (R324, R364). -/

/-- COMPLETION_DECREMENT (R364): once GTC ≥ H + 2, the next decrement address is decremented through its Ant; after the last one
the packet is gone. [DEDUCED, log entry 59] -/
def execCompletionDecrement (pkt : Nat) (s : State) : Host.Outcome State Fault Refusal :=
  .next (
    match s.pkt? pkt with
    | none => s
    | some k =>
      match k.st with
      | .completing n =>
        if s.gtc < k.h + 2 then s
        else if min 4 (pktNdec k.bits) ≤ n then
          { s with pkts := s.pkts.filter (fun x => x.id != pkt) }
        else
          let s := s.modPkt pkt (fun k => { k with st := .completing (n + 1) })
          match pktPage s k.vf .signal (pktDec k.bits n) with
          | (none, s) => s
          | (some p, s) => State.usedPage s k.vf (pktDec k.bits n) (antWord s p.pa 8 .hub (fun m => (m + 2 ^ 64 - 1) % 2 ^ 64)).2
      | _ => s)

/-- DEFERRED_SUBMIT (R324): the ended grid's next deferred packet enters its queue once an entry is free; after the last, and once its tile-walk
commands have completed, the grid leaves (R364). [DEDUCED, log entry 58] -/
def execDeferredSubmit (grid : Nat) (s : State) : Host.Outcome State Fault Refusal :=
  .next (
    match s.grid? grid with
    | none => s
    | some d =>
      if !d.ended then s
      else
        match d.deferred with
        | [] => if tweOpen s grid then s else finishGrid s grid
        | (_, q, p) :: r =>
          if queueFree s d.vf q = 0 then s
          else
            let s := (enqueuePacket s d.vf q p).modGrid grid (fun d => { d with deferred := r })
            if r.isEmpty && !tweOpen s grid then finishGrid s grid else s)

/-! `qpush` and `qpoll` (R322, R323, R325). -/

/-- `qpoll` (R325). -/
def execQpoll (a b : BitVec 6) (s : State) : Host.Outcome State Fault Refusal :=
  withCur s (
    let x := (s.cur.readS b).toNat
    if 16 ≤ x then raiseScalar s .access 0
    else if !mayWriteS s a then s.hold
    else
      let defer := ((s.grid? s.cur.grid).map (fun (d : Grid) => (d.deferred.filter (fun e => e.2.1 == x)).length)).getD 0
      let v := pack [(32, (s.queue s.cur.vf x).widx.toNat), (16, min 65535 (queueFree s s.cur.vf x)), (0, defer)]
      s.onCur (·.result s.cycle a (BitVec.ofNat 64 v) 1))

/-- The status of a `qpush` is written and the word completes (R322). -/
def qpushDone (a : BitVec 6) (code index : Nat) (g : Group) (cycle : Nat) : Group :=
  { g.result cycle a (BitVec.ofNat 64 (index * 2 ^ 32 + code)) 1 with stall := .none }

/-- The packet enters the queue of the pushing group (R323). -/
def qpushAccept (s : State) (gid q : Nat) (p : BitVec 512) (a : BitVec 6) : State :=
  match s.timed? gid with
  | none => s
  | some g =>
    let i := (s.queue g.vf q).widx.toNat
    (enqueuePacket s g.vf q p).modGroupAny gid (fun g => qpushDone a 0 i g s.cycle)

/-- `qpush` once its release may perform (R322, R323). [DEDUCED, log entry 49] -/
def qpushEnd (a b : BitVec 6) (nb : Bool) (s : State) : State :=
  let s := s.onCur (fun g => { g with stall := .none })
  let x := (s.cur.readS a).toNat
  let y := s.cur.readS b
  if 16 ≤ x then raiseScalar s .access 0
  else
    match readBlock s y with
    | (.error none, s) => (s.onCur (fun g => { g with stall := .horizon s.gtc (.qpush a b nb) })).hold
    | (.error (some (c, f)), s) => raiseScalar s c f
    | (.ok p, s) =>
      if queueFree s s.cur.vf x != 0 then qpushAccept s s.cur.gid x p a
      else if nb then s.onCur (fun g => qpushDone a 1 0 g s.cycle)
      else
        let bound := (sget (s.vdev s.cur.vf).qbound 0 x).toNat
        s.onCur (fun g => { g with stall := .qpush x (s.timeOf g + (bound + 2 ^ 20) % 2 ^ 32) p a })

/-- `qpush` (R322, R323). [DEDUCED, log entry 49] -/
def execQpush (a b : BitVec 6) (nb : BitVec 1) (s : State) : Host.Outcome State Fault Refusal :=
  withCur s (
    if !earlierDone s s.cur || !mayWriteS s a || s.hdPending s.cur.gid then s.hold
    else untilTick s (s.cur.hd + 2) (.qpush a b (nb == 1)) (qpushEnd a b (nb == 1)))

/-- QPUSH_BOUND_EXPIRY (R323): the bound has run out and no entry is free: FULL; for a group at its save point too, until its team is saved
(R380). -/
def execQpushBoundExpiry (gid : Nat) (s : State) : Host.Outcome State Fault Refusal :=
  .next (
    match s.timed? gid with
    | none => s
    | some g =>
      match g.stall with
      | .qpush q d p a =>
        if queueFree s g.vf q != 0 then qpushAccept s gid q p a
        else if d ≤ s.timeOf g then s.modGroupAny gid (fun g => qpushDone a 1 0 g s.cycle)
        else s
      | _ => s)

end Sys2Proof.Machine
end

