-- ==== Sys2Proof/Machine/Dispatcher.lean ====
section
/-! DEFINITION. The dispatcher: fitting, placement, back-fill, pre-emption, saving and restoring teams, the answers of the
host, and deferred `qpush` packets (R12 to R18, R128, R250 to R252, R255, R284, R296 to R298, R323, R326, R356, R365 to R368, R372,
R374 to R376, R413, R418, R466, R468). -/

namespace Sys2Proof.Machine

/-! Fitting (R366). -/

/-- What a team needs on a core, in its cluster and in the save area. -/
structure Needs where
  mrf : Nat
  gran : Nat
  bars : Nat
  groups : Nat
  acc : Nat
  views : Nat
  ffa : Bool
  task : Bool
  /-- Units of the save area, 0 for a team that already holds its room. -/
  units : Nat
  /-- Reservation-table entries of a saved team, and those of them of classes other than 0 (R252). -/
  reqs : Nat
  others : Nat
  cls : Nat

/-- What a new team of a grid needs (R366). -/
def needsOf (d : Grid) : Needs :=
  let n := d.prod.count + d.cons.count
  { mrf := mrfBytes d, gran := granules d, bars := d.bars, groups := n, acc := d.accum
    views := if d.task then n * (d.vtiles.filter (·.valid)).length else 0
    ffa := d.ffa, task := d.task, units := roomUnits d, reqs := 0, others := 0, cls := d.prio }

/-- The teams that hold resources of a core. -/
def teamsOn (s : State) (core : Nat) : List Team := s.teams.filter (fun t => t.core == core && t.savedAt.isNone)

/-- The groups that hold resources of a core: the resident ones, and those at their save point in a team still being saved. -/
def groupsHeld (s : State) (core : Nat) : List Group := groupsOn s core ++ (teamsOn s core).flatMap (fun t => t.saved)

/-- Granules of a team. -/
def Team.granules (s : State) (t : Team) : Nat := match s.grid? t.grid with | some d => Machine.granules d | none => 0

/-- The lowest base of free contiguous granules (R194). -/
def granuleBase (s : State) (core n : Nat) : Option Nat :=
  let ts := teamsOn s core
  (List.range 129).find? (fun b => decide (b + n ≤ 128) &&
    ts.all (fun t => decide (b + n ≤ t.granule) || decide (t.granule + t.granules s ≤ b)))

/-- Free slots of a core, ascending (R10). [DESIGN CHOICE, log entry 44] -/
def freeSlots (s : State) (core : Nat) : List Nat :=
  (List.range 48).filter (fun n => !(groupsHeld s core).any (fun g => g.slot == n))

/-- Free accumulator slots of a cluster (R229). -/
def accFree (s : State) (cl : Nat) : Nat := 256 - (((List.range 4).flatMap (fun i => teamsOn s (4 * cl + i))).map (fun t => t.nslots)).foldl (· + ·) 0

/-- A team fits a core, its room in the save area apart (R366). -/
def fitsCore (s : State) (n : Needs) (core : Nat) : Bool :=
  let ts := teamsOn s core
  let used := ((groupsHeld s core).map (fun g => 4 * g.width * g.alloc)).foldl (· + ·) 0
  let tasks := fun (t : Team) => match s.grid? t.grid with | some d => d.task | none => false
  decide (used + n.mrf ≤ 2 ^ 19) && (granuleBase s core n.gran).isSome &&
    decide ((ts.map (fun t => t.bars.length)).foldl (· + ·) 0 + n.bars ≤ 32) && decide (n.groups ≤ (freeSlots s core).length) &&
    decide (n.acc ≤ accFree s (clusterOf core)) && (!n.task || (decide (n.views ≤ 512) && !ts.any tasks)) &&
    (!n.ffa || ts.all (fun t => t.ffa.isNone))

/-- The lowest room of `n` units in a save area (R468). -/
def roomBase (v : VDev) (n : Nat) : Option Nat :=
  let free := fun (b : Nat) => decide (b + n ≤ v.savesz.toNat) && v.rooms.all (fun r => decide (b + n ≤ r.base) || decide (r.base + r.units ≤ b))
  ((0 :: v.rooms.map (fun r => r.base + r.units)).filter free).foldl (fun a x => match a with | none => some x | some y => some (min x y)) none

/-- Rooms taken for teams, one after the other. -/
def takeRooms (units : Nat) (v : VDev) : List Nat → Option VDev
  | [] => some v
  | id :: r =>
    match roomBase v units with
    | none => none
    | some b => takeRooms units { v with rooms := v.rooms ++ [{ team := id, base := b, units := units }] } r

/-- The save area has room for `k` teams together (R366). -/
def roomsFor (s : State) (vf units k : Nat) : Bool := units = 0 || (takeRooms units (s.vdev vf) (List.replicate k 0)).isSome

/-- The core belongs to the class-0 reserve of its partition (R366). -/
def reserved (s : State) (part core : Nat) : Bool :=
  let n := (s.part part).rsvc.toNat
  let l := (s.coresOf part).filter (fun c => quadOf c == quadOf core)
  n != 0 && decide (l.length - (l.filter (fun c => decide (c < core))).length ≤ n)

/-- The team may stand on the core: it fits, and the reserve of class 0 lets it (R366). -/
def mayStand (s : State) (part : Nat) (n : Needs) (core : Nat) : Bool := fitsCore s n core && (n.cls == 0 || !reserved s part core)

/-- One core for each team, no two the same: the lowest for the first team, then for the next (R366). -/
def assign (s : State) (part : Nat) : (ns : List Needs) → (cores : List Nat) → Option (List Nat)
  | [], _ => some []
  | n :: r, l => (l.filter (mayStand s part n)).findSome? (fun c => (assign s part r (l.erase c)).map (c :: ·))

/-- A sum over teams. -/
def total (f : Needs → Nat) (ns : List Needs) : Nat := (ns.map f).foldl (· + ·) 0

/-- The engine of a cluster has the slots and the table entries of all the teams together (R252, R298, R366). -/
def fitsEngine (s : State) (ns : List Needs) (cl : Nat) : Bool :=
  let c := s.cluster cl
  decide (total (·.acc) ns ≤ accFree s cl) && decide (tableHeld c false + total (·.reqs) ns ≤ 64) &&
    (total (·.others) ns = 0 || decide (tableHeld c true + total (·.others) ns ≤ 60))

/-- The cores on which teams are placed together, in clusters that pass a test: the lowest cluster that holds them, and its lowest cores
that fit; the save area has room for all of them (R366). -/
def pickCores (s : State) (part vf : Nat) (ns : List Needs) (ok : Nat → Bool) : Option (List Nat) :=
  if !roomsFor s vf ((ns.head?.map (·.units)).getD 0) ns.length then none
  else (clustersOf s part).findSome? (fun cl => if ok cl && fitsEngine s ns cl then assign s part ns (coresIn s cl) else none)

/-- A cluster that is held takes teams of the head for which it is held, and no other: no back-fill, no saved team, no other head
(R367, R368). Where it is held for the heads of two classes, each of them may use it. [DEDUCED, log entry 56] -/
def unheld (s : State) (part : Nat) (head : Option Nat) (cl : Nat) : Bool :=
  let for_ := (s.part part).heldFor.filter (fun h => h.2 == cl + 1)
  for_.isEmpty || for_.any (fun h => some h.1 == head)

/-! Placement (R14, R16, R17, R255, R326). -/

/-- k0 of a group (R17). -/
def launchMask (d : Grid) (gidx : Nat) : Word64 := BitVec.ofNat 64 (2 ^ min d.width (d.lanes - gidx * d.width) - 1)

/-- A group at launch (R16, R17). [DESIGN CHOICE, log entry 44; DEDUCED, log entry 78] -/
def newGroup (s : State) (d : Grid) (t : Team) (gidx gid slot : Nat) : Group :=
  let prod := decide (gidx < d.prod.count)
  let r := if prod then d.prod else d.cons
  let num := fun (n : Nat) => BitVec.ofNat 64 n
  let launch : List Word64 := [d.args, num t.tx, num t.ty, num t.tz, num gidx, if prod then 0 else 1, num d.width, num (s.coreId t.core), d.data]
  let k := sset [] 0 0 (launchMask d gidx)
  { Group.empty with
    gid := gid, live := true, team := t.id, grid := d.id, vf := d.vf, core := t.core, slot := slot, gidx := gidx
    role := if prod then 0 else 1, width := d.width, alloc := r.alloc
    s := ssetAll [] 0 ((List.range 9).map (fun i => (i + 1, launch.getD i 0))), k := k, kc := k, pc := r.entry, gctl := d.gctl
    lease := BitVec.ofNat 14 d.lease, lcb := d.lcb, scb := d.scb, swords := d.swords, lwords := d.lwords
    stamp0 := d.launchedAt, stamp1 := d.launchedAt, stamp2 := d.launchedAt, stamp3 := d.launchedAt
    sready := s.cycle, nextStart := s.cycle, stretch := s.cycle, launch := launch }

/-- A Firefly array at placement (R255). -/
def Ffa.fresh (cycle : Nat) : Ffa :=
  { nodes := [], coup := [], slots := [], beta := 0x100, replay := false, lag := 1, arrayId := none, key := 0, sweep := 0
    colours := List.range 8, queue := [], biased := false, nwin := 0, lastcnt := 0, winStart := cycle, trimTill := 0 }

/-- A team at placement (R12, R194, R229, R381). [DESIGN CHOICE, log entry 44] -/
def newTeam (s : State) (d : Grid) (id lin core base : Nat) : Team :=
  { Team.none_ with
    id := id, grid := d.id, vf := d.vf, core := core, lin := lin, tx := lin % d.x, ty := lin / d.x % d.y, tz := lin / (d.x * d.y)
    cls := d.prio, order := id, scrSize := 4096 * d.scratch, bars := List.replicate d.bars Bar.reset, nslots := d.accum
    ffa := if d.ffa then some (Ffa.fresh s.cycle) else none, ngroups := d.prod.count + d.cons.count, granule := base }

/-- The root task of a team starts on its group 0, and its other groups are idle (R326). [DEDUCED, log entry 78] -/
def startTasks (s : State) (d : Grid) (t : Team) : State :=
  let id := freshTask s d
  let share := hamperOf s d t.id
  let fit := hamperFit d share (recSize 0 0 d.width)
  let root : Task := { id := id, root := true, scope := 0, sidx := 0, stack := [], msel := 0, sbase := 0, ns := 0, lbase := 0, nl := 0
                       tree := t.id, addr := fit }
  let f := fun (g : Group) =>
    if g.live && g.team == t.id then (if g.gidx = 0 then { g with task := some root } else { g with stall := .idle s.cycle }) else g
  let s := { s with cur := f s.cur, others := s.others.map f }
  s.modGrid d.id (fun d =>
    let d := match fit with | some a => d.take share.1 a (recSize 0 0 d.width) | none => d
    { d with nextTask := id + 1, liveTasks := d.liveTasks + 1 })

/-- One team placed on a core (R16, R366). [DESIGN CHOICE, log entry 44] -/
def placeTeam (s : State) (grid lin core : Nat) : State :=
  match s.grid? grid with
  | none => s
  | some d =>
    let id := s.nextId
    let t := newTeam s d id lin core ((granuleBase s core (granules d)).getD 0)
    let slots := freeSlots s core
    let mark := fun (g : Group) => { g with detPend := overFloor s g }
    let gs := (List.range t.ngroups).map (fun i => mark (newGroup s d t i (id + 1 + i) (slots.getD i 0)))
    let s := { s with nextId := id + 1 + t.ngroups, teams := s.teams ++ [t], others := s.others ++ gs }
    let s := s.modVDev d.vf (fun v => (takeRooms (roomUnits d) v [id]).getD v)
    if d.task then startTasks s d t else s

/-- The next teams of a grid placed on their cores; with the first the status word becomes 1, with the last the packet leaves its
list, and with it the age of the head and the cluster held for it (R361, R364, R367). -/
def placeNext (s : State) (d : Grid) (cores : List Nat) : State :=
  let s := ((cores.zipIdx).foldl (fun s c => placeTeam s d.id (d.nextTeam + c.2) c.1) s).modGrid d.id
    (fun g => { g with nextTeam := g.nextTeam + cores.length })
  let s := if d.nextTeam = 0 then writeStatus s d 1 0 else s
  if d.nextTeam + cores.length = d.x * d.y * d.z then s.modPart d.part (fun p => p.leave d.pkt)
  else s

/-- The head of a ready list: nothing, a packet that still has to be executed, or a launched grid. -/
inductive ListHead where
  | empty
  | packet
  | grid (d : Grid)

/-- The head of a class's list (R364, R365). -/
def listHead (s : State) (part cls : Nat) (bf : Bool) : ListHead :=
  match (s.part part).ready.find? (fun r => r.1 == cls && r.2.1 == bf) with
  | none => .empty
  | some r =>
    match s.grids.find? (fun d => d.pkt == r.2.2) with
    | some d => .grid d
    | none => .packet

/-- Where the next team or gang of a list's head goes (R366). -/
def headCores (s : State) (part : Nat) (bf : Bool) (d : Grid) : Option (List Nat) :=
  pickCores s part d.vf (List.replicate d.gang (needsOf d)) (unheld s part (if bf then none else some d.prio))

/-- Teams of a list's heads are placed as long as they fit; whether a grid is left blocked (R365). -/
def placeAll (part cls : Nat) (bf : Bool) (s : State) : (fuel : Nat) → State × Bool
  | 0 => (s, false)
  | f + 1 =>
    match listHead s part cls bf with
    | .grid d =>
      match headCores s part bf d with
      | some l => placeAll part cls bf (placeNext s d l) f
      | none => (s, true)
    | _ => (s, false)

/-! Saving (R250, R296 to R298, R356, R375, R466). -/

/-- PREEMPTION_REQUEST (R296) for several teams at once: their groups start no further run, their parked runs give up their quarters and
decoders, and their matrix requests freeze together (R250, R298); a task-mode team's runners go on to their next work points (R356). -/
def requestSaves (s : State) (teams : List Nat) : State :=
  let ts := s.teams.filter (fun t => teams.contains t.id && t.saving.isNone && t.savedAt.isNone)
  let s := ts.foldl (fun s t => s.modTeam t.id (fun t => { t with saving := some s.gtc })) s
  let gs := ts.flatMap (fun t => (s.groupsOf t.id).filter (fun g => g.task.isNone))
  freezeGroups (gs.foldl (fun s g => s.modGroup g.gid (fun g => { g.releaseParked with preempt := true })) s) (gs.map (fun g => g.gid))

/-- PREEMPTION_REQUEST for one team (R296). -/
def requestSave (s : State) (team : Nat) : State := requestSaves s [team]

/-- The lane waits for an event outside the device's own paths (R466). [DEDUCED, log entry 61] -/
def LaneReq.abandoned (s : State) (vf : Nat) (stores : Bool) (l : LaneReq) : Bool :=
  match l.stage, l.xl with
  | .feWait _ _, _ => true
  | .pri, _ => true
  | .wait, .ok p => if stores then peerHeld s vf p else peerDown s vf p
  | _, _ => false

/-- The operations of a group that a save leaves for replay, each with the lanes that it leaves, in issue order: those that wait for an event
outside the device's own paths, and those that could not perform before them even when everything else that is in flight had ended; a
queued run does not start any more (R466). [DEDUCED, log entry 61] -/
def leftOps (s : State) (g : Group) : List Op :=
  let stuck := fun (c : TweCmd) => c.held || (c.kind == .cpyc && c.result.isNone) || c.recvs.any (fun r => r.held || r.since.isSome)
  let rest := { s with twe := s.twe.filter stuck, tokens := s.tokens.filter (fun t => !t.flush && (s.port t.port).down) }
  (s.ops.filter (fun o => o.gid == g.gid)).foldl (fun left o =>
    let runs := g.runs.filter (fun r => r.sides.any (fun d => !d.issued) || left.any (fun a => !a.scalar && a.seq == r.seq))
    let o' := { o with floor := 0, sent := some (o.sent.getD []) }
    let free := fun (l : LaneReq) (acc : List LaneReq) =>
      orderOk { rest with ops := left ++ [{ o' with lanes := acc }] } { g with hd := 0, hs := 0, runs := runs } o' l
    let lanes := o.lanes.foldl (fun acc l => if l.abandoned s g.vf o.writes || (l.waits && !free l acc) then acc ++ [l] else acc) []
    if lanes.isEmpty then left else left ++ [{ o' with lanes := lanes }]) []

/-- An operation of a group is settled (R466): each lane has ended, is left for replay, or is a write on its way; one with a result and
nothing to replay must have ended. [DEDUCED, log entry 61] -/
def opSettled (left : List Op) (o : Op) : Bool :=
  let lane := fun (l : LaneReq) => match l.stage, l.xl with
    | .sent _, _ => !o.kind.hasResult
    | .wait, .need => false
    | .wait, _ => left.any (fun a => a.id == o.id && a.lanes.any (fun m => m.lane == l.lane))
    | _, _ => true
  !o.held && o.kind != .gather && o.lanes.all lane && (!o.kind.hasResult || !o.finished)

/-- The team's array is not within a sweep (R284). -/
def Team.betweenSweeps (t : Team) : Bool := match t.ffa with | some f => f.queue.all (fun c => c.latched.isNone) | none => true

/-- The group may be saved, its matrix requests apart (R128, R284, R296, R356). -/
def atSavePoint (s : State) (g : Group) : Bool :=
  (s.teamOf g).saving.isSome && (s.teamOf g).betweenSweeps && !g.stopped && g.out.isEmpty &&
    g.runs.all (fun r => r.parked || r.sides.all (·.issued)) && (s.ops.filter (fun o => o.gid == g.gid)).all (opSettled (leftOps s g)) &&
    (match s.grid? g.grid with
      | some d => if d.task then g.task.isNone else g.preempt
      | none => true)

/-- A group as its context holds it: what a parked run holds is released, the stall that is left of each side is kept, and a parked word is
tried whole again (R297, R298). -/
def Group.saved (cycle : Nat) (g : Group) : Group :=
  let side := fun (d : Side) => { d with next := d.next - cycle, pass := 0, half := [], acc := [] }
  { g with
    runs := g.runs.map (fun r => { r with quarters := 0, dec := 0, stream := (g.gid, 0), sides := r.sides.map side })
    queue := g.queue.map (fun e => { e with code := none, since := none }) }

/-- The matrix requests that the engines hold frozen for a team (R250, R251). -/
def frozenReqs (s : State) (team : Nat) : List MxReq :=
  (s.clusters.flatMap (fun kc => kc.2.reqs)).filter (fun (r : MxReq) => r.team == team && r.stage == .frozen)

/-- Offset of a team's matrix image in its room. [DESIGN CHOICE, log entry 20] -/
def matrixOffset (d : Grid) : Nat := 64 + (4096 * d.scratch + if d.hsp then d.hsize else 0) * 9 / 8 + 16 * d.bars

/-- The 64-byte header of an image: two counts at bits 183:176 and 175:160, CHECK, SIZE, GEN and VERSION 1 (R251, R374). -/
def imageHeader (n slots check size gen : Nat) : List Byte := toBytes 64 (pack [(176, n), (160, slots), (128, check), (64, size), (32, gen), (0, 1)])

/-- The matrix image (R251): its header, and the opaque bytes behind it, which are free, with their CHECK. [DESIGN CHOICE, log entries 8
and 20] -/
def matrixImage (s : State) (t : Team) : List Byte × State :=
  let n := (frozenReqs s t.id).length
  let (b, s) := freeBytes s (8192 * t.nslots + 8320 * n)
  (imageHeader n t.nslots (crc32c b) (64 + b.length) t.gen ++ b, s)

/-- Bytes of a group's section behind its architected part. [DESIGN CHOICE, log entry 20] -/
def sectionBytes (d : Grid) (gidx : Nat) : Nat := groupOffset d (gidx + 1) - groupOffset d gidx - 1152

/-- The opaque bytes of a team's section: free ones around the matrix image (R374). [DESIGN CHOICE, log entries 8 and 20] -/
def teamSection (s : State) (d : Grid) (t : Team) : List Byte × State :=
  let (a, s) := freeBytes s (matrixOffset d - 64)
  let (m, s) := matrixImage s t
  let (b, s) := freeBytes s (teamImageBytes d - matrixOffset d - m.length)
  (a ++ m ++ b, s)

/-- The groups of a context with the opaque bytes of their sections, which are free (R374). [DESIGN CHOICE, log entries 8 and 20] -/
def groupSections (s : State) (d : Grid) (l : List Group) : List (Group × List Byte) × State :=
  l.foldl (fun (a : List (Group × List Byte) × State) g =>
    let (b, s) := freeBytes a.2 (sectionBytes d g.gidx)
    (a.1 ++ [(g, b)], s)) ([], s)

/-- The context image in the save area: its header, the team's section, and the groups' sections with their architected parts, each written
at its homes; CHECK is that of its opaque bytes (R207, R251, R374). [DESIGN CHOICE, log entries 8 and 20] -/
def writeImage (s : State) (t : Team) : State :=
  match s.grid? t.grid with
  | none => s
  | some d =>
    let (team, s) := teamSection s d t
    let (gs, s) := groupSections s d t.saved
    let check := crc32c (team ++ gs.flatMap (fun x => x.2))
    let (_, s) := hubWrite s (roomAddr s t) (imageHeader t.saved.length 0 check (groupOffset d t.ngroups) t.gen ++ team) pathLane
    gs.foldl (fun s x => (hubWrite s (haltAddr s x.1 + 128) (architected x.1 ++ x.2) pathLane).2) s

/-- The save completes: the team leaves its core and enters its restore list (R375). -/
def finishSave (s : State) (team : Nat) : State :=
  match s.team? team with
  | none => s
  | some t =>
    let t := { t with saving := none, savedAt := some s.gtc, gen := t.gen + 1 }
    let s := writeImage (s.modTeam team (fun _ => t)) t
    match s.partOfVf t.vf with
    | none => s
    | some n => needRound (s.modPart n (fun p => { p with restore := p.restore ++ [(t.cls, team)] })) n

/-- A group leaves its core for its team's context. -/
def saveGroup (s : State) (g : Group) : State :=
  let s := s.modCore g.core (fun c => { c with victims := c.victims.filter (fun v => v.2.2 != g.slot) })
  let s := (removeGroup s g.gid).modTeam g.team (fun t => { t with saved := t.saved ++ [g.saved s.cycle] })
  if (s.groupsOf g.team).isEmpty then finishSave s g.team else s

/-- SAVE_POINT (R296, R297, R374, R466): a group whose team is to be saved leaves its core at its first pre-emption point. -/
def execSavePoint (gid : Nat) (s : State) : Host.Outcome State Fault Refusal :=
  .next (
    match s.group? gid with
    | none => s
    | some g =>
      if !atSavePoint s g then s
      else
        let mates := (s.groupsOf g.team).filter (fun h => h.preempt)
        let s := freezeGroups s (gid :: mates.map (fun h => h.gid))
        if mxBusy s gid then s else saveGroup s g)

/-- HOST_SAVE_REQUEST (R375). -/
def execHostSaveRequest (team : Nat) (s : State) : Host.Outcome State Fault Refusal := unlessStopped s (requestSave s team)

/-! Restoring (R252, R284, R297, R298, R376, R418, R466). -/

/-- A failed restore is reported through the fault window of the virtual function (R369, R376). [DEDUCED, log entry 60] -/
def reportTeam (s : State) (t : Team) (c : Code) : State :=
  let a := roomAddr s t
  let gsw := ((s.grid? t.grid).map (fun (d : Grid) => d.statusAddr.toNat)).getD 0
  let head := pack [(640, s.gtc), (512, gsw % 2 ^ 60), (496, t.tz), (480, t.ty), (464, t.tx), (384, c.num), (376, 3)]
  let place := match s.grid? t.grid with | some d => a + groupOffset d 0 | none => a
  let (_, s) := hubWrite s place (toBytes 128 head) pathLane
  let h : Halt := { addr := place, gid := 0, merge := false, turn := 0, grid := t.grid, team := t.id, ctx := [] }
  (s.modVDev t.vf (fun v => { v with halts := v.halts ++ [h] })).signal (t.vf + 1) 0

/-- A deadline moved by the time that its team was saved (R380); a cold reset since then makes it negative (R418). -/
def Stall.shift (dt : Int) : Stall → Stall
  | .barWait n p d b => .barWait n p (d + dt).toNat b
  | .qpush q d p a => .qpush q (d + dt).toNat p a
  | x => x

/-- The lanes of an operation that issue again at restore (R466): a full/empty wait arrives anew at its word and keeps its first tick, the
saved time left out (R197, R380). [DEDUCED, log entry 61] -/
def LaneReq.again (dt : Int) (l : LaneReq) : LaneReq :=
  match l.stage, l.xl with
  | _, .bad _ => l
  | .feWait t _, _ => { l with stage := .wait, xl := .need, first := some (t + dt).toNat }
  | .pri, _ => { l with stage := .wait, xl := .need }
  | .wait, _ => { l with xl := .need }
  | _, _ => l

/-- One group of a restored team on its new core (R297, R298). [DEDUCED, log entry 62] -/
def restoreGroup (s : State) (core slot : Nat) (dt : Int) (g : Group) : State :=
  let (ready, s) := s.later
  let g := rearm s (haltAddr s g + 128) (architected g) g
  let runs := g.runs.map (fun r => { r with again := r.parked, sides := r.sides.map (fun d => { d with next := s.cycle + d.next }) })
  let queue := match g.queue with | [] => [] | e :: r => { e with readyAt := ready } :: r
  let g := { g with
    core := core, slot := slot, preempt := false, stall := g.stall.shift dt, runs := runs, queue := queue
    sready := max g.sready (s.cycle + 1), abandoned := none, detPend := overFloor s g }
  let again := fun (o : Op) =>
    let lanes := o.lanes.map (·.again dt)
    let redo := lanes.any (fun l => l.stage == .wait && l.xl == .need)
    { o with lanes := lanes, checked := o.checked && !redo, asked := o.asked && !redo, ready := max o.ready s.gtc }
  pump { s with others := s.others ++ [g], ops := mapIf s.ops (fun o => o.gid == g.gid && o.kind != .gather) again } g.gid

/-- A group whose run the drain abandoned comes back halted with DATA_ERROR at that run, and one that was halted when the power failed comes
back halted with its fault, its record written again (R418). [DEDUCED, log entry 64] -/
def haltAgain (s : State) (g : Group) : State :=
  match g.abandoned, (g.queue.find? (fun e => some e.seq == g.abandoned)) with
  | some seq, some e =>
    halt s g.gid { code := .dataError, src := .fetch seq, pc := g.pc, lane := true, run := e.idxA, word := 0, side := 0, lmask := g.k0
                   faddr := 0, gtime := s.gtc, imm := 0, isBrk := false, prog := 0, level := 2 } 2
  | _, _ =>
    match g.fault with
    | some fr => halt s g.gid fr fr.level
    | none => s

/-- The saved requests of a team re-enter the table of a cluster as Ready, their windows closed; their B pages are translated anew, and
the format blocks and scales stay those of their records (R252). -/
def moveReqs (s : State) (team cl : Nat) (slot : Nat → Nat × Nat) : State :=
  let mine := frozenReqs s team
  let s := { s with clusters := smapUpd s.clusters Cluster.reset (fun (c : Cluster) =>
    { c with reqs := c.reqs.filter (fun (r : MxReq) => !(r.team == team && r.stage == MxStage.frozen)) }) }
  let back := mine.map (fun r => { r with stage := .waiting, since := none, window := none, closed := true, pages := [], core := (slot r.gid).1, slot := (slot r.gid).2 })
  s.modCluster cl (fun c => openWindows s.cycle { c with reqs := sortBy (fun r => r.id) (c.reqs ++ back) })

/-- The waits on a team's receivers, its collectives and its array go on with the rest of their bounds (R268, R319, R321, R380). -/
def shiftWaits (s : State) (t : Team) (dt : Int) : State :=
  let gids := t.saved.map (fun g => g.gid)
  let cmd := fun (c : TweCmd) =>
    { c with since := if gids.contains c.gid then (c.since + dt).toNat else c.since
             recvs := mapIf c.recvs (·.team == t.id) (fun r => { r with since := r.since.map (fun a => (a + dt).toNat) }) }
  let move := fun (f : Ffa) => { f with queue := f.queue.map (fun c => { c with since := c.since.map (fun a => (a + dt).toNat) }) }
  { s with twe := s.twe.map cmd }.modFfa t.id move

/-- A saved team placed again on a core, as the most recently placed one (R368, R376). -/
def restoreTeam (s : State) (team core : Nat) : State :=
  match s.team? team with
  | none => s
  | some t =>
    let dt : Int := s.gtc - t.savedAt.getD s.gtc
    let base := (granuleBase s core (t.granules s)).getD 0
    let slots := (t.saved.zip (freeSlots s core)).map (fun x => (x.1.gid, core, x.2))
    let place := fun (gid : Nat) => ((slots.find? (fun x => x.1 == gid)).map (fun x => x.2)).getD (core, 0)
    let s := (shiftWaits s t dt).modFfa team (fun f => { f with winStart := s.cycle, nwin := 0, lastcnt := 0, biased := false })
    let s := { s with nextId := s.nextId + 1 }.modTeam team (fun t =>
      { t with core := core, granule := base, saved := [], savedAt := none, order := s.nextId })
    let s := s.modPart ((s.partOfVf t.vf).getD 0) (fun p => { p with restore := p.restore.filter (fun r => r.2 != team) })
    let s := moveReqs s team (clusterOf core) place
    let s := t.saved.foldl (fun s g => restoreGroup s core (place g.gid).2 dt g) s
    t.saved.foldl haltAgain s

/-- What a saved team needs (R376). [DEDUCED, log entry 63] -/
def savedNeeds (s : State) (d : Grid) (t : Team) : Needs :=
  let reqs := frozenReqs s t.id
  { needsOf d with
    mrf := (t.saved.map (fun g => 4 * g.width * g.alloc)).foldl (· + ·) 0, groups := t.saved.length, units := 0
    reqs := reqs.length, others := (reqs.filter (fun r => r.cls != 0)).length }

/-- The checks of an image at an address (R252, R376): VERSION and GEN of its header, then CHECK of its opaque bytes, both as the home serial
order has left them; the first that fails. What holds an uncorrectable error cannot be read (R465). -/
def imageFault (s : State) (a gen : Nat) (parts : List (Nat × Nat)) : Option Code :=
  let h := ofBytes (homeBytes s a 64)
  if hasErr s a 64 then some .dataError
  else if bitsOf h 31 0 != 1 || bitsOf h 63 32 != gen then some .imageVersion
  else if parts.any (fun p => hasErr s p.1 p.2) || crc32c (parts.flatMap (fun p => homeBytes s p.1 p.2)) != bitsOf h 159 128 then some .dataError
  else none

/-- The opaque parts of a team's context image, each an address and its bytes (R374). [DESIGN CHOICE, log entry 20] -/
def opaqueParts (s : State) (d : Grid) (t : Team) : List (Nat × Nat) :=
  let a := roomAddr s t
  (a + 64, teamImageBytes d - 64) :: t.saved.map (fun g => (a + groupOffset d g.gidx + 1152, sectionBytes d g.gidx))

/-- VERSION and GEN of a context image, then CHECK; an architected part that holds an error cannot be read either (R376, R465). -/
def imageBad (s : State) (t : Team) : Option Code :=
  match s.grid? t.grid with
  | none => none
  | some d =>
    (imageFault s (roomAddr s t) t.gen (opaqueParts s d t)).orElse (fun _ =>
      if t.saved.any (fun g => hasErr s (haltAddr s g + 128) 1024) then some .dataError else none)

/-- The checks of the matrix image, after placement (R252, R376). -/
def matrixBad (s : State) (d : Grid) (t : Team) : Option Code :=
  let a := roomAddr s t + matrixOffset d
  imageFault s a t.gen [(a + 64, 8192 * t.nslots + 8320 * (frozenReqs s t.id).length)]

/-- The partition with no team on it. -/
def emptied (s : State) : State := { s with cur := Group.empty, others := [], teams := s.teams.filter (fun t => t.savedAt.isSome), clusters := [] }

/-- The saved teams of a gang, in linear order; the resident mates name the cluster (R14, R376). -/
def gangOf (s : State) (d : Grid) (t : Team) : List Team :=
  sortBy (fun t => t.lin) (s.teams.filter (fun x => x.grid == d.id && x.lin / d.gang == t.lin / d.gang))

/-- TEAM_RESTORE (R376): the head of a restore list is checked and placed, with its gang; whether the list goes on. [DEDUCED, log entry 60] -/
def tryRestore (s : State) (part team : Nat) : Bool × State :=
  match s.team? team with
  | none => (true, s.modPart part (fun p => { p with restore := p.restore.filter (fun r => r.2 != team) }))
  | some t =>
    match s.grid? t.grid with
    | none => (true, s.modPart part (fun p => { p with restore := p.restore.filter (fun r => r.2 != team) }))
    | some d =>
      let gang := gangOf s d t
      let away := gang.filter (fun x => x.savedAt.isSome)
      let drop := fun (s : State) => s.modPart part (fun p => { p with restore := p.restore.filter (fun r => !away.any (fun x => x.id == r.2)) })
      match away.findSome? (fun x => (imageBad s x).map (fun c => (x, c))) with
      | some (x, c) => (true, reportTeam (drop s) x c)
      | none =>
        let ns := away.map (savedNeeds s d)
        let here := (gang.filter (fun x => x.savedAt.isNone)).map (fun x => clusterOf x.core)
        let mates := (gang.filter (fun x => x.savedAt.isNone)).map (fun x => x.core)
        let ok := fun (cl : Nat) => unheld s part none cl && here.all (· == cl)
        -- A mate's own core is not free for another team of the gang.
        let s' := { s with harvest := mates.foldl (fun l c => insertNat c l) s.harvest }
        if gang.any (fun x => x.saving.isSome) then (false, s)
        else
          match pickCores s' part d.vf ns ok with
          | some l =>
            (match away.findSome? (fun x => (matrixBad s d x).map (fun c => (x, c))) with
              | some (x, c) => (true, reportTeam (drop s) x c)
              | none => (true, (away.zip l).foldl (fun s x => restoreTeam s x.1.id x.2) s))
          | none =>
            if (pickCores (emptied s') part d.vf ns (fun cl => here.all (· == cl))).isSome then (false, s)
            else
              let s := (drop s).modGrid d.id (fun d => { d with restoreFail := true })
              (true, reportTeam (match s.grid? d.id with | some d => writeStatus s d 5 0 | none => s) t .restoreCapacity)

/-- The restore list of a class is served, in order of saving (R365, R376). -/
def restoreAll (part cls : Nat) (s : State) : (fuel : Nat) → State
  | 0 => s
  | f + 1 =>
    match (s.part part).restore.find? (fun r => r.1 == cls) with
    | none => s
    | some r =>
      match tryRestore s part r.2 with
      | (true, s) => restoreAll part cls s f
      | (false, s) => s

/-! Holding a cluster and pre-empting for class 0 (R367, R368). -/

/-- The cluster that holds the most cores that fit a team of the head, the lowest of them; where the save area has no room for a team, no
core fits it (R366, R367). [DEDUCED, log entry 56] -/
def bestCluster (s : State) (part : Nat) (d : Grid) : Nat :=
  let n := needsOf d
  let room := roomsFor s d.vf n.units 1
  let count := fun (cl : Nat) => ((coresIn s cl).filter (fun c => room && mayStand s part n c)).length
  (leastBy (fun cl => [4 - count cl, cl]) (clustersOf s part)).getD 0

/-- The state without some teams: what it would be once they are saved. -/
def without (s : State) (ids : List Nat) : State :=
  let keep := fun (g : Group) => !ids.contains g.team
  { s with cur := if keep s.cur then s.cur else Group.empty, others := s.others.filter keep, teams := s.teams.filter (fun t => !ids.contains t.id) }

/-- Teams of a cluster that may be pre-empted for class 0, in the order in which they are taken (R368): the lowest class first,
task mode last within it, the most recently placed first. A halted group is not pre-empted (R372). [DEDUCED, log entry 56] -/
def victimsIn (s : State) (cl : Nat) : List Team :=
  let task := fun (t : Team) => match s.grid? t.grid with | some d => d.task | none => false
  let free := fun (t : Team) => t.cls != 0 && t.savedAt.isNone && t.saving.isNone && clusterOf t.core == cl && !(s.groupsOf t.id).any (fun g => g.fault.isSome)
  let l := sortBy (fun t => s.nextId - t.order) (s.teams.filter free)
  sortBy (fun t => 2 * (3 - t.cls) + (if task t then 1 else 0)) l

/-- The shortest beginning of a list of teams without which the head fits the cluster (R368). -/
def enough (s : State) (part : Nat) (d : Grid) (cl : Nat) (gone : List Nat) : List Team → List Nat → Option (List Nat)
  | rest, taken =>
    match rest with
    | [] => if fits taken then some taken else none
    | t :: r => if fits taken then some taken else enough s part d cl gone r (taken ++ [t.id])
where
  /-- The head fits the cluster once these teams are gone as well. -/
  fits (taken : List Nat) : Bool :=
    (pickCores (without s (gone ++ taken)) part d.vf (List.replicate d.gang (needsOf d)) (· == cl)).isSome

/-- The blocked head of a main list: its age rises, at the limit its cluster is held, and for class 0 teams are pre-empted
(R367, R368). [DEDUCED, log entry 56] -/
def holdHead (s : State) (part cls : Nat) (d : Grid) : State :=
  let p := s.part part
  let age := sget p.ages 0 cls + 1
  let limit := if p.age = 0 then 4096 else p.age.toNat
  let s := s.modPart part (fun p => { p with ages := sset p.ages 0 cls age })
  let s := if (cls = 0 || limit ≤ age) && sget p.heldFor 0 cls = 0 then
      let cl := bestCluster s part d
      s.modPart part (fun p => { p with heldFor := sset p.heldFor 0 cls (cl + 1) })
    else s
  if cls != 0 then s
  else
    let cl := sget (s.part part).heldFor 0 cls - 1
    let gone := (s.teams.filter (fun t => t.saving.isSome && clusterOf t.core == cl)).map (fun t => t.id)
    match enough s part d cl gone (victimsIn s cl) [] with
    | some l => requestSaves s l
    | none => s

/-! The round (R365, R413). -/

/-- Class 3 is passed over while sub-step 7 holds in the partition (R412, R413). -/
def classOff (s : State) (part cls : Nat) : Bool :=
  cls == 3 && decide (17 ≤ s.power.tstep) && !s.grids.any (fun d => d.part == part && d.det && !d.ended && d.nextTeam != 0)

/-- One class of a round: the restore list, the main list, then back-fill (R365, R367). [DEDUCED, log entry 56] -/
def serveClass (part : Nat) (s : State) (cls : Nat) : State :=
  if classOff s part cls then s
  else
    let s := restoreAll part cls s 25000
    let (s, blocked) := placeAll part cls false s 25000
    match listHead s part cls false with
    | .empty => (placeAll part cls true s 25000).1
    | .packet => s
    | .grid d => if blocked then (placeAll part cls true (holdHead s part cls d) 25000).1 else s

/-- A team whose last resident groups ended during its save is saved with the others (R375). -/
def closeSaves (s : State) (part : Nat) : State :=
  (s.teams.filter (fun t => t.saving.isSome && !t.saved.isEmpty && (s.groupsOf t.id).isEmpty && s.partOfVf t.vf == some part)).foldl
    (fun s t => finishSave s t.id) s

/-- DISPATCH_ROUND (R365): the classes from 0 to 3. Nothing is placed at level 7, after a power failure, or on a partition that
is not active. -/
def execDispatchRound (part : Nat) (s : State) : Host.Outcome State Fault Refusal :=
  .next (
    let s := closeSaves (s.modPart part (fun p => { p with needRound := false, lastRound := s.gtc })) part
    if (s.part part).state != 1 || s.power.eff == 7 || s.power.fail.isSome || s.power.stopped then s
    else [0, 1, 2, 3].foldl (serveClass part) s)

/-! The host's answers (R372). -/

/-- The answer to the oldest halt record of a virtual function (R372, R401): resume as RETRY, resume-skip as IGNORE. [DEDUCED, log entry 60] -/
def answerHalt (retry : Bool) (vf : Nat) (s : State) : State :=
  match (s.vdev vf).halts with
  | [] => s
  | h :: _ =>
    let s := s.modVDev vf (fun (v : VDev) => { v with halts := v.halts.drop 1 })
    if h.team != 0 then
      match s.team? h.team, s.partOfVf vf with
      | some t, some n =>
        let away := (s.teams.filter (fun x => x.grid == t.grid && x.savedAt.isSome && x.id != t.id &&
          !(s.part n).restore.any (fun r => r.2 == x.id))).map (fun x => (x.cls, x.id))
        needRound (s.modPart n (fun p => { p with restore := p.restore ++ (t.cls, t.id) :: away })) n
      | _, _ => s
    else if h.merge then
      match s.turns.find? (fun t => t.id == h.turn) with
      | none => s
      | some t =>
        if retry then s.modTurn t.id (fun t => { t with stopped := false, cause := 0, faddr := 0, ready := s.gtc }) else ignoreTurn s t t.cause
    else
      match s.group? h.gid with
      | none => s
      | some g => let g' := rearm s (h.addr + 128) h.ctx g; answer (rearmOps g g' (s.setGroup g')) h.gid retry

/-- RESUME (R372). -/
def execResume (vf : Nat) (s : State) : Host.Outcome State Fault Refusal := unlessStopped s (answerHalt true vf s)

/-- RESUME_SKIP (R372). -/
def execResumeSkip (vf : Nat) (s : State) : Host.Outcome State Fault Refusal := unlessStopped s (answerHalt false vf s)

/-- KILL (R352, R372): the whole grid, or for a halted turn its scope. -/
def execKill (vf : Nat) (s : State) : Host.Outcome State Fault Refusal :=
  unlessStopped s (
    match (s.vdev vf).halts with
    | [] => s
    | h :: _ =>
      let s := s.modVDev vf (fun (v : VDev) => { v with halts := v.halts.drop 1 })
      if h.merge then
        match s.turns.find? (fun t => t.id == h.turn) with
        | none => s
        | some t => advanceScope 5000 (abortScopes 65536 (noteKill s h.grid .mergeFault) h.grid [t.scope]) h.grid t.scope t.who
      else killGrid s h.grid)

/-! `qpush` and its deferral (R323). -/

/-- The queue's oldest open packet launches a grid that cannot be placed, and could be without the teams of another grid. -/
def heldBack (s : State) (vf q grid : Nat) : Bool :=
  match s.pkts.find? (fun k => k.vf == vf && k.queue == q && k.open_) with
  | none => false
  | some k =>
    match s.grids.find? (fun d => d.pkt == k.id && decide (d.nextTeam < d.x * d.y * d.z)) with
    | none => false
    | some d =>
      let mine := (s.teams.filter (fun t => t.grid == grid)).map (fun t => t.id)
      let bf := pktBf k.bits
      (headCores s d.part bf d).isNone && (headCores (without s mine) d.part bf d).isSome

/-- The packet is copied into the next slot of the grid's overflow area; FULL when there is none (R322, R323). The manual does not say what
happens where the slot's address does not translate, permits no write, or is not memory: nothing is written there, and the status is
DEFERRED all the same. [DESIGN CHOICE, log entry 58] -/
def deferPacket (s : State) (g : Group) (d : Grid) (q : Nat) (p : BitVec 512) (a : BitVec 6) : State :=
  let n := d.nextDefer
  if d.ovfSize / 64 ≤ n then s.modGroupAny g.gid (fun g => qpushDone a 1 0 g s.cycle)
  else
    let s := s.modGrid d.id (fun d => { d with nextDefer := n + 1, deferred := d.deferred ++ [(n, q, p)] })
    let s := match reachPage s d.vf g.core none (d.ovf.toNat + 64 * n) 64 needWrite with
      | (.error _, s) => s
      | (.ok pg, s) =>
        if pg.ptype == 0 then State.usedPage s d.vf (d.ovf.toNat + 64 * n) (hubWrite s pg.pa (toBytes 64 p.toNat) pathLane).2
        else if pg.ptype == 3 then s else hubOut s d.vf pg (toBytes 64 p.toNat)
    s.modGroupAny g.gid (fun g => qpushDone a 2 n g s.cycle)

/-- QPUSH_ENTRY_FREED (R323): a waiting `qpush` takes a free entry, or is deferred; that of a group at its save point too, until its team is
saved (R380). -/
def execQpushEntryFreed (gid : Nat) (s : State) : Host.Outcome State Fault Refusal :=
  .next (
    match s.timed? gid with
    | none => s
    | some g =>
      match g.stall, s.grid? g.grid with
      | .qpush q _ p a, some d =>
        if queueFree s g.vf q != 0 then qpushAccept s gid q p a
        else if heldBack s g.vf q g.grid then deferPacket s g d q p a
        else s
      | _, _ => s)

end Sys2Proof.Machine
end

