-- ==== Sys2Proof/Machine/Device.lean ====
section
/-! DEFINITION. Partitions and virtual devices: creation, reset, teardown, binding, collapse and wake, doorbells (R395 to R408,
R468). -/

namespace Sys2Proof.Machine

/-- A free duration of at most `n` ticks, at least 1, and the state that has used it [DESIGN CHOICE, log entry 4]. -/
def State.within (s : State) (n : Nat) : Nat × State := (s.gtc + 1 + Config.latency s.fresh % n, { s with fresh := s.fresh + 1 })

/-- 1 ms in ticks. -/
def ms : Nat := 1000000

/-- Virtual functions of a partition (R400). -/
def vfsOf (s : State) (part : Nat) : List Nat := (List.range 128).filter (fun v => s.partOfVf v == some part)

/-- The partition is gated when every bound device of it is collapsed, to the depth of the lowest class; at level 7 to W3, one that is already
gated too (R406, R409). [DEDUCED, log entry 65] -/
def gatePart (s : State) (part : Nat) : State :=
  let p := s.part part
  let l := ((vfsOf s part).map s.vdev).filter (fun v => v.bind)
  let seven := s.power.eff == 7
  if (p.state == 1 || (p.state == 3 && seven)) && l.all (fun v => v.state == 3) && (!l.isEmpty || seven) then
    let depth := l.foldl (fun d v => min d v.wclass.toNat) 3
    s.modPart part (fun p => { p with state := 3, depth := if seven then 3 else BitVec.ofNat 2 depth })
  else s

/-- DET_POWER_RAISE (R412): the groups of deterministic grids whose DFLOOR is exceeded, and was not in an earlier state, raise DET_POWER at their
next scalar word. [DEDUCED, log entry 71] -/
def raiseFloor (before s : State) : State :=
  let f := fun (g : Group) => if g.live && overFloor s g && !overFloor before g then { g with detPend := true } else g
  { s with cur := f s.cur, others := s.others.map f }

/-! Abandoning work (R398). -/

/-- Everything that runs, waits or is recorded for a virtual function is abandoned, with no status and no decrement (R42, R253,
R285, R356, R398): its groups, teams, grids, packets and queues, its TLB entries, L1 blocks, pins and detector entries, and the stores sent
for it that wait at a port. A pass that a quarter of another function shares goes on as after a kill. [DEDUCED, log entry 66] -/
def clearVf (s : State) (vf : Nat) : State :=
  let mine := (s.groups.filter (fun g => g.vf == vf)).map (fun g => g.gid)
  let teams := s.teams.filter (fun t => t.vf == vf)
  let saved := (teams.flatMap (fun t => t.saved)).map (fun g => g.gid)
  let grids := (s.grids.filter (fun d => d.vf == vf)).map (fun d => d.id)
  let pkts := (s.pkts.filter (fun k => k.vf == vf)).map (fun k => k.id)
  let tids := teams.map (fun t => t.id)
  let gids := mine ++ saved
  let dropped := fun (c : Cluster) => openWindows s.cycle { c with
    reqs := c.reqs.filter (fun r => r.vf != vf)
    passes := (c.passes.filter (fun p => (passReqs c p).isEmpty || (passReqs c p).any (fun r => r.vf != vf))).map (fun p =>
      gids.foldl (fun p g => p.cut c s.cycle g) p)
    l2 := c.l2.map (fun (l : Line) => match l.pin with | some g => if grids.contains g then { l with pin := none } else l | none => l) }
  let core := fun (kc : Nat × Core) => (kc.1, { kc.2 with
    tlb := kc.2.tlb.filter (fun e => e.vf != vf), l1 := kc.2.l1.filter (fun b => b.vf != vf)
    victims := kc.2.victims.filter (fun v => v.1 != vf) })
  let left := fun (p : Part) => (pkts.foldl Part.leave p)
  { s with
    cur := if gids.contains s.cur.gid && s.cur.live then { s.cur with live := false } else s.cur
    others := s.others.filter (fun g => g.vf != vf), teams := s.teams.filter (fun t => t.vf != vf)
    grids := s.grids.filter (fun d => d.vf != vf), ops := s.ops.filter (fun o => !gids.contains o.gid)
    twe := s.twe.filter (fun c => c.vf != vf), pubs := s.pubs.filter (fun p => !tids.contains p.team)
    turns := s.turns.filter (fun t => !grids.contains t.grid), pkts := s.pkts.filter (fun k => k.vf != vf)
    clusters := smapUpd s.clusters Cluster.reset dropped
    cores := (s.cores.map core).filter (fun kc => !decide (kc.2 = Core.reset))
    tlb2 := smapUpd s.tlb2 [] (fun l => l.filter (fun e => e.vf != vf))
    priReqs := s.priReqs.filter (fun r => r.1 != vf), priRefused := s.priRefused.filter (fun r => r.1 != vf)
    priEngines := s.priEngines.filter (fun r => r.1 != vf), invals := s.invals.filter (fun r => r.1 != vf)
    ports := smapUpd s.ports Port.reset (fun p => { p with waiting := p.waiting.filter (fun x => x.vf != vf) })
    parts := smapUpd s.parts Part.reset (fun p =>
      { left p with restore := (left p).restore.filter (fun r => !tids.contains r.2) })
    vdevs := sset s.vdevs VDev.reset vf { s.vdev vf with queues := [], halts := [], rooms := [] } }

/-- The work of a partition is abandoned (R398): that of its virtual functions, and its tokens, whose fences went with their groups (R222).
[DEDUCED, log entry 66] -/
def clearPart (s : State) (part : Nat) : State :=
  let s := (vfsOf s part).foldl clearVf s
  { s with tokens := s.tokens.filter (fun t => t.part != part) }

/-! Partitions (R395, R396, R398, R399). -/

/-- The shape record of a partition (R403). [PRESUMED, log entry 9; DEDUCED, log entry 67] -/
def shapeRecord (s : State) (part : Nat) : List Byte :=
  let p := s.part part
  let n := 2 ^ p.log2q.toNat
  let cores := (List.range 16).map (fun i =>
    if i < n then ((s.coresOf part).filter (fun c => quadOf c == p.baseq.toNat + i)).length else 0)
  toBytes 2 n ++ cores.flatMap (toBytes 1) ++ toBytes 2 (8 * n) ++ toBytes 2 (8 * n) ++ toBytes 2 (cores.foldl (· + ·) 0) ++
    toBytes 4 1 ++ toBytes 4 0

/-- Quadrants of two partitions overlap. -/
def overlaps (b k c l : Nat) : Bool := decide (b < c + 2 ^ l) && decide (c < b + 2 ^ k)

/-- The fields that a write of PART_CFGn may always change (R396). -/
def partFields (p : Part) (value : Word64) : Part :=
  { p with prot := value.getLsbD 62, dfloor := value.extractLsb' 59 3, rsvc := value.extractLsb' 48 5, age := value.extractLsb' 32 16 }

/-- A write of PART_CFGn that makes a partition, or one that is ignored (R396). -/
def createPart (s : State) (n : Nat) (value : Word64) : State :=
  let baseq := value.extractLsb' 4 4
  let log2q := value.extractLsb' 0 3
  let bad := baseq.toNat % 2 ^ log2q.toNat != 0 ||
    (List.range 16).any (fun m => m != n && (s.part m).valid && overlaps baseq.toNat log2q.toNat (s.part m).baseq.toNat (s.part m).log2q.toNat)
  if bad then s
  else
    let (t, s) := s.within (300 * ms)
    let p := { partFields Part.reset value with valid := true, baseq := baseq, log2q := log2q, state := 1, lastRound := s.gtc, lastCheck := s.gtc
                                                retrainAt := t }
    let s := s.modPart n (fun _ => p)
    s.modPart n (fun p => { p with shape := sha3 (shapeRecord s n) })

/-- The partition starts to reset: its work is gone at once, and it is active again within 200 ms (R398). [DEDUCED, log entry 66] -/
def resetPart (s : State) (n : Nat) (teardown : Bool) : State :=
  let (t, s) := s.within ((if teardown then 400 else 200) * ms)
  (clearPart s n).modPart n (fun p => { p with
    state := 2, depth := 0, resetAt := some t, teardown := teardown, ages := [], heldFor := [], needRound := false, table := [], ready := []
    restore := [] })

/-- PART_RESET (R398): a free or already resetting partition takes no reset. -/
def execPartitionReset (part : Nat) (s : State) : Host.Outcome State Fault Refusal :=
  unlessStopped s (if decide (part < 16) && ((s.part part).state == 1 || (s.part part).state == 3) then resetPart s part false else s)

/-- PARTITION_TEARDOWN (R399): held until a reset in progress completes; a write with no partition there changes nothing. -/
def execPartitionTeardown (part : Nat) (s : State) : Host.Outcome State Fault Refusal :=
  unlessStopped s (
    let p := s.part part
    match p.resetAt with
    | some _ => if p.teardown then s else s.modPart part (fun p => { p with heldDown := true })
    | none => if decide (part < 16) && (p.state == 1 || p.state == 3) then resetPart s part true else s)

/-- A write of PART_CFGn (R396, R399); one with LOG2Q 5 to 7 is ignored. A lower DFLOOR that the level exceeds raises DET_POWER (R412). -/
def writePartCfg (s : State) (n : Nat) (value : Word64) : State :=
  if 4 < (value.extractLsb' 0 3).toNat then s
  else if (s.part n).state = 0 then
    if value.getLsbD 63 then createPart s n value
    else s.modPart n (fun p => { partFields p value with baseq := value.extractLsb' 4 4, log2q := value.extractLsb' 0 3 })
  else
    let s := raiseFloor s (s.modPart n (fun p => partFields p value))
    if value.getLsbD 63 then s
    else match execPartitionTeardown n s with | .next s => s | _ => s

/-- PARTITION_CREATE (R396). -/
def execPartitionCreate (part : Nat) (value : Word64) (s : State) : Host.Outcome State Fault Refusal :=
  unlessStopped s (if part < 16 then writePartCfg s part value else s)

/-- A virtual function is unbound (R399, R400): its registers are cleared as the rule on teardown lists them. -/
def unbindVf (s : State) (vf : Nat) : State :=
  (clearVf s vf).modVDev vf (fun v => { v with
    bind := false, state := 0, qerrV := false, qerrQueue := 0, qerrOp := 0, qerrReason := 0, moveAt := 0, wakeReq := false, idleSince := 0 })

/-- PARTITION_RESET_COMPLETE (R398, R399): STATE returns to 1, or after a teardown the partition is gone; PF vector n + 1. -/
def execPartitionResetComplete (part : Nat) (s : State) : Host.Outcome State Fault Refusal :=
  .next (
    let p := s.part part
    match p.resetAt with
    | none => s
    | some t =>
      if s.gtc < t then s
      else if p.teardown then
        let s := (vfsOf s part).foldl unbindVf s
        (s.modPart part (fun p => { Part.reset with prot := p.prot, dfloor := p.dfloor, rsvc := p.rsvc, age := p.age, baseq := p.baseq
                                                    log2q := p.log2q })).signal 0 (part + 1)
      else
        let s := (vfsOf s part).foldl (fun s v => s.modVDev v (fun d => { d with idleSince := s.gtc })) s
        let s := (s.modPart part (fun p => { p with state := 1, resetAt := none, heldDown := false })).signal 0 (part + 1)
        if p.heldDown then resetPart s part true else s)

/-! Binding (R400, R468). -/

/-- The save area has a size and lies in HBM of a partition (R468). -/
def saveOk (s : State) (vf part : Nat) : Bool :=
  let v := s.vdev vf
  let a := v.save.toNat * 65536
  let n := v.savesz.toNat * 65536
  n != 0 && s.partOfQuad (stackOf a) == some part && decide (a % 2 ^ 36 + n ≤ 0xEE6B28000)

/-- Teams of the drain image saved on a partition of this shape enter its restore lists, and with them the turns in progress of their grids; a
halted turn halts again (R356, R418). [DEDUCED, log entry 64] -/
def adoptImage (s : State) (vf part : Nat) : State :=
  let mine := s.power.image.filter (fun e => e.1 == (s.part part).shape && e.2.1.vf == vf)
  mine.foldl (fun s e =>
    let d := { e.2.1 with part := part }
    let t := e.2.2
    let turns := s.power.turns.filter (fun x => x.grid == d.id)
    let s := { s with teams := s.teams ++ [t], grids := if s.grids.any (fun x => x.id == d.id) then s.grids else s.grids ++ [d]
                      turns := s.turns ++ turns
                      power := { s.power with image := s.power.image.filter (fun x => x.2.2.id != t.id)
                                              turns := s.power.turns.filter (fun x => x.grid != d.id) } }
    let s := s.modVDev vf (fun v => (takeRooms (roomUnits d) v [t.id]).getD v)
    let s := (turns.filter (fun x => x.stopped)).foldl (fun s x => haltTurn s d x x.cause x.faddr (policyOf s d.id d.vf .mergeFault).2) s
    needRound ((writeImage s t).modPart part (fun p => { p with restore := p.restore ++ [(t.cls, t.id)] })) part) s

/-- BIND (R400, R468): ignored without a valid partition or a save area in it. On a gated partition the device wakes. -/
def execBind (vf : Nat) (s : State) : Host.Outcome State Fault Refusal :=
  .next (
    match s.partOfVf vf with
    | none => s
    | some n =>
      if 128 ≤ vf || (s.vdev vf).bind || !saveOk s vf n || s.hub.bootState != 1 || s.power.stopped then s
      else
        let (t, s) := s.within 200000
        let gated := (s.part n).state == 3
        let s := s.modVDev vf (fun v => { v with bind := true, state := if gated then 4 else 1, moveAt := t, idleSince := s.gtc })
        adoptImage s vf n)

/-- UNBIND (R400); the partition is gated where every device that is left is collapsed (R406). -/
def execUnbind (vf : Nat) (s : State) : Host.Outcome State Fault Refusal :=
  unlessStopped s (
    if !(s.vdev vf).bind then s
    else
      match s.partOfVf vf with
      | some n => gatePart (unbindVf s vf) n
      | none => unbindVf s vf)

/-! Collapse and wake (R405 to R408). -/

/-- The virtual device is idle (R406): no team placed, saved or waiting to be restored, no packet in its queues, the ready lists or the wait
table, and no halt record unanswered. -/
def vfIdle (s : State) (vf : Nat) : Bool :=
  let listed := fun (k : Pkt) => (s.part k.part).ready.any (fun r => r.2.2 == k.id) || (s.part k.part).table.any (fun e => e.2 == k.id)
  !s.teams.any (fun t => t.vf == vf) && !s.pkts.any (fun k => k.vf == vf && listed k) &&
    (s.vdev vf).queues.all (fun q => q.2.entries.isEmpty) && (s.vdev vf).halts.isEmpty

/-- Wake bound of a class, in ticks (R405). -/
def wakeBound (c : BitVec 2) : Nat := match c.toNat with | 0 => 200000 | 1 => 2 * ms | 2 => 20 * ms | _ => 200 * ms

/-- A collapse begins (R406). -/
def beginCollapse (s : State) (vf : Nat) : State :=
  let (t, s) := s.later
  s.modVDev vf (fun v => { v with state := 2, moveAt := t })

/-- COLLAPSE (R406): ignored by a device that is not active or not idle. -/
def execCollapse (vf : Nat) (s : State) : Host.Outcome State Fault Refusal :=
  unlessStopped s (if (s.vdev vf).state == 1 && vfIdle s vf then beginCollapse s vf else s)

/-- The device has been idle for its IDLE time, or step 8 of the throttle order holds (R406, R410). -/
def idleOver (s : State) (vf : Nat) : Bool :=
  let v := s.vdev vf
  v.state == 1 && vfIdle s vf && ((v.idle != 0 && decide (v.idleSince + 64000 * 2 ^ v.idle.toNat ≤ s.gtc)) || decide (18 ≤ s.tstepOf vf))

/-- IDLE_COLLAPSE (R406). -/
def execIdleCollapse (vf : Nat) (s : State) : Host.Outcome State Fault Refusal := .next (if idleOver s vf then beginCollapse s vf else s)

/-- COLLAPSE_COMPLETE (R406, R409): at level 7 once the device's teams are saved. -/
def execCollapseComplete (vf : Nat) (s : State) : Host.Outcome State Fault Refusal :=
  .next (
    let v := s.vdev vf
    if v.state != 2 || s.gtc < v.moveAt || s.teams.any (fun t => t.vf == vf && t.savedAt.isNone) then s
    else
      let s := s.modVDev vf (fun v => { v with state := 3 })
      match s.partOfVf vf with
      | some n => gatePart s n
      | none => s)

/-- A wake of a collapsed or collapsing device begins (R407); at level 7 the wake of any bound device is recorded (R408). At W3 the ports
retrain. -/
def beginWake (s : State) (vf : Nat) : State :=
  let v := s.vdev vf
  if s.power.eff == 7 && v.state != 0 then s.modVDev vf (fun v => { v with wakeReq := true })
  else if v.state != 2 && v.state != 3 then s
  else
    let (t, s) := s.within (wakeBound v.wclass)
    let s := s.modVDev vf (fun v => { v with state := 4, moveAt := t, wakeReq := false })
    match s.partOfVf vf with
    | none => s
    | some n =>
      if (s.part n).state == 3 && (s.part n).depth == 3 && (s.part n).retrainAt ≤ s.gtc then
        let (r, s) := s.within (300 * ms)
        s.modPart n (fun p => { p with retrainAt := r })
      else s

/-- WAKE (R407). -/
def execWake (vf : Nat) (s : State) : Host.Outcome State Fault Refusal := unlessStopped s (beginWake s vf)

/-- WAKE_COMPLETE (R407, R422): STATE reaches 1, the partition is no longer gated, and VF vector 2 is signalled. -/
def execWakeComplete (vf : Nat) (s : State) : Host.Outcome State Fault Refusal :=
  .next (
    let v := s.vdev vf
    if v.state != 4 || s.gtc < v.moveAt then s
    else
      let s := (s.modVDev vf (fun v => { v with state := 1, idleSince := s.gtc })).signal (vf + 1) 2
      match s.partOfVf vf with
      | none => s
      | some n => needRound (s.modPart n (fun p => if p.state == 3 then { p with state := 1, depth := 0 } else p)) n)

/-- Every device of a partition that is gated at W2 or W3 wakes for a host access to its memory; the access is held (R407). -/
def wakeFor (s : State) (part : Nat) : Option State :=
  if (s.part part).state == 3 && 2 ≤ (s.part part).depth then some ((vfsOf s part).foldl beginWake s) else none

/-- DOORBELL (R400, R402, R407): the packet enters its queue and wakes the device; an unbound function's doorbell, and one that
finds its queue full, are ignored. [DESIGN CHOICE, log entry 35] -/
def execDoorbell (vf queue : Nat) (packet : BitVec 512) (s : State) : Host.Outcome State Fault Refusal :=
  .next (
    let resetting := match s.partOfVf vf with | some n => (s.part n).state == 2 | none => true
    if !(s.vdev vf).bind || 16 ≤ queue || s.power.stopped || resetting then s
    else
      let s := if queueFree s vf queue = 0 then s else enqueuePacket s vf queue packet
      beginWake s vf)

end Sys2Proof.Machine
end

