-- ==== Sys2Proof/Machine/Power.lean ====
section
/-! DEFINITION. Power-step levels, the throttle order, supply sags and the Cicada drain (R409 to R419). -/

namespace Sys2Proof.Machine

/-! Levels (R409, R412). -/

/-- Watts of a level (R409). -/
def levelWatts (n : Nat) : Nat := [3400, 2800, 2200, 1600, 1100, 700, 350, 90].getD n 90

/-- Level 7, once level 6 is reached: every team is saved and every device collapses, within 40 ms (R408, R409). [DEDUCED, log entry 65] -/
def levelSeven (s : State) : State :=
  let s := requestSaves s ((s.teams.filter (fun t => t.savedAt.isNone)).map (fun t => t.id))
  let s := (List.range 128).foldl (fun s v =>
    let d := s.vdev v
    let limit := fun (d : VDev) => { d with moveAt := min d.moveAt (s.gtc + 40 * ms) }
    if d.state == 1 then (beginCollapse s v).modVDev v limit
    else if d.state == 2 then s.modVDev v limit
    else if d.state == 4 then (beginCollapse s v).modVDev v (fun d => { limit d with wakeReq := true })
    else s) s
  (List.range 16).foldl gatePart s

/-- Wakes recorded at level 7 are served once the level is 6 or lower (R408). [DEDUCED, log entry 65] -/
def serveWakes (s : State) : State :=
  (List.range 128).foldl (fun s v => if (s.vdev v).wakeReq then (beginWake s v).modVDev v (fun d => { d with wakeReq := false }) else s) s

/-- A partition that only level 7 has gated, with no device bound to wake it, is active again (R406, R409). [DEDUCED, log entry 65; DESIGN CHOICE, log entry 68] -/
def ungate (s : State) (part : Nat) : State :=
  if (s.part part).state == 3 && !(vfsOf s part).any (fun v => (s.vdev v).bind) then
    s.modPart part (fun p => { p with state := 1, depth := 0 })
  else s

/-- A source commands a level: the highest of the three is effective, and the time in which it must be met starts again
(R409). -/
def command (s : State) (f : Power → Power) : State :=
  let p := f s.power
  let eff := BitVec.ofNat 3 (max p.level.toNat (max p.pins.toNat p.side.toNat))
  let was := s.power.eff
  let s := { s with power := { p with
    eff := eff, effSince := if eff == was then p.effSince else s.gtc, deadline := if eff = 0 then none else some (s.gtc + ms) } }
  if eff == was then s
  else
    let s := raiseFloor { s with power := p } (s.count (ctrPwr 1) 1)
    if was == 7 then (List.range 16).foldl (fun s n => if (s.part n).state == 0 then s else needRound (ungate s n) n) (serveWakes s) else s

/-- POWER_STEP_COMMAND (R409). -/
def execPowerStepCommand (level : BitVec 3) (s : State) : Host.Outcome State Fault Refusal :=
  unlessStopped s (command s (fun p => { p with level := level }))

/-- PSTEP_PINS (R409). -/
def execPstepPins (level : BitVec 3) (s : State) : Host.Outcome State Fault Refusal :=
  .next (command s (fun p => { p with pins := level }))

/-- SIDE_PORT_LEVEL_WRITE (R430): a value of 8 or more is ignored. -/
def execSidePortLevelWrite (level : Byte) (s : State) : Host.Outcome State Fault Refusal :=
  .next (if level.toNat < 8 then command s (fun p => { p with side := level.extractLsb' 0 3 }) else s)

/-! The throttle order (R410, R411, R413). -/

/-- Common clock in 1/16 GHz after a number of sub-steps: 0.125 GHz less for each of 5a to 5h (R410). -/
def clockOf (tstep : Nat) : Nat := 24 - 2 * min (tstep - 6) 8

/-- The sub-steps entered are now `n`. -/
def setStep (s : State) (n : Nat) : State := { s with power := { s.power with tstep := n }, clk := clockOf n }

/-- Step 7: the class-3 teams of partitions without a running deterministic grid are pre-empted (R410, R412, R413). -/
def preemptClass3 (s : State) : State :=
  requestSaves s ((s.teams.filter (fun t => t.cls == 3 && t.savedAt.isNone && !s.detRuns t.vf)).map (fun t => t.id))

/-- The next sub-step is entered (R411). -/
def enterStep (s : State) : State :=
  let n := s.power.tstep + 1
  if 18 < n then s
  else
    let s := (setStep s n).count (ctrPwr 2) 1
    if n = 17 then preemptClass3 s else s

/-- The last sub-step is released; after step 7 class 3 is placed again (R411, R413). -/
def releaseStep (s : State) : State :=
  let n := s.power.tstep
  let s := setStep s (n - 1)
  if n = 17 then (List.range 16).foldl (fun s n => if (s.part n).state == 1 then needRound s n else s) s else s

/-- POWER_MEASUREMENT (R411): above the level the next sub-step is entered; below 90 % of it for 100 µs the last is released. [DESIGN CHOICE, log entries 11 and 12] -/
def execPowerMeasurement (watts : BitVec 16) (s : State) : Host.Outcome State Fault Refusal :=
  .next (
    let w := watts.toNat
    let level := levelWatts s.power.eff.toNat
    let s := { s with power := { s.power with meas := watts, lastMeasure := s.gtc, measCount := s.power.measCount + 1 } }
    let energy := s.power.energyRest + w
    let s := { s with power := { s.power with energyRest := energy % 100 } }.count (ctrPwr 0) (energy / 100)
    let low := fun (s : State) (t : Option Nat) => { s with power := { s.power with lowSince := t } }
    if level < w then enterStep (low s none)
    else if 10 * w < 9 * level then
      match s.power.lowSince with
      | none => low s (some s.gtc)
      | some t => if t + 100000 ≤ s.gtc && s.power.tstep != 0 then low (releaseStep s) (some s.gtc) else s
    else low s none)

/-- LEVEL_DEADLINE (R409, R411): 1 ms after a level became effective. -/
def execLevelDeadline (s : State) : Host.Outcome State Fault Refusal :=
  .next (
    match s.power.deadline with
    | none => s
    | some t =>
      if s.gtc < t then s
      else
        let s := { s with power := { s.power with deadline := none } }
        if s.power.eff == 7 then levelSeven s
        else if s.power.tstep = 18 && levelWatts s.power.eff.toNat < s.power.meas.toNat then
          { s with power := { s.power with unmet := true } }.signal 0 0
        else s)

/-! Sags (R415). -/

/-- SAG (R415): the clock halves. -/
def execSag (s : State) : Host.Outcome State Fault Refusal := .next { s with power := { s.power with sag := true, recover := 0 } }

/-- SAG_RECOVERY (R415): the clock comes back in steps over 1 µs. -/
def execSagRecovery (s : State) : Host.Outcome State Fault Refusal :=
  .next (
    if !s.power.sag then s
    else
      let n := if s.power.sagcnt == 0xFFFF then 0xFFFF else s.power.sagcnt + 1
      { s with power := { s.power with sag := false, recover := 1000, sagcnt := n } })

/-! The Cicada drain (R416 to R419). -/

/-- Runs still Issuing are abandoned (R42, R416): each returns to the head of its queue, and the group is marked for the first.
A parked run is saved as at pre-emption (R298). Of a pair whose one run is still Issuing while the other has been issued or has retired,
the manual does not say what comes back: here the pair is one entry, and both of its runs are fetched and executed again.
[DESIGN CHOICE, log entry 64] -/
def Group.abandon (g : Group) : Group :=
  let issuing := g.runs.filter (fun r => !r.parked && !r.sides.all (·.issued))
  let entry := fun (r : Run) =>
    { seq := r.seq, pair := r.pair, idxA := ((r.side? 0).map (·.idx)).getD 0, idxB := ((r.side? 1).map (·.idx)).getD 0, k4 := r.k4
      await := r.await, lb := r.lb, code := none, readyAt := 0, since := none : Entry }
  { g with
    preempt := true, runs := g.runs.filter (fun r => !issuing.any (fun x => x.seq == r.seq)), queue := issuing.map entry ++ g.queue
    abandoned := (issuing.head?).map (fun r => r.seq) }

/-- One group of a protected partition stops: a task with no abandoned run yields as by `yield` with a6 = 0 (R356, R416). -/
def freezeFor (s : State) (g : Group) : State :=
  let s := s.modGroup g.gid Group.abandon
  match s.group? g.gid with
  | none => s
  | some h => if h.task.isSome && h.abandoned.isNone && !h.stopped then saveTask s g.gid h.pc none false else s

/-- The teams of a protected partition are frozen as at pre-emption, the matrix requests of all their groups together (R250, R416). -/
def freezePart (s : State) (part : Nat) : State :=
  let ts := s.teams.filter (fun t => t.savedAt.isNone && s.partOfVf t.vf == some part)
  let s := ts.foldl (fun s t => s.modTeam t.id (fun t => { t with saving := some (t.saving.getD s.gtc) })) s
  let gs := ts.flatMap (fun t => s.groupsOf t.id)
  freezeGroups (gs.foldl freezeFor s) (gs.map (fun g => g.gid))

/-- A partition whose state is lost is gated at once (R416). [DEDUCED, log entry 64] -/
def losePart (s : State) (part : Nat) : State := (clearPart s part).modPart part (fun p => { p with state := 3, depth := 3 })

/-- PWRFAIL (R416, R419): an assertion of at least 100 ns is latched, once. [DESIGN CHOICE, log entry 11; DEDUCED, log entry 64] -/
def execPwrfail (ns : Nat) (s : State) : Host.Outcome State Fault Refusal :=
  .next (
    if ns < 100 || s.power.fail.isSome || s.power.stopped then s
    else
      let s := { s with power := { s.power with fail := some s.gtc } }
      (List.range 16).foldl (fun s n =>
        let p := s.part n
        if !p.valid then s else if p.prot then freezePart s n else losePart s n) s)

/-- Every group of a protected partition that is still resident is taken as it stands. -/
def takeRest (s : State) : State :=
  let saveAll := fun (s : State) (gid : Nat) => match s.group? gid with | some g => saveGroup s g | none => s
  ((s.groups.filter (fun g => (s.teamOf g).saving.isSome)).map (fun g => g.gid)).foldl saveAll s

/-- Teams in the order of the drain: ascending partition, then placement (R416). -/
def drainOrder (s : State) : List Team :=
  (List.range 16).flatMap (fun n =>
    if (s.part n).valid && (s.part n).prot then
      sortBy (fun t => t.order) (s.teams.filter (fun t => t.savedAt.isSome && s.partOfVf t.vf == some n))
    else [])

/-- Units of 64 KiB that a team's image takes. -/
def imageUnits (s : State) (t : Team) : Nat := match s.grid? t.grid with | some d => roomUnits d | none => 0

/-- The teams that fit 1 GiB, with the units they take (R417). [DEDUCED, log entry 64] -/
def drained (s : State) : List Team → Nat → List (BitVec 256 × Grid × Team) × Nat
  | [], n => ([], n)
  | t :: r, n =>
    match s.grid? t.grid with
    | none => drained s r n
    | some d =>
      let u := imageUnits s t
      if 16384 < n + u then ([], n)
      else
        let (l, m) := drained s r (n + u)
        (((s.part d.part).shape, d, t) :: l, m)

/-- What is left of the drain once the teams that fit are known: the image with the turns in progress of its grids (R356), and the directory's
record of the teams that were not drained (R417). [DEDUCED, log entry 64] -/
def drainImage (s : State) (p : Power) : Power :=
  let (l, n) := drained s (drainOrder s) 0
  let lost := (drainOrder s).filter (fun t => !l.any (fun e => e.2.2.id == t.id))
  { p with image := l, turns := s.turns.filter (fun t => l.any (fun e => e.2.1.id == t.grid))
           lost := lost.map (fun t => (t.vf, t.grid, t.lin)), drainValid := true, drainSize := BitVec.ofNat 32 n }

/-- DRAIN_COMPLETE (R417, R419): the image is reported when the rails held, and the package stays stopped. [DESIGN CHOICE, log entry 14] -/
def execDrainComplete (railsHeld : Bool) (s : State) : Host.Outcome State Fault Refusal :=
  .next (
    if s.power.fail.isNone || s.power.stopped then s
    else
      let s := takeRest s
      let s := (List.range 16).foldl (fun s n => if (s.part n).valid then s.modPart n (fun p => { p with state := 3, depth := 3 }) else s) s
      let none_ := { s.power with image := [], turns := [], lost := [], drainValid := false, drainSize := 0 }
      { s with power := { (if railsHeld then drainImage s s.power else none_) with stopped := true } })

/-- DRAIN_DISCARD (R414). -/
def execDrainDiscard (s : State) : Host.Outcome State Fault Refusal :=
  unlessStopped s { s with power := { s.power with drainValid := false, drainSize := 0, image := [], turns := [], lost := [] } }

/-! A drained team across a cold reset (R418). -/

/-- Times of a context counted from the restart of the GTC and of the cycles: what was past is 0. Bounds and first ticks stay as they were
saved, and the restore moves them by the time between (R380). -/
def Group.rebase (t : Nat) (g : Group) : Group :=
  { g with
    acqfloor := g.acqfloor - t, hd := g.hd - t, hs := g.hs - t, h1 := g.h1 - t, h2 := g.h2 - t, h3 := g.h3 - t
    stamp0 := g.stamp0 - t, stamp1 := g.stamp1 - t, stamp2 := g.stamp2 - t, stamp3 := g.stamp3 - t
    sready := 0, sboard := [], nextStart := 0, stretch := 0
    stall := match g.stall with
      | .horizon h a => .horizon (h - t) a
      | .idle _ => .idle 0
      | x => x }

/-- A queued command of an array in the image. -/
def FfaCmd.rebase (t : Nat) (c : FfaCmd) : FfaCmd := { c with ready := 0, at_ := c.at_ - t, stamp := c.stamp - t, hmax := c.hmax - t }

/-- A team of the image. [DEDUCED, log entry 64] -/
def Team.rebase (t : Team) : Team :=
  let at_ := t.savedAt.getD 0
  let ffa := fun (f : Ffa) => { f with trimTill := f.trimTill - at_, queue := f.queue.map (FfaCmd.rebase at_) }
  { t with saved := t.saved.map (Group.rebase at_), h := t.h - at_, ffa := t.ffa.map ffa }

/-- An operation of a group of the image, and a request (R250, R466). [DEDUCED, log entry 64] -/
def Op.rebase (t : Nat) (o : Op) : Op :=
  { o with ready := 0, floor := o.floor - t, issuedAt := o.issuedAt - t, stamp := o.stamp - t, vmax := o.vmax - t }
/-- A turn of the image: what it wrote is long visible. [DEDUCED, log entry 64] -/
def Turn.rebase (t : Turn) : Turn := { t with h := 0, ready := 0 }
def MxReq.rebase (t : Nat) (r : MxReq) : MxReq := { r with stamp := r.stamp - t, hmax := r.hmax - t }

end Sys2Proof.Machine
end

