-- ==== Sys2Proof/Machine/HostLink.lean ====
section
/-! DEFINITION. The host's registers and memory accesses, fabric and die links, GTC measurement, snapshots, boot, attestation and
the side port (R5, R225, R377 to R379, R392 to R394, R396, R401, R402, R414, R419 to R430, R465). -/

namespace Sys2Proof.Machine

/-! Boot (R427, R428). -/

/-- The boot ROM reads the flash image and makes its checks (R427): READY with the image's SVN, or FAIL with the reason, which
signals PF vector 0 (R422); once it runs, the device key is derived (R429). [DESIGN CHOICE, log entry 24] -/
def bootRom (s : State) : State :=
  let v := Config.bootVerify s.hub.flash
  let svn := Config.bootSvn s.hub.flash
  let fail := fun (r : Nat) => { s with hub := { s.hub with bootState := 2, bootReason := BitVec.ofNat 4 r, svn := 0 } }.signal 0 0
  if v = 1 || v = 2 || v = 4 then fail v
  else if v != 0 then fail 5
  else if svn.toNat < Config.minSvn.toNat then fail 3
  else { s with hub := { s.hub with bootState := 1, bootReason := 0, svn := svn, key := Config.deviceKey } }

/-- REBOOT (R427, R428): only while STATE is FAIL. -/
def execReboot (s : State) : Host.Outcome State Fault Refusal := unlessStopped s (if s.hub.bootState == 2 then bootRom s else s)

/-- COLD_RESET (R377, R418, R419, R427): everything starts again but the flash, harvest and a complete drain image; of the work in
flight, what belongs to the image's teams is kept with it. One that comes while the drain is still writing abandons it, and no image is left
(R419). [DESIGN CHOICE, log entry 15] -/
def execColdReset (s : State) : Host.Outcome State Fault Refusal :=
  let writing := s.power.fail.isSome && !s.power.stopped
  let kept := if writing then [] else s.power.image
  let image := kept.map (fun e => (e.1, e.2.1, e.2.2.rebase))
  let teams := kept.map (fun e => e.2.2)
  let savedAt := fun (p : Team → Bool) => (teams.find? p).map (fun t => t.savedAt.getD 0)
  let req := fun (r : MxReq) => if r.stage == .frozen then (savedAt (fun t => t.id == r.team)).map r.rebase else none
  let op := fun (o : Op) => (savedAt (fun t => t.saved.any (fun g => g.gid == o.gid))).map o.rebase
  let clusters := smapUpd s.clusters Cluster.reset (fun (c : Cluster) => { Cluster.reset with reqs := c.reqs.filterMap req })
  let power := if writing then Power.reset else { Power.reset with
    image := image, turns := s.power.turns.map Turn.rebase, lost := s.power.lost, drainValid := s.power.drainValid, drainSize := s.power.drainSize }
  .next (bootRom { State.reset with
    nextId := s.nextId, fresh := s.fresh, harvest := s.harvest, inputs := s.inputs, power := power, clusters := clusters
    ops := s.ops.filterMap op, hub := { Hub.reset with flash := s.hub.flash } })

/-! Registers (R5, R378, R394, R396, R401, R402, R414, R423). -/

/-- A field at a bit. -/
def fld (bit : Nat) (x : Nat) : Nat × Nat := (bit, x)

/-- A number of fields as a register value. -/
def regOf (l : List (Nat × Nat)) : Word64 := BitVec.ofNat 64 (pack l)

/-- A Bool as a field. -/
def b2n (b : Bool) : Nat := if b then 1 else 0

/-- Units of the save area that no team holds (R468). -/
def saveFree (v : VDev) : Nat := v.savesz.toNat - (v.rooms.map (fun r => r.units)).foldl (· + ·) 0

/-- A VDEV_ register by its BAR0 offset (R401, R402); write-only and reserved ones read 0. -/
def vdevRead (v : VDev) (off : Nat) : Word64 :=
  if off = 0x00 then regOf [fld 63 (b2n v.bind), fld 8 v.idle.toNat, fld 0 v.wclass.toNat]
  else if off = 0x08 then regOf [fld 0 v.state.toNat]
  else if off = 0x20 then regOf [fld 14 v.root.toNat]
  else if off = 0x28 then v.contain0
  else if off = 0x30 then v.contain1
  else if off = 0x38 then regOf [fld 63 (b2n v.qerrV), fld 16 v.qerrQueue.toNat, fld 8 v.qerrOp.toNat, fld 0 v.qerrReason.toNat]
  else if off = 0x40 then regOf [fld 16 v.save.toNat]
  else if off = 0x48 then regOf [fld 0 v.savesz.toNat]
  else if off = 0x50 then regOf [fld 0 (saveFree v)]
  else if 0x100 ≤ off && off < 0x180 && off % 8 = 0 then regOf [fld 0 ((sget v.qbound 0 ((off - 0x100) / 8)).toNat + 2 ^ 20) ] &&& 0xFFFFFFFF
  else if off = 0x180 then BitVec.ofNat 64 ((v.halts.head?.map (fun h => h.addr)).getD 0)
  else 0

/-- Current drain need of a partition (R396). -/
def drainNeed (s : State) (part : Nat) : Nat :=
  ((s.teams.filter (fun t => s.partOfVf t.vf == some part)).map (imageUnits s)).foldl (· + ·) 0

/-- A byte of an MSI-X table as it reads. -/
def msixByte (s : State) (fn a : Nat) : Byte :=
  let b := sget s.hub.msix 0 (fn * 65536 + a)
  if a % 16 = 12 then b ^^^ 1 else b

/-- Bytes of an access at an offset of an MSI-X table: eight, or the DWORD at an odd multiple of four. [PRESUMED, log entry 25] -/
def msixSpan (a : Nat) : List Nat := List.range (if a % 8 = 4 then 4 else 8)

/-- Bytes of an MSI-X table (R421, R423). -/
def msixRead (s : State) (fn a : Nat) : Word64 := BitVec.ofNat 64 (ofBytes ((msixSpan a).map (fun i => msixByte s fn (a + i))))

/-- Eight bytes of a pending bit array. -/
def pbaRead (s : State) (fn a : Nat) : Word64 :=
  maskOf ((List.range 64).filter (fun i => sget s.hub.pba false (fn * 65536 + 8 * a + i)))

/-- A register of PF BAR0 below 0x1_0000 (R423). -/
def pfRead (s : State) (off : Nat) : Word64 :=
  let h := s.hub
  let p := s.power
  if off = 0x0000 then regOf [fld 32 h.svn.toNat, fld 4 h.bootReason.toNat, fld 0 h.bootState.toNat]
  else if off = 0x0100 then BitVec.ofNat 64 s.gtc
  else if off = 0x0108 then regOf [fld 0 h.gtcSkew.toNat]
  else if off = 0x0110 then regOf [fld 4 h.gtcDie.toNat, fld 0 (b2n h.gtcErr)]
  else if off = 0x0200 then h.snapAt
  else if off = 0x0208 then regOf [fld 1 (b2n h.snapPin), fld 0 (b2n h.armed.isSome)]
  else if off = 0x0210 then regOf [fld 32 h.snapSeq.toNat, fld 0 h.snapLost.toNat]
  else if off = 0x0218 then h.snapTime
  else if off = 0x0300 then regOf [fld 0 p.level.toNat]
  else if off = 0x0308 then
    regOf [fld 48 p.sagcnt.toNat, fld 32 p.meas.toNat, fld 7 p.tstep, fld 6 (b2n p.unmet), fld 0 p.eff.toNat]
  else if off = 0x0310 then regOf [fld 63 (b2n p.drainValid), fld 0 p.drainSize.toNat]
  else if 0x0400 ≤ off && off < 0x0480 && off % 8 = 0 then
    let x := s.part ((off - 0x400) / 8)
    regOf [fld 63 (b2n x.valid), fld 62 (b2n x.prot), fld 59 x.dfloor.toNat, fld 48 x.rsvc.toNat, fld 32 x.age.toNat,
      fld 4 x.baseq.toNat, fld 0 x.log2q.toNat]
  else if 0x0480 ≤ off && off < 0x0500 && off % 8 = 0 then
    let n := (off - 0x480) / 8
    let x := s.part n
    regOf [fld 32 (drainNeed s n), fld 16 (if x.valid then (s.coresOf n).length else 0), fld 4 x.depth.toNat, fld 0 x.state.toNat]
  else if 0x0600 ≤ off && off < 0x0800 && off % 8 = 0 then
    (s.part ((off - 0x600) / 32)).shape.extractLsb' (64 * (off % 32 / 8)) 64
  else if 0x0800 ≤ off && off < 0x0900 then (sget h.froute 0 (off - 0x800)).zeroExtend 64
  else if 0x8000 ≤ off && off < 0x8800 && off % 4 = 0 then msixRead s 0 (off - 0x8000)
  else if 0x9000 ≤ off && off < 0x9010 && off % 8 = 0 then pbaRead s 0 (off - 0x9000)
  else 0

/-- Where a virtual function reaches HUB_SNAP, SNAP_STAT and SNAP_TIME in its BAR0: R394 gives it the registers, and the layout of R402
gives them no offset. [DESIGN CHOICE, log entry 70] -/
def vfHubSnap : Nat := 0x1088
def vfSnapStat : Nat := 0x1090
def vfSnapTime : Nat := 0x1098

/-- A read of BAR0; nothing where the access completes with Unsupported Request: a virtual function's unless the boot is READY,
and, while the package is stopped, every one but those of HUB_BOOT and the PWR_ registers (R419, R427). -/
def regRead (s : State) (fn : HostFn) (off : Nat) : Option Word64 :=
  match fn with
  | .pf =>
    if s.power.stopped && off != 0 && !(0x300 ≤ off && off < 0x318) then none
    else if off < 0x10000 then some (pfRead s off)
    else if off < 0x20000 then some (vdevRead (s.vdev ((off - 0x10000) / 512)) (off % 512))
    else none
  | .vf v =>
    if s.hub.bootState != 1 || s.power.stopped || 128 ≤ v || 0x2000 ≤ off then none
    else if 0x1800 ≤ off && off < 0x18F0 && off % 4 = 0 then some (msixRead s (v + 1) (off - 0x1800))
    else if off = 0x1C00 then some (pbaRead s (v + 1) 0)
    else if off = vfSnapStat then some (pfRead s 0x0210)
    else if off = vfSnapTime then some (pfRead s 0x0218)
    else if off < 0x1000 then some (vdevRead (s.vdev v) off)
    else some 0

/-- The key under which the latch of a die keeps the core cycles that it saw. -/
def cycleKey (die : Nat) : Nat := 2 ^ 20 + die

/-- The key under which the cycles are counted in which the clocks of a quadrant stood still (R405). -/
def stillKey (quad : Nat) : Nat := 2 ^ 21 + quad

/-- The die of a counter's BAR2 offset: 0 to 3, or 4 for the hub (R402). -/
def counterDie (off : Nat) : Nat := if 2 ^ 21 ≤ off then (off - 2 ^ 21) / 4 else if 2 ^ 20 ≤ off then off - 2 ^ 20 else min 4 (off / 0x8000)

/-- The copy of the core cycles of a core: the cycles of its die without those in which the clocks of its quadrant stood still, and none of a
core that harvest has disabled (R18, R392, R405). -/
def coreCycles (s : State) (core : Nat) : Word64 :=
  if s.harvest.contains core then 0
  else sget s.hub.copies 0 (cycleKey (dieOf core)) - sget s.hub.copies 0 (stillKey (quadOf core))

/-- A read of BAR2: the snapshot copies (R392, R402); nothing where the access completes with Unsupported Request: while the package is
stopped, or its boot is not READY (R419, R427). A virtual function reads 0 outside its partition (R394). The live L2_PINBYPASS of a
slice stands behind its copies, as the manual gives it no place (R192). [DESIGN CHOICE, log entry 70] -/
def snapRead (s : State) (fn : HostFn) (off : Nat) : Option Word64 :=
  let q := off / 0x2000
  let cycles := decide (off < 0x20000) && decide (off % 0x2000 < 0x800) && off % 64 = 0
  let live := decide (off < 0x20000) && decide (0x800 ≤ off % 0x2000) && decide (off % 0x2000 < 0xA00) && off % 64 = 40
  let val := if live then sget s.hub.counters 0 (off - 8) else if cycles then coreCycles s (32 * q + off % 0x2000 / 64) else sget s.hub.copies 0 off
  if s.power.stopped || s.hub.bootState != 1 then none
  else
    match fn with
    | .pf => some val
    | .vf v => some (if q < 16 && (s.partOfVf v).isSome && s.partOfQuad q == s.partOfVf v then val else 0)

/-! Snapshots (R393). -/

/-- A trigger arms a latch at T, or is dropped while one is armed (R393). -/
def armSnap (s : State) (t : Nat) : State :=
  if s.hub.armed.isSome then
    { s with hub := { s.hub with snapLost := if s.hub.snapLost == 0xFFFF then 0xFFFF else s.hub.snapLost + 1 } }
  else { s with hub := { s.hub with armed := some t, latched := 0 } }

/-- SNAP_AT_WRITE (R393, R394). -/
def execSnapAtWrite (t : Word64) (s : State) : Host.Outcome State Fault Refusal :=
  unlessStopped s (armSnap { s with hub := { s.hub with snapAt := t } } (max t.toNat (s.gtc + 256)))

/-- HUB_SNAP_GO (R393). -/
def execHubSnapGo (s : State) : Host.Outcome State Fault Refusal := unlessStopped s (armSnap s (s.gtc + 256))

/-- SNAP_PIN (R393): with PIN = 1. -/
def execSnapPin (s : State) : Host.Outcome State Fault Refusal := unlessStopped s (if s.hub.snapPin then armSnap s (s.gtc + 256) else s)

/-- The dies, 4 for the hub, whose own GTC goes past T with the next tick and that have not taken the latch yet (R393). [DEDUCED, log
entry 75] -/
def latchDue (s : State) (t : Nat) : List Nat :=
  (List.range 5).filter (fun d => !bitOf s.hub.latched d && decide (t < if d = 4 then s.gtc + 1 else s.timeNext d))

/-- SNAPSHOT_LATCH (R393): the blocks of each die, and the hub, copy their counters at the end of the tick in which their own GTC
equals T, or of the last one before it where a follower's GTC passes over T; with the last of them the latch has been taken. [DEDUCED, log entry 75] -/
def execSnapshotLatch (s : State) : Host.Outcome State Fault Refusal :=
  .next (
    match s.hub.armed with
    | none => s
    | some t =>
      let dies := latchDue s t
      let here := fun (e : Nat × Word64) => dies.contains (counterDie e.1)
      let copies := ssetAll (s.hub.copies.filter (fun e => !here e)) 0 (s.hub.counters.filter here)
      let copies := ssetAll copies 0 (dies.map (fun d => (cycleKey d, BitVec.ofNat 64 s.cycle)))
      let latched := dies.foldl (fun m d => m + 2 ^ d) s.hub.latched
      let s := { s with hub := { s.hub with copies := copies, latched := latched } }
      if latched = 31 then
        { s with hub := { s.hub with armed := none, latched := 0, snapSeq := s.hub.snapSeq + 1, snapTime := BitVec.ofNat 64 t } }.signal 0 17
      else s)

/-! Writes of registers (R5). -/

/-- Nibbles 7 to 15 of a policy word are stored as 6 (R401). -/
def policyWord (x : Word64) : Word64 :=
  BitVec.ofNat 64 (pack ((List.range 16).map (fun n => (4 * n, min 6 (x.toNat / 16 ^ n % 16)))))

/-- What a meaning without a stop leaves. -/
def ended (o : Host.Outcome State Fault Refusal) (s : State) : State := match o with | .next t => t | _ => s

/-- A write of VDEV_CTL (R400, R401). -/
def writeVdevCtl (s : State) (v : Nat) (x : Word64) (pf : Bool) : State :=
  let s := s.modVDev v (fun d => { d with
    idle := x.extractLsb' 8 4, wclass := if pf && !d.bind then x.extractLsb' 0 2 else d.wclass })
  if !pf then s
  else if x.getLsbD 63 then ended (execBind v s) s
  else ended (execUnbind v s) s

/-- A write of a VDEV_ register (R401, R402, R468). Fields marked PF are written by the physical function alone. [DEDUCED, log entry 70] -/
def vdevWrite (s : State) (v off : Nat) (x : Word64) (pf : Bool) : State :=
  let free := pf && !(s.vdev v).bind
  if off = 0x00 then writeVdevCtl s v x pf
  else if off = 0x10 then (if x.getLsbD 0 then ended (execCollapse v s) s else s)
  else if off = 0x18 then beginWake s v
  else if off = 0x20 then s.modVDev v (fun d => { d with root := x.extractLsb' 14 38 })
  else if off = 0x28 then s.modVDev v (fun d => { d with contain0 := policyWord x })
  else if off = 0x30 then s.modVDev v (fun d => { d with contain1 := policyWord x })
  else if off = 0x38 then
    (if x.getLsbD 63 then s.modVDev v (fun d => { d with qerrV := false, qerrQueue := 0, qerrOp := 0, qerrReason := 0 }) else s)
  else if off = 0x40 then (if free then s.modVDev v (fun d => { d with save := x.extractLsb' 16 36 }) else s)
  else if off = 0x48 then (if free then s.modVDev v (fun d => { d with savesz := x.extractLsb' 0 32 }) else s)
  else if 0x100 ≤ off && off < 0x180 && off % 8 = 0 then
    s.modVDev v (fun d => { d with qbound := sset d.qbound 0 ((off - 0x100) / 8) (x.extractLsb' 0 32 - 0x100000) })
  else if off = 0x188 then
    (match x.toNat % 4 with
      | 1 => ended (execResume v s) s
      | 2 => ended (execResumeSkip v s) s
      | 3 => ended (execKill v s) s
      | _ => s)
  else s

/-- Bytes written to an MSI-X table, eight or a DWORD; a pending vector that is no longer masked is signalled (R421, R422). [PRESUMED, log entry 25] -/
def msixWrite (s : State) (fn a : Nat) (x : Word64) : State :=
  let put := fun (m : Mem) (i : Nat) =>
    let b := x.extractLsb' (8 * i) 8
    sset m 0 (fn * 65536 + a + i) (if (a + i) % 16 = 12 then b ^^^ 1 else b)
  let s := { s with hub := { s.hub with msix := (msixSpan a).foldl put s.hub.msix } }
  let vec := a / 16
  if sget s.hub.pba false (fn * 65536 + vec) && (sget s.hub.msix 0 (fn * 65536 + 16 * vec + 12)).getLsbD 0 then
    { s with hub := { s.hub with pba := sset s.hub.pba false (fn * 65536 + vec) false } }.signal fn vec
  else s

/-- A write of a PF BAR0 register below 0x1_0000 (R423). [DEDUCED, log entry 70] -/
def pfWrite (s : State) (off : Nat) (x : Word64) : State :=
  if off = 0x0000 then (if x.getLsbD 63 then ended (execReboot s) s else s)
  else if off = 0x0008 then (if x.getLsbD 0 then ended (execHubSnapGo s) s else s)
  else if off = 0x0110 then (if x.getLsbD 0 then { s with hub := { s.hub with gtcErr := false, gtcDie := 0 } } else s)
  else if off = 0x0200 then ended (execSnapAtWrite x s) s
  else if off = 0x0208 then { s with hub := { s.hub with snapPin := x.getLsbD 1 } }
  else if off = 0x0210 then (if x.extractLsb' 0 16 = 0 then s else { s with hub := { s.hub with snapLost := 0 } })
  else if off = 0x0300 then ended (execPowerStepCommand (x.extractLsb' 0 3) s) s
  else if off = 0x0308 then (if x.getLsbD 6 then { s with power := { s.power with unmet := false } } else s)
  else if off = 0x0310 then (if x.getLsbD 63 then ended (execDrainDiscard s) s else s)
  else if 0x0400 ≤ off && off < 0x0480 && off % 8 = 0 then writePartCfg s ((off - 0x400) / 8) x
  else if off = 0x0500 then ((List.range 16).filter (fun n => x.getLsbD n)).foldl (fun s n => ended (execPartitionReset n s) s) s
  else if 0x0800 ≤ off && off < 0x0900 then { s with hub := { s.hub with froute := sset s.hub.froute 0 (off - 0x800) (x.extractLsb' 0 8) } }
  else if 0x8000 ≤ off && off < 0x8800 && off % 4 = 0 then msixWrite s 0 (off - 0x8000) x
  else s

/-- REGISTER_WRITE (R5): a write at a BAR0 offset, by the access codes of the register there; a write that R419 or R427 turns away,
and one to any other offset, changes nothing. A doorbell wakes its device (R407). [DEDUCED, log entry 70] -/
def execRegisterWrite (fn : HostFn) (off : Nat) (value : Word64) (s : State) : Host.Outcome State Fault Refusal :=
  .next (
    if s.power.stopped then s
    else
      match fn with
      | .pf =>
        if off < 0x10000 then pfWrite s off value
        else if off < 0x20000 then vdevWrite s ((off - 0x10000) / 512) (off % 512) value true
        else s
      | .vf v =>
        if s.hub.bootState != 1 || 128 ≤ v then s
        else if off = vfHubSnap then pfWrite s 0x0008 value
        else if off = vfSnapStat then pfWrite s 0x0210 value
        else if 0x1000 ≤ off && off < 0x1080 && off % 8 = 0 then (if (s.vdev v).bind then beginWake s v else s)
        else if 0x1800 ≤ off && off < 0x18F0 && off % 4 = 0 then msixWrite s (v + 1) (off - 0x1800) value
        else if off < 0x1000 then vdevWrite s v off value false
        else s)

/-! Device memory through BAR4, and peers (R184, R225, R407, R421, R424, R428). -/

/-- Where a host access goes. -/
inductive HostPlace where
  /-- Unsupported Request. -/
  | none
  /-- The board flash, while the boot has failed. -/
  | flash (a : Nat)
  /-- Held while the partition wakes. -/
  | held (part : Nat)
  | mem (pa : Nat)
  deriving DecidableEq, Repr

/-- Bytes of a partition's device memory (R183, R184, R398, R407). [DEDUCED, log entry 69] -/
def partPlace (s : State) (part : Option Nat) (pa n : Nat) : HostPlace :=
  match part with
  | none => .none
  | some p =>
    if n = 0 || (List.range n).any (fun i => noMemory (pa + i) || s.partOfQuad (stackOf (pa + i)) != some p) || (s.part p).state == 2 then .none
    else if (s.part p).state == 3 && 2 ≤ (s.part p).depth then .held p
    else .mem pa

/-- The place of a BAR4 access (R421, R427, R428). [DEDUCED, log entry 69] -/
def hostPlace (s : State) (fn : HostFn) (off n : Nat) : HostPlace :=
  if s.power.stopped then .none
  else
    match fn with
    | .pf =>
      if s.hub.bootState == 2 then (if off + n ≤ 2 ^ 26 then .flash off else .none)
      else if s.hub.bootState != 1 then .none
      else partPlace s (s.partOfQuad (stackOf off)) off n
    | .vf v =>
      match if s.hub.bootState == 1 && v < 128 then s.partOfVf v else .none with
      | none => .none
      | some p => partPlace s (some p) (off + (s.part p).baseq.toNat * 2 ^ 36) n

/-- The reply to a host or peer: 0 with its bytes, or 1 for one that fails. -/
def answerHost (s : State) (status : Nat) (b : List Byte) : State :=
  { s with hub := { s.hub with hostOut := s.hub.hostOut ++ [(status, b)] } }

/-- A read served at its home (R192, R209, R225). A held error fails it (R465). [DEDUCED, log entry 69] -/
def serveRead (s : State) (pa n : Nat) : State :=
  let s := l2TouchAll (n / 128 + 2) s pa n
  if hasErr s pa n then answerHost s 1 [] else answerHost s 0 (readBytes s.mem pa n)

/-- A write of the host or a peer: it reaches its home sector by sector (R192, R208, R225). [DEDUCED, log entry 19] -/
def serveWrite (s : State) (pa : Nat) (b : List Byte) : State :=
  (sectorCuts (b.length + 1) pa b).foldl (fun s c => (arrive s c.1 c.2 pathLane .host).2) (l2TouchAll (b.length / 128 + 2) s pa b.length)

/-- HOST_BAR4_READ (R225, R421): held, the devices waking, at a partition gated at W2 or W3 (R407). -/
def execHostBar4Read (fn : HostFn) (off n : Nat) (s : State) : Host.Outcome State Fault Refusal :=
  .next (
    match hostPlace s fn off n with
    | .none => answerHost s 1 []
    | .flash _ => answerHost s 1 []
    | .held p => (wakeFor s p).getD s
    | .mem pa => serveRead s pa n)

/-- HOST_BAR4_WRITE (R225, R421, R428). -/
def execHostBar4Write (fn : HostFn) (off : Nat) (bytes : List Byte) (s : State) : Host.Outcome State Fault Refusal :=
  .next (
    match hostPlace s fn off bytes.length with
    | .none => answerHost s 1 []
    | .flash a => { s with hub := { s.hub with flash := writeBytes s.hub.flash a bytes } }
    | .held p => (wakeFor s p).getD s
    | .mem pa => serveWrite s pa bytes)

/-- A host AtomicOp at its home Ant (R225): 32 or 64 bits, aligned; it answers the value before. -/
def hostAtomic (fn : HostFn) (off bits : Nat) (f : Nat → Nat) (s : State) : State :=
  if bits != 32 && bits != 64 || off % (bits / 8) != 0 then answerHost s 1 []
  else
    match hostPlace s fn off (bits / 8) with
    | .held p => (wakeFor s p).getD s
    | .mem pa =>
      match antWord s pa (bits / 8) .host f with
      | (some (old, _), s) => answerHost s 0 old
      | (none, s) => answerHost s 1 []
    | _ => answerHost s 1 []

/-- HOST_FETCHADD (R225). -/
def execHostFetchadd (fn : HostFn) (off bits : Nat) (v : Word64) (s : State) : Host.Outcome State Fault Refusal :=
  .next (hostAtomic fn off bits (fun m => (m + v.toNat) % 2 ^ bits) s)

/-- HOST_SWAP (R225). -/
def execHostSwap (fn : HostFn) (off bits : Nat) (v : Word64) (s : State) : Host.Outcome State Fault Refusal :=
  .next (hostAtomic fn off bits (fun _ => v.toNat % 2 ^ bits) s)

/-- HOST_CAS (R225): a 128-bit one completes with Unsupported Request and changes nothing. -/
def execHostCas (fn : HostFn) (off bits : Nat) (cmp v : Word64) (s : State) : Host.Outcome State Fault Refusal :=
  .next (hostAtomic fn off bits (fun m => if m = cmp.toNat % 2 ^ bits then v.toNat % 2 ^ bits else m) s)

/-- An atomic of a peer at its home Ant, which answers the value before: of 4 or 8 bytes, aligned (R302 to R304, R307). -/
def peerAtomic (s : State) (pa : Nat) (b : List Byte) (a : PeerAtom) : State :=
  let n := b.length
  if n != 4 && n != 8 || pa % n != 0 then answerHost s 1 []
  else
    match antWord s pa n .host (fun m => antApply a.sub.toNat a.typ n m (ofBytes b) (ofBytes a.cmp)) with
    | (some (old, _), s) => answerHost s 0 old
    | (none, s) => answerHost s 1 []

/-- The bytes that a peer's request covers. -/
def askBytes (n : Nat) : PeerAsk → Nat
  | .read => n
  | .write b => b.length
  | .atomic b _ => b.length

/-- PEER_REQUEST (R183, R307, R424): a read of `n` bytes, a write, or an atomic with its operand, checked against the destination partition. -/
def execPeerRequest (part addr n : Nat) (ask : PeerAsk) (s : State) : Host.Outcome State Fault Refusal :=
  .next (
    let p := if decide (part < 16) && (s.part part).valid then some part else none
    match if s.hub.bootState == 1 && !s.power.stopped then partPlace s p addr (askBytes n ask) else .none with
    | .mem pa =>
      (match ask with
        | .read => serveRead s pa n
        | .write b => serveWrite s pa b
        | .atomic b a => peerAtomic s pa b a)
    | .held q => (wakeFor s q).getD s
    | _ => answerHost s 1 [])

/-! Links (R424 to R426). -/

/-- FABRIC_PORT_DOWN (R425): the port is up again within 300 ms. -/
def execFabricPortDown (port : Nat) (s : State) : Host.Outcome State Fault Refusal :=
  .next (
    if 18 ≤ port then s
    else
      let (t, s) := s.within (300 * ms)
      s.modPort port (fun p => { p with down := true, upAt := t }))

/-- Every store that a partition has sent on a port is delivered: the unanswered tokens of the port are answered (R391). -/
def deliverPort (s : State) (port part : Nat) : State :=
  let all : Token := { id := 0, flush := false, port := port, part := part, count := 0, behind := s.outStores.length, ready := 0 }
  (s.tokens.filter (fun t => t.port == port && t.part == part && !t.flush)).foldl tokenAnswered (tokenAnswered s all)

/-- FABRIC_PORT_RETRAIN (R391, R425): replay delivers every store already sent, the counts start again from 0, and what was held goes
on. [DEDUCED, log entry 72] -/
def execFabricPortRetrain (port : Nat) (s : State) : Host.Outcome State Fault Refusal :=
  .next (
    if 18 ≤ port then s
    else
      let s := (List.range 16).foldl (fun s n => deliverPort s port n) s
      flushPort (s.modPort port (fun p => { p with down := false, upAt := 0, sent := [], covered := [], token := [] })) port)

/-- The ports of a partition have retrained after a wake from W3: replay has delivered its stores, and its counts start again from 0 (R391,
R407). [DEDUCED, log entry 72] -/
def portsUp (s : State) (part : Nat) : State :=
  let up := (List.range 18).filter (fun n => !(s.port n).down)
  let zero := fun (q : Port) => { q with sent := sset q.sent 0 part 0, covered := sset q.covered 0 part 0, token := sset q.token 0 part 0 }
  let s := up.foldl (fun s n => (deliverPort s n part).modPort n zero) s
  s.modPart part (fun p => { p with retrainAt := 0 })

/-- Every active or gated partition that holds a quadrant of a die in a list is reset (R379, R398, R426). -/
def resetDies (s : State) (dies : List Nat) : State :=
  (List.range 16).foldl (fun s n =>
    let p := s.part n
    let on := (List.range 16).any (fun q => dies.contains (q / 4) && s.partOfQuad q == some n)
    if on && (p.state == 1 || p.state == 3) then resetPart s n false else s) s

/-- FUTOR_LINK_ERROR (R426). -/
def execFutorLinkError (die0 die1 : Nat) (s : State) : Host.Outcome State Fault Refusal :=
  .next ((resetDies s [die0, die1]).signal 0 0)

/-! The GTC (R377 to R379). -/

/-- A signed 4-bit field of an offset, held to −8 to 7. -/
def ofsField (x : Int) : Nat := ((max (-8) (min 7 x)) % 16).toNat

/-- GTC_MEASURE (R378, R379): the offsets of the four followers. One that is found more than 1 tick from the master is realigned, and the
partitions of its die are reset; the others read as they stand, and go on to the offset that comes with the step. [DESIGN CHOICE, log
entry 13] -/
def execGtcMeasure (offsets : List Int) (s : State) : Host.Outcome State Fault Refusal :=
  .next (
    let l := (List.range 4).map (fun d => offsets.getD d 0)
    let bad := (List.range 4).filter (fun d => l.getD d 0 < -1 || 1 < l.getD d 0)
    let goal := l.map (fun x => if x < -1 || 1 < x then 0 else x)
    let found := fun (d : Nat) => if bad.contains d then l.getD d 0 else s.skew.getD d 0
    let skew := BitVec.ofNat 16 (pack ((List.range 4).map (fun d => (4 * d, ofsField (found d)))))
    let s := { s with skewGoal := goal, hub := { s.hub with gtcSkew := skew, lastMeasure := s.gtc } }
    if bad.isEmpty then s
    else
      let dies := BitVec.ofNat 4 (bad.foldl (fun a d => a ||| 2 ^ d) 0)
      (resetDies { s with hub := { s.hub with gtcErr := true, gtcDie := s.hub.gtcDie ||| dies } } bad).signal 0 0)

/-! Attestation (R429). The codes of requests and responses are those of the SPDM 1.2 standard [PRESUMED, log entry 10]. -/

/-- A response sent over DOE: version, code, two parameters, body. [PRESUMED, log entry 10] -/
def spdmSend (s : State) (version code p1 p2 : Byte) (body : List Byte) : State :=
  { s with hub := { s.hub with doe := s.hub.doe ++ [[version, code, p1, p2] ++ body] } }

/-- A response whose body the manual does not give. [PRESUMED, log entry 10] -/
def spdmOpen (s : State) (code : Byte) : State :=
  { spdmSend s 0x12 code 0 0 (Config.spdmBody s.fresh) with fresh := s.fresh + 1 }

/-- DOE answers while the package is not stopped (R419, R427). -/
def doeWord (s : State) (f : State) : Host.Outcome State Fault Refusal := .next (if s.power.stopped then s else f)

/-- GET_VERSION (R429): version 1.2. [PRESUMED, log entry 10] -/
def execGetVersion (s : State) : Host.Outcome State Fault Refusal := doeWord s (spdmSend s 0x10 0x04 0 0 [0, 1, 0x00, 0x12])
/-- GET_CAPABILITIES (R429). -/
def execGetCapabilities (s : State) : Host.Outcome State Fault Refusal := doeWord s (spdmOpen s 0x61)
/-- NEGOTIATE_ALGORITHMS (R429). -/
def execNegotiateAlgorithms (s : State) : Host.Outcome State Fault Refusal := doeWord s (spdmOpen s 0x63)
/-- GET_DIGESTS (R429). -/
def execGetDigests (s : State) : Host.Outcome State Fault Refusal := doeWord s (spdmOpen s 0x01)
/-- GET_CERTIFICATE (R429). -/
def execGetCertificate (s : State) : Host.Outcome State Fault Refusal := doeWord s (spdmOpen s 0x02)
/-- A response signed with the device key: its body, and the 96 bytes of the ECDSA P-384 signature over it (R429), whose value is free.
[PRESUMED, log entry 10] -/
def spdmSigned (s : State) (code p1 p2 : Byte) (body : List Byte) : State :=
  { spdmSend s 0x12 code p1 p2 (body ++ toBytes 96 (Config.sign s.hub.key body s.fresh)) with fresh := s.fresh + 1 }

/-- CHALLENGE (R429): the nonce, what the manual leaves to the standard, and the signature. [PRESUMED, log entry 10] -/
def execChallenge (nonce : Nat) (s : State) : Host.Outcome State Fault Refusal :=
  doeWord s (spdmSigned { s with fresh := s.fresh + 1 } 0x03 0 0 (toBytes 32 nonce ++ Config.spdmBody s.fresh))

/-- Measurement values (R429): 1 the image digest, 2 the fused key hashes and minimum version, 3 the PART_CFG values of every
valid partition. -/
def measurement (s : State) (index : Nat) : List Byte :=
  match index with
  | 1 => Config.imageDigest s.hub.flash
  | 2 => Config.fusedHashes ++ [Config.minSvn]
  | 3 => ((List.range 16).filter (fun n => (s.part n).valid)).flatMap (fun n => toBytes 8 (pfRead s (0x400 + 8 * n)).toNat)
  | _ => []

/-- GET_MEASUREMENTS (R429): index 0 asks for their number, 255 for all, as the standard has it; a request with a nonce asks for a signature,
which covers the nonce too. [PRESUMED, log entry 10] -/
def execGetMeasurements (ask : MeasureAsk) (s : State) : Host.Outcome State Fault Refusal :=
  let n : Byte := if ask.index = 0 then 3 else 0
  let body := if ask.index = 0 then [] else if ask.index = 255 then [1, 2, 3].flatMap (measurement s) else measurement s ask.index
  doeWord s (
    match ask.nonce with
    | none => spdmSend s 0x12 0x60 n 0 body
    | some x => spdmSigned s 0x60 n 0 (body ++ toBytes 32 x))

/-! The side port (R430). It answers at every level and while the package is stopped (R419). -/

/-- A reply on the side port. -/
def sideReply (s : State) (b : List Byte) : State := { s with hub := { s.hub with sideOut := s.hub.sideOut ++ [b] } }

/-- SIDE_READ_TEMPERATURE (R430): the five dies, hub last; the temperatures come with the step. [DESIGN CHOICE, log entry 11] -/
def execSideReadTemperature (temps : List Byte) (s : State) : Host.Outcome State Fault Refusal :=
  .next (sideReply s ((List.range 5).map (fun i => temps.getD i 0)))
/-- SIDE_READ_POWER (R430). -/
def execSideReadPower (s : State) : Host.Outcome State Fault Refusal := .next (sideReply s (toBytes 2 s.power.meas.toNat))
/-- SIDE_READ_LEVEL (R430). -/
def execSideReadLevel (s : State) : Host.Outcome State Fault Refusal := .next (sideReply s (toBytes 1 s.power.eff.toNat))
/-- SIDE_READ_PORT_LEVEL (R430). -/
def execSideReadPortLevel (s : State) : Host.Outcome State Fault Refusal := .next (sideReply s (toBytes 1 s.power.side.toNat))

/-! Errors (R465). -/

/-- UNCORRECTABLE_ERROR (R465): a sector of device memory, by the address of a byte of it, or a scratchpad word of a team. -/
def execUncorrectableError (place : ErrorPlace) (addr : Nat) (s : State) : Host.Outcome State Fault Refusal :=
  .next (
    match place with
    | .device => if noMemory addr then s else poison s (addr / 16)
    | .scratch team => s.modTeam team (fun t => { t with errs := if addr < 2 ^ 19 then insertNat (addr / 8) t.errs else t.errs }))

end Sys2Proof.Machine
end

