-- ==== Sys2Proof/Machine/Horizon.lean ====
section
/-! DEFINITION. What a group was waiting for comes about: a horizon is reached, tokens are answered, operations may go on (R196, R197,
R213 to R217, R221, R322, R345 to R349, R386). -/

namespace Sys2Proof.Machine

/-- The action that waited for tick `t`, at the issue position. -/
def reached (t : Nat) (act : HorizonAct) (s : State) : State :=
  match act with
  | .fence => fenceEnd t s
  | .xfence p differ => xfenceEnd t p differ s
  | .barEnd b => s.onCur (fun g => g.endBarWait s.cycle (s.timeOf g) 0 b)
  | .qpush a b nb => qpushEnd a b nb s
  | .yield a => yieldEnd a (s.cur.pc + 1) s
  | .sleepYield a => yieldEnd a s.cur.pc s
  | .tend => tendEnd s
  | .scopeClose a => scopeCloseEnd a s
  | .access => s

/-- The action goes on while a fault of the group is open: the wait of a word that had begun before it (R371, R380). A task word does
not. [DEDUCED, log entry 38] -/
def HorizonAct.goesOn : HorizonAct → Bool
  | .yield _ => false | .sleepYield _ => false | .tend => false | .scopeClose _ => false
  | .fence => true | .xfence _ _ => true | .barEnd _ => true | .qpush _ _ _ => true | .access => true

/-- The group's wait is over: its tick has come, or its tokens have been answered. -/
def waitOver (s : State) (g : Group) : Bool :=
  match g.stall with
  | .horizon t act => decide (t ≤ s.timeOf g) && decide (g.sready ≤ s.cycle) && (act.goesOn || !g.stopped)
  | .fenceSys ids => answered s ids
  | _ => false

/-- The words that a group's lanes wait on. -/
def waitedWords (s : State) (gid : Nat) : List Nat :=
  (s.ops.filter (fun o => o.gid == gid)).flatMap (fun o => o.lanes.flatMap (fun l =>
    match l.stage with
    | .feWait _ _ => wordsOf l.ea.toNat o.nbytes
    | _ => []))

/-- HORIZON_TIME_REACHED (R215 to R217, R221): operations of the group that may go on do, and a scalar word whose tick has come, or whose
tokens have been answered, takes its action. -/
def execHorizonTimeReached (gid : Nat) (s : State) : Host.Outcome State Fault Refusal :=
  .next (
    let s := pump s gid
    match s.group? gid with
    | none => s
    | some g =>
      let s := wakeTeam s g.team (waitedWords s gid)
      if !waitOver s g then s
      else
        let free := (s.focus gid).onCur (fun g => { g with stall := .none })
        match g.stall with
        | .horizon t act => reached t act free
        | .fenceSys _ => fenceWait free true
        | _ => s)

end Sys2Proof.Machine
end

