-- ==== Sys2Proof/Machine/Dispatch.lean ====
section
/-! DEFINITION. One arm per constructor of `Instr`: a direct call of its meaning. -/

namespace Sys2Proof.Machine

open Sys2Proof

def exec (i : Instr) (s : State) : Host.Outcome State Fault Refusal :=
  match i with
  | .add d a b => Sys2Proof.Machine.execAdd d a b s
  | .sub d a b => Sys2Proof.Machine.execSub d a b s
  | .and d a b => Sys2Proof.Machine.execAnd d a b s
  | .or d a b => Sys2Proof.Machine.execOr d a b s
  | .xor d a b => Sys2Proof.Machine.execXor d a b s
  | .andn d a b => Sys2Proof.Machine.execAndn d a b s
  | .shl d a b => Sys2Proof.Machine.execShl d a b s
  | .shr d a b => Sys2Proof.Machine.execShr d a b s
  | .sra d a b => Sys2Proof.Machine.execSra d a b s
  | .min d a b => Sys2Proof.Machine.execMin d a b s
  | .max d a b => Sys2Proof.Machine.execMax d a b s
  | .minn d a b => Sys2Proof.Machine.execMinn d a b s
  | .maxn d a b => Sys2Proof.Machine.execMaxn d a b s
  | .seq d a b => Sys2Proof.Machine.execSeq d a b s
  | .slt d a b => Sys2Proof.Machine.execSlt d a b s
  | .sltn d a b => Sys2Proof.Machine.execSltn d a b s
  | .mul d a b => Sys2Proof.Machine.execMul d a b s
  | .mulh d a b => Sys2Proof.Machine.execMulh d a b s
  | .mulhn d a b => Sys2Proof.Machine.execMulhn d a b s
  | .div d a b => Sys2Proof.Machine.execDiv d a b s
  | .divn d a b => Sys2Proof.Machine.execDivn d a b s
  | .rem d a b => Sys2Proof.Machine.execRem d a b s
  | .remn d a b => Sys2Proof.Machine.execRemn d a b s
  | .popc d a => Sys2Proof.Machine.execPopc d a s
  | .clz d a => Sys2Proof.Machine.execClz d a s
  | .ctz d a => Sys2Proof.Machine.execCtz d a s
  | .sext d a p => Sys2Proof.Machine.execSext d a p s
  | .addi d a imm => Sys2Proof.Machine.execAddi d a imm s
  | .andi d a imm => Sys2Proof.Machine.execAndi d a imm s
  | .ori d a imm => Sys2Proof.Machine.execOri d a imm s
  | .xori d a imm => Sys2Proof.Machine.execXori d a imm s
  | .shli d a imm => Sys2Proof.Machine.execShli d a imm s
  | .shri d a imm => Sys2Proof.Machine.execShri d a imm s
  | .srai d a imm => Sys2Proof.Machine.execSrai d a imm s
  | .slti d a imm => Sys2Proof.Machine.execSlti d a imm s
  | .sltni d a imm => Sys2Proof.Machine.execSltni d a imm s
  | .li d imm => Sys2Proof.Machine.execLi d imm s
  | .lhi d imm => Sys2Proof.Machine.execLhi d imm s
  | .lxi d imm => Sys2Proof.Machine.execLxi d imm s
  | .pcrel d imm => Sys2Proof.Machine.execPcrel d imm s
  | .sld d a imm => Sys2Proof.Machine.execSld d a imm s
  | .sst d a imm => Sys2Proof.Machine.execSst d a imm s
  | .sldp d a imm => Sys2Proof.Machine.execSldp d a imm s
  | .sstp d a imm => Sys2Proof.Machine.execSstp d a imm s
  | .bCc c a imm => Sys2Proof.Machine.execBCc c a imm s
  | .call imm => Sys2Proof.Machine.execCall imm s
  | .jr a => Sys2Proof.Machine.execJr a s
  | .kand d a b => Sys2Proof.Machine.execKand d a b s
  | .kor d a b => Sys2Proof.Machine.execKor d a b s
  | .kxor d a b => Sys2Proof.Machine.execKxor d a b s
  | .kandn d a b => Sys2Proof.Machine.execKandn d a b s
  | .knot d a => Sys2Proof.Machine.execKnot d a s
  | .kmovk d r => Sys2Proof.Machine.execKmovk d r s
  | .kmovs a r => Sys2Proof.Machine.execKmovs a r s
  | .kmovsNw a r => Sys2Proof.Machine.execKmovsNw a r s
  | .kpop a r => Sys2Proof.Machine.execKpop a r s
  | .kfirst a r => Sys2Proof.Machine.execKfirst a r s
  | .kset d => Sys2Proof.Machine.execKset d s
  | .run w l imm => Sys2Proof.Machine.execRun w l imm s
  | .run2 w k a b => Sys2Proof.Machine.execRun2 w k a b s
  | .wait t => Sys2Proof.Machine.execWait t s
  | .sleep a => Sys2Proof.Machine.execSleep a s
  | .cpy a b => Sys2Proof.Machine.execCpy a b s
  | .cpym a b => Sys2Proof.Machine.execCpym a b s
  | .cpyc a b => Sys2Proof.Machine.execCpyc a b s
  | .qpush a b n => Sys2Proof.Machine.execQpush a b n s
  | .qpoll a b => Sys2Proof.Machine.execQpoll a b s
  | .barInit a b => Sys2Proof.Machine.execBarInit a b s
  | .barArr a b => Sys2Proof.Machine.execBarArr a b s
  | .barExp a b => Sys2Proof.Machine.execBarExp a b s
  | .barWait a b => Sys2Proof.Machine.execBarWait a b s
  | .ffaLdj a b => Sys2Proof.Machine.execFfaLdj a b s
  | .ffaLdh a b => Sys2Proof.Machine.execFfaLdh a b s
  | .ffaLdc a => Sys2Proof.Machine.execFfaLdc a s
  | .ffaClamp a b => Sys2Proof.Machine.execFfaClamp a b s
  | .ffaBeta a => Sys2Proof.Machine.execFfaBeta a s
  | .ffaMode a b => Sys2Proof.Machine.execFfaMode a b s
  | .ffaSweep a b => Sys2Proof.Machine.execFfaSweep a b s
  | .ffaRdc a b => Sys2Proof.Machine.execFfaRdc a b s
  | .ffaRds a => Sys2Proof.Machine.execFfaRds a s
  | .ffaZc a => Sys2Proof.Machine.execFfaZc a s
  | .ffaBnd a b => Sys2Proof.Machine.execFfaBnd a b s
  | .ffaHs a => Sys2Proof.Machine.execFfaHs a s
  | .spawn a b => Sys2Proof.Machine.execSpawn a b s
  | .yield a => Sys2Proof.Machine.execYield a s
  | .tend => Sys2Proof.Machine.execTend s
  | .scopeOpen => Sys2Proof.Machine.execScopeOpen s
  | .scopeClose a => Sys2Proof.Machine.execScopeClose a s
  | .vaddr a b => Sys2Proof.Machine.execVaddr a b s
  | .nop => Sys2Proof.Machine.execNop s
  | .rdsr a b => Sys2Proof.Machine.execRdsr a b s
  | .wrsr a b => Sys2Proof.Machine.execWrsr a b s
  | .rdgtc a => Sys2Proof.Machine.execRdgtc a s
  | .fence r => Sys2Proof.Machine.execFence r s
  | .xfence q p => Sys2Proof.Machine.execXfence q p s
  | .trap a c => Sys2Proof.Machine.execTrap a c s
  | .brk c => Sys2Proof.Machine.execBrk c s
  | .exit => Sys2Proof.Machine.execExit s
  | .iadd w => Sys2Proof.Machine.execIadd w s
  | .isub w => Sys2Proof.Machine.execIsub w s
  | .imul w => Sys2Proof.Machine.execImul w s
  | .imulh w => Sys2Proof.Machine.execImulh w s
  | .imad w => Sys2Proof.Machine.execImad w s
  | .idiv w => Sys2Proof.Machine.execIdiv w s
  | .irem w => Sys2Proof.Machine.execIrem w s
  | .iabs w => Sys2Proof.Machine.execIabs w s
  | .imin w => Sys2Proof.Machine.execImin w s
  | .imax w => Sys2Proof.Machine.execImax w s
  | .laneAnd w => Sys2Proof.Machine.execLaneAnd w s
  | .laneOr w => Sys2Proof.Machine.execLaneOr w s
  | .laneXor w => Sys2Proof.Machine.execLaneXor w s
  | .not w => Sys2Proof.Machine.execNot w s
  | .laneShl w => Sys2Proof.Machine.execLaneShl w s
  | .laneShr w => Sys2Proof.Machine.execLaneShr w s
  | .laneSra w => Sys2Proof.Machine.execLaneSra w s
  | .lanePopc w => Sys2Proof.Machine.execLanePopc w s
  | .laneClz w => Sys2Proof.Machine.execLaneClz w s
  | .bfe w => Sys2Proof.Machine.execBfe w s
  | .bfi w => Sys2Proof.Machine.execBfi w s
  | .mov w => Sys2Proof.Machine.execMov w s
  | .movs w => Sys2Proof.Machine.execMovs w s
  | .laneLi w => Sys2Proof.Machine.execLaneLi w s
  | .fadd w => Sys2Proof.Machine.execFadd w s
  | .fsub w => Sys2Proof.Machine.execFsub w s
  | .fmul w => Sys2Proof.Machine.execFmul w s
  | .ffma w => Sys2Proof.Machine.execFfma w s
  | .fmin w => Sys2Proof.Machine.execFmin w s
  | .fmax w => Sys2Proof.Machine.execFmax w s
  | .fdiv w => Sys2Proof.Machine.execFdiv w s
  | .fsqrt w => Sys2Proof.Machine.execFsqrt w s
  | .frcp w => Sys2Proof.Machine.execFrcp w s
  | .frsq w => Sys2Proof.Machine.execFrsq w s
  | .fex2 w => Sys2Proof.Machine.execFex2 w s
  | .flg2 w => Sys2Proof.Machine.execFlg2 w s
  | .fsin w => Sys2Proof.Machine.execFsin w s
  | .fcos w => Sys2Proof.Machine.execFcos w s
  | .ftanh w => Sys2Proof.Machine.execFtanh w s
  | .hadd w => Sys2Proof.Machine.execHadd w s
  | .hmul w => Sys2Proof.Machine.execHmul w s
  | .hfma w => Sys2Proof.Machine.execHfma w s
  | .hmin w => Sys2Proof.Machine.execHmin w s
  | .hmax w => Sys2Proof.Machine.execHmax w s
  | .cvt w => Sys2Proof.Machine.execCvt w s
  | .qnt w => Sys2Proof.Machine.execQnt w s
  | .dqn w => Sys2Proof.Machine.execDqn w s
  | .pk6 w => Sys2Proof.Machine.execPk6 w s
  | .up6 w => Sys2Proof.Machine.execUp6 w s
  | .pk4 w => Sys2Proof.Machine.execPk4 w s
  | .up4 w => Sys2Proof.Machine.execUp4 w s
  | .icmp w => Sys2Proof.Machine.execIcmp w s
  | .fcmp w => Sys2Proof.Machine.execFcmp w s
  | .sel w => Sys2Proof.Machine.execSel w s
  | .kwr w => Sys2Proof.Machine.execKwr w s
  | .shfl w => Sys2Proof.Machine.execShfl w s
  | .bcast w => Sys2Proof.Machine.execBcast w s
  | .vote w => Sys2Proof.Machine.execVote w s
  | .radd w => Sys2Proof.Machine.execRadd w s
  | .rmin w => Sys2Proof.Machine.execRmin w s
  | .rmax w => Sys2Proof.Machine.execRmax w s
  | .scan w => Sys2Proof.Machine.execScan w s
  | .rdst w => Sys2Proof.Machine.execRdst w s
  | .clst w => Sys2Proof.Machine.execClst w s
  | .ld w => Sys2Proof.Machine.execLd w s
  | .st w => Sys2Proof.Machine.execSt w s
  | .ldF w => Sys2Proof.Machine.execLdF w s
  | .ldFe w => Sys2Proof.Machine.execLdFe w s
  | .stEf w => Sys2Proof.Machine.execStEf w s
  | .stF w => Sys2Proof.Machine.execStF w s
  | .feSet w => Sys2Proof.Machine.execFeSet w s
  | .feClr w => Sys2Proof.Machine.execFeClr w s
  | .feProbe w => Sys2Proof.Machine.execFeProbe w s
  | .pref w => Sys2Proof.Machine.execPref w s
  | .pin w => Sys2Proof.Machine.execPin w s
  | .unpin w => Sys2Proof.Machine.execUnpin w s
  | .lrefill w => Sys2Proof.Machine.execLrefill w s
  | .atom w => Sys2Proof.Machine.execAtom w s
  | .red w => Sys2Proof.Machine.execRed w s
  | .mxQ w => Sys2Proof.Machine.execMxQ w s
  | .mxZero w => Sys2Proof.Machine.execMxZero w s
  | .mxRd w => Sys2Proof.Machine.execMxRd w s
  | .mxWr w => Sys2Proof.Machine.execMxWr w s
  | .mxDrain w => Sys2Proof.Machine.execMxDrain w s
  | .rng w => Sys2Proof.Machine.execRng w s
  | .runFetch g => Sys2Proof.Machine.execRunFetch g s
  | .runStart core => Sys2Proof.Machine.execRunStart core s
  | .fixedLatencyLanding g => Sys2Proof.Machine.execFixedLatencyLanding g s
  | .accessComplete op => Sys2Proof.Machine.execAccessComplete op s
  | .parkedRunResume g => Sys2Proof.Machine.execParkedRunResume g s
  | .issueGrantArm core => Sys2Proof.Machine.execIssueGrantArm core s
  | .lostLocalityWindow core => Sys2Proof.Machine.execLostLocalityWindow core s
  | .homeWriteArrival op lane => Sys2Proof.Machine.execHomeWriteArrival op lane s
  | .writeVisible => Sys2Proof.Machine.execWriteVisible s
  | .homeRead op lane => Sys2Proof.Machine.execHomeRead op lane s
  | .leaseExpiry core region => Sys2Proof.Machine.execLeaseExpiry core region s
  | .pageWalk vf va => Sys2Proof.Machine.execPageWalk vf va s
  | .priResponse vf page granted => Sys2Proof.Machine.execPriResponse vf page granted s
  | .translationInvalidation vf va => Sys2Proof.Machine.execTranslationInvalidation vf va s
  | .feWaitBoundExpiry op => Sys2Proof.Machine.execFeWaitBoundExpiry op s
  | .antRequest op home => Sys2Proof.Machine.execAntRequest op home s
  | .sleepDeadline g => Sys2Proof.Machine.execSleepDeadline g s
  | .barWaitTimeout g => Sys2Proof.Machine.execBarWaitTimeout g s
  | .mxFusionWindowClose req => Sys2Proof.Machine.execMxFusionWindowClose req s
  | .mxGrantArm cluster => Sys2Proof.Machine.execMxGrantArm cluster s
  | .mxPassGrant cluster => Sys2Proof.Machine.execMxPassGrant cluster s
  | .mxPassCommit cluster => Sys2Proof.Machine.execMxPassCommit cluster s
  | .slotPortService req => Sys2Proof.Machine.execSlotPortService req s
  | .ffaCommandPerform team => Sys2Proof.Machine.execFfaCommandPerform team s
  | .ffaSweepPerform team => Sys2Proof.Machine.execFfaSweepPerform team s
  | .boundaryPublication msg => Sys2Proof.Machine.execBoundaryPublication msg s
  | .boundaryWaitExpiry team => Sys2Proof.Machine.execBoundaryWaitExpiry team s
  | .healthWindowClose team count => Sys2Proof.Machine.execHealthWindowClose team count s
  | .tweReceiverWrite cmd receiver => Sys2Proof.Machine.execTweReceiverWrite cmd receiver s
  | .guardWaitExpiry cmd receiver => Sys2Proof.Machine.execGuardWaitExpiry cmd receiver s
  | .tweCommandComplete cmd => Sys2Proof.Machine.execTweCommandComplete cmd s
  | .collectiveCombine cmd => Sys2Proof.Machine.execCollectiveCombine cmd s
  | .collectiveWaitExpiry cmd => Sys2Proof.Machine.execCollectiveWaitExpiry cmd s
  | .qpushBoundExpiry g => Sys2Proof.Machine.execQpushBoundExpiry g s
  | .qpushEntryFreed g => Sys2Proof.Machine.execQpushEntryFreed g s
  | .deferredSubmit grid => Sys2Proof.Machine.execDeferredSubmit grid s
  | .runnerIdleRetry g => Sys2Proof.Machine.execRunnerIdleRetry g s
  | .yieldOperationComplete rec => Sys2Proof.Machine.execYieldOperationComplete rec s
  | .taskWatchdogExpiry g => Sys2Proof.Machine.execTaskWatchdogExpiry g s
  | .mergeTurn turn => Sys2Proof.Machine.execMergeTurn turn s
  | .firmwarePass => Sys2Proof.Machine.execFirmwarePass s
  | .dependencyRecheck part => Sys2Proof.Machine.execDependencyRecheck part s
  | .packetNop pkt => Sys2Proof.Machine.execPacketNop pkt s
  | .signal pkt => Sys2Proof.Machine.execSignal pkt s
  | .launch pkt => Sys2Proof.Machine.execLaunch pkt s
  | .copy pkt => Sys2Proof.Machine.execCopy pkt s
  | .packetWait pkt => Sys2Proof.Machine.execPacketWait pkt s
  | .waitRecheck pkt => Sys2Proof.Machine.execWaitRecheck pkt s
  | .timestamp pkt => Sys2Proof.Machine.execTimestamp pkt s
  | .completionDecrement pkt => Sys2Proof.Machine.execCompletionDecrement pkt s
  | .dispatchRound part => Sys2Proof.Machine.execDispatchRound part s
  | .savePoint g => Sys2Proof.Machine.execSavePoint g s
  | .hostSaveRequest team => Sys2Proof.Machine.execHostSaveRequest team s
  | .resume vf => Sys2Proof.Machine.execResume vf s
  | .resumeSkip vf => Sys2Proof.Machine.execResumeSkip vf s
  | .kill vf => Sys2Proof.Machine.execKill vf s
  | .doorbell vf queue packet => Sys2Proof.Machine.execDoorbell vf queue packet s
  | .bind vf => Sys2Proof.Machine.execBind vf s
  | .unbind vf => Sys2Proof.Machine.execUnbind vf s
  | .collapse vf => Sys2Proof.Machine.execCollapse vf s
  | .idleCollapse vf => Sys2Proof.Machine.execIdleCollapse vf s
  | .collapseComplete vf => Sys2Proof.Machine.execCollapseComplete vf s
  | .wake vf => Sys2Proof.Machine.execWake vf s
  | .wakeComplete vf => Sys2Proof.Machine.execWakeComplete vf s
  | .partitionCreate part value => Sys2Proof.Machine.execPartitionCreate part value s
  | .partitionTeardown part => Sys2Proof.Machine.execPartitionTeardown part s
  | .partitionReset part => Sys2Proof.Machine.execPartitionReset part s
  | .partitionResetComplete part => Sys2Proof.Machine.execPartitionResetComplete part s
  | .registerWrite fn off value => Sys2Proof.Machine.execRegisterWrite fn off value s
  | .hostBar4Read fn off n => Sys2Proof.Machine.execHostBar4Read fn off n s
  | .hostBar4Write fn off bytes => Sys2Proof.Machine.execHostBar4Write fn off bytes s
  | .hostFetchadd fn off bits v => Sys2Proof.Machine.execHostFetchadd fn off bits v s
  | .hostSwap fn off bits v => Sys2Proof.Machine.execHostSwap fn off bits v s
  | .hostCas fn off bits cmp v => Sys2Proof.Machine.execHostCas fn off bits cmp v s
  | .peerRequest part addr n ask => Sys2Proof.Machine.execPeerRequest part addr n ask s
  | .fenceTokenAnswer token => Sys2Proof.Machine.execFenceTokenAnswer token s
  | .flushReadCompletion token => Sys2Proof.Machine.execFlushReadCompletion token s
  | .fabricPortDown port => Sys2Proof.Machine.execFabricPortDown port s
  | .fabricPortRetrain port => Sys2Proof.Machine.execFabricPortRetrain port s
  | .futorLinkError die0 die1 => Sys2Proof.Machine.execFutorLinkError die0 die1 s
  | .gtcMeasure offsets => Sys2Proof.Machine.execGtcMeasure offsets s
  | .snapAtWrite t => Sys2Proof.Machine.execSnapAtWrite t s
  | .hubSnapGo => Sys2Proof.Machine.execHubSnapGo s
  | .snapPin => Sys2Proof.Machine.execSnapPin s
  | .snapshotLatch => Sys2Proof.Machine.execSnapshotLatch s
  | .powerStepCommand level => Sys2Proof.Machine.execPowerStepCommand level s
  | .pstepPins level => Sys2Proof.Machine.execPstepPins level s
  | .powerMeasurement watts => Sys2Proof.Machine.execPowerMeasurement watts s
  | .levelDeadline => Sys2Proof.Machine.execLevelDeadline s
  | .sag => Sys2Proof.Machine.execSag s
  | .sagRecovery => Sys2Proof.Machine.execSagRecovery s
  | .pwrfail ns => Sys2Proof.Machine.execPwrfail ns s
  | .drainComplete railsHeld => Sys2Proof.Machine.execDrainComplete railsHeld s
  | .drainDiscard => Sys2Proof.Machine.execDrainDiscard s
  | .coldReset => Sys2Proof.Machine.execColdReset s
  | .reboot => Sys2Proof.Machine.execReboot s
  | .getVersion => Sys2Proof.Machine.execGetVersion s
  | .getCapabilities => Sys2Proof.Machine.execGetCapabilities s
  | .negotiateAlgorithms => Sys2Proof.Machine.execNegotiateAlgorithms s
  | .getDigests => Sys2Proof.Machine.execGetDigests s
  | .getCertificate => Sys2Proof.Machine.execGetCertificate s
  | .challenge nonce => Sys2Proof.Machine.execChallenge nonce s
  | .getMeasurements ask => Sys2Proof.Machine.execGetMeasurements ask s
  | .sideReadTemperature temps => Sys2Proof.Machine.execSideReadTemperature temps s
  | .sideReadPower => Sys2Proof.Machine.execSideReadPower s
  | .sideReadLevel => Sys2Proof.Machine.execSideReadLevel s
  | .sidePortLevelWrite level => Sys2Proof.Machine.execSidePortLevelWrite level s
  | .sideReadPortLevel => Sys2Proof.Machine.execSideReadPortLevel s
  | .uncorrectableError place addr => Sys2Proof.Machine.execUncorrectableError place addr s
  | .horizonTimeReached g => Sys2Proof.Machine.execHorizonTimeReached g s

end Sys2Proof.Machine
end

