-- ==== Sys2Proof/Machine/Schedule.lean ====
section
/-! DEFINITION. What happens next: the events that are due, the outside world's steps, the starts, the words, and the clock (R4, R19, R24 to
R27, R33 to R41, R103, R104, R291, R298, R377 to R380, R415; the order is the model's: DESIGN CHOICE, log entry 1). -/

namespace Sys2Proof.Machine

/-- What a step does: the machine goes on by itself, or a word or a step of the outside world is executed. -/
inductive Plan where
  | next (s : State)
  | word (i : Instr) (s : State)

/-- The state after an event that has changed something. -/
def fired (s : State) (o : Host.Outcome State Fault Refusal) : Option State :=
  match o with
  | .next t => if t = s then none else some t
  | _ => none

/-! Memory and translation. -/

/-- WRITE_VISIBLE, FIXED_LATENCY_LANDING and MX_PASS_COMMIT: what was set for an instant or a cycle that is over. -/
def dueEnds (s : State) : Option State :=
  if (firstWrite s).isSome then fired s (execWriteVisible s)
  else
    (s.groups.findSome? (fun g => if (dueLanding s g).isSome then fired s (execFixedLatencyLanding g.gid s) else none)) <|>
      s.clusters.findSome? (fun kc => if kc.2.passes.any (fun p => decide (p.commit < s.cycle)) then fired s (execMxPassCommit kc.1 s) else none)

/-- A lane's access at its home, by its kind. -/
def laneEvent (s : State) (o : Op) (l : LaneReq) : Host.Outcome State Fault Refusal :=
  if o.kind.isAtomic then execAntRequest o.id (atomHome l) s
  else if o.kind == .store then execHomeWriteArrival o.id l.lane s
  else execHomeRead o.id l.lane s

/-- What an operation may do now: a walk, an access at a home, its completion. -/
def opEvent (s : State) (o : Op) (g : Group) : Option State :=
  let walkNow := if o.checked || o.held then none else
    (o.lanes.find? (fun l => l.stage == .wait && l.xl == .need)).bind (fun l => fired s (execPageWalk g.vf (BitVec.ofNat 64 l.ea.toNat) s))
  walkNow <|>
    (if o.checked && !inScratch s g o.space then o.lanes.findSome? (fun l => if l.waits then fired s (laneEvent s o l) else none) else none) <|>
    (if o.finished then fired s (execAccessComplete o.id s) else none)

/-- The ticks within which a group reaches its save point after a request (R41). -/
def saveBound : Nat := 3000

/-- The time is up in which the operations of a team under a request to save are settled: what is still on its way is there now (R41, R466). -/
def hurried (s : State) (team : Nat) : Bool :=
  match (s.team? team).bind (·.saving) with
  | some t => decide (t + saveBound ≤ s.gtc)
  | none => false

/-- Operations of resident groups whose tick has come. [DEDUCED, log entry 32] -/
def dueOps (s : State) : Option State :=
  s.ops.findSome? (fun o => (s.group? o.gid).bind (fun g => if s.gtc < o.ready && !hurried s g.team then none else opEvent s o g))

/-- HORIZON_TIME_REACHED of a group that waits for a tick or tokens, or has operations. -/
def pumpEvent (s : State) (g : Group) : Option State :=
  if waitOver s g || s.ops.any (fun o => o.gid == g.gid) then fired s (execHorizonTimeReached g.gid s) else none

/-- Drained octets: the absmax reduction, or the completion (R248, R249). -/
def dueDrains (s : State) : Option State :=
  s.clusters.findSome? (fun kc => kc.2.reqs.findSome? (fun r =>
    let later := match r.since with | some c => decide (s.cycle < c) | none => false
    if r.stage != .finishing || r.held || later then none
    else if r.amax.isSome then fired s (execAntRequest r.id 0 s)
    else fired s (execAccessComplete r.id s)))

/-- Leases that run out, invalidations that nothing uses any more, ports that have retrained, and answers of the far side of a port or of the
host (R186, R211, R222, R223, R391, R407, R425). [DEDUCED, log entry 72] -/
def dueLinks (s : State) : Option State :=
  (s.cores.findSome? (fun kc => kc.2.l1.findSome? (fun b =>
    if !b.stale && decide (b.leaseEnd ≤ s.time (dieOf kc.1) + 2) then fired s (execLeaseExpiry kc.1 b.region s) else none))) <|>
  (s.invals.findSome? (fun e => if usesPage s e.1 e.2.1.toNat e.2.2 then none else fired s (execTranslationInvalidation e.1 e.2.1 s))) <|>
  (s.ports.findSome? (fun kp => if kp.2.down && decide (kp.2.upAt ≤ s.gtc) then fired s (execFabricPortRetrain kp.1 s) else none)) <|>
  (s.parts.findSome? (fun kp => if kp.2.retrainAt != 0 && decide (kp.2.retrainAt ≤ s.gtc) then fired s (.next (portsUp s kp.1)) else none)) <|>
  s.tokens.findSome? (fun t =>
    if s.gtc < t.ready then none
    else if t.flush then fired s (execFlushReadCompletion t.id s) else fired s (execFenceTokenAnswer t.id s))

/-! Engines. -/

/-- The Firefly arrays: the head command, a closed health window, arriving publications (R263, R265, R269, R270). -/
def dueFirefly (s : State) : Option State :=
  (s.teams.findSome? (fun t =>
    match t.ffa with
    | none => none
    | some f =>
      let head := match ffaHead s t.id with
        | none => none
        | some (_, _, c) =>
          match c.kind with
            | .sweep _ => if c.latched.isSome && decide (s.cycle < c.ready) then none else fired s (execFfaSweepPerform t.id s)
            | _ => if s.cycle < c.ready then none else fired s (execFfaCommandPerform t.id s)
      head <|> (if t.savedAt.isSome || s.cycle < f.winStart + healthCycles then none
        else fired s (execHealthWindowClose t.id (Config.healthCount s.fresh) { s with fresh := s.fresh + 1 })))) <|>
  s.pubs.findSome? (fun p => if s.gtc < p.ready then none else fired s (execBoundaryPublication p.id s))

/-- A matrix engine: requests that await a host page, the slot port, windows, the grant, and the next pass (R182, R238 to R242). -/
def dueMatrix (s : State) : Option State :=
  s.clusters.findSome? (fun kc =>
    let c := kc.2
    (c.reqs.findSome? (fun r => if r.stage == .waiting && r.unmapped && !r.held then fired s (.next (mapReq s r)) else none)) <|>
    (c.reqs.findSome? (fun r =>
      if r.kind != .q then (if r.stage == .waiting then fired s (execSlotPortService r.id s) else none)
      else match r.window with
        | some w => if w ≤ s.cycle then fired s (execMxFusionWindowClose r.id s) else none
        | none => none)) <|>
    (if c.mxGrantWin ≤ window1024 s.cycle && !c.reqs.isEmpty then fired s (execMxGrantArm kc.1 s) else none) <|>
    (if arrayFree c s.cycle && (mxHead s kc.1).isSome then fired s (execMxPassGrant kc.1 s) else none))

/-- Tile-walk commands whose tick has come (R311, R315, R316, R318). -/
def dueTwe (s : State) : Option State :=
  s.twe.findSome? (fun c =>
    if s.gtc < c.ready || c.stage != .queued then none
    else
      (if c.kind == .cpyc && c.result.isNone then fired s (execCollectiveCombine c.id s) else none) <|>
      (c.recvs.findSome? (fun r => if r.done || r.held || decide (s.gtc < r.next) then none else fired s (execTweReceiverWrite c.id r.team s))) <|>
      (if c.recvs.all (·.done) then fired s (execTweCommandComplete c.id s) else none))

/-! Groups and tasks. -/

/-- RUN_FETCH (R22, R286, R298). -/
def dueFetches (s : State) : Option State :=
  s.groups.findSome? (fun g =>
    if (refetchDue s g).isSome && !g.stopped && !g.preempt then fired s (execRunFetch g.gid s)
    else match g.queue with
    | e :: _ => if e.code.isNone && decide (e.readyAt ≤ s.gtc) && !g.stopped && !g.preempt then fired s (execRunFetch g.gid s) else none
    | [] => none)

/-- Runners, watchdogs, sleeps that wait for their operation, blocked `qpush` words and save points (R40, R121, R296, R323, R328). -/
def dueGroups (s : State) : Option State :=
  s.groups.findSome? (fun g =>
    match g.stall with
    | .idle _ => if atWork s g then fired s (execRunnerIdleRetry g.gid s) else none
    | .sleepOp _ _ => fired s (execSleepDeadline g.gid s)
    | _ => none) <|>
  (timedGroups s).findSome? (fun g => match g.stall with
    | .qpush _ _ _ _ => fired s (execQpushEntryFreed g.gid s)
    | _ => none) <|>
  s.groups.findSome? (fun g =>
    if g.task.isSome && !g.stopped && decide (g.stretch + watchdogLimit s g ≤ s.cycle) then fired s (execTaskWatchdogExpiry g.gid s)
    else if atSavePoint s g then fired s (execSavePoint g.gid s)
    else none)

/-- Records whose operation is complete, and turns of the fold (R341, R345). -/
def dueTasks (s : State) : Option State :=
  (s.grids.findSome? (fun d => d.recs.findSome? (fun r => if r.wait.isSome then fired s (execYieldOperationComplete r.id s) else none))) <|>
  s.turns.findSome? (fun t => if s.gtc < t.ready || t.stopped then none else fired s (execMergeTurn t.id s))

/-! Firmware, dispatch and devices. -/

/-- A packet at the head of its list, by its opcode, a waiting WAIT, or a decrement (R358, R364). -/
def packetEvent (s : State) (k : Pkt) : Option State :=
  match k.st with
  | .waiting => none
  | .ready =>
    (match pktOp k.bits with
      | 0 => fired s (execPacketNop k.id s)
      | 1 => fired s (execSignal k.id s)
      | 2 => fired s (execLaunch k.id s)
      | 3 => fired s (execCopy k.id s)
      | 4 => fired s (execPacketWait k.id s)
      | _ => fired s (execTimestamp k.id s))
  | .running => if pktOp k.bits = 4 && decide (k.recheck ≤ s.gtc) then fired s (execWaitRecheck k.id s) else none
  | .completing _ => if k.h + 2 ≤ s.gtc then fired s (execCompletionDecrement k.id s) else none

/-- The firmware core and the dispatchers: passes every 1,000 ticks, packets, deferred packets, rounds (R324, R362 to R365). [DESIGN CHOICE, log entry 34] -/
def dueFirmware (s : State) : Option State :=
  (if s.hub.bootState == 1 && decide (s.hub.lastPass + 1000 ≤ s.gtc) then fired s (execFirmwarePass s) else none) <|>
  (s.pkts.findSome? (packetEvent s)) <|>
  (s.parts.findSome? (fun kp =>
    let p := kp.2
    if p.needRound || (decide (p.lastRound + 1000 ≤ s.gtc) && (!p.ready.isEmpty || !p.restore.isEmpty)) then
      fired s (execDispatchRound kp.1 s)
    else none)) <|>
  s.grids.findSome? (fun d => if d.ended then fired s (execDeferredSubmit d.id s) else none)

/-- Virtual devices that collapse or wake, partitions whose reset ends, what becomes active at level 7, and class-3 teams on which sub-step 7 has
come to act because a deterministic grid of their partition has ended (R398, R406 to R413). -/
def dueDevices (s : State) : Option State :=
  (s.vdevs.findSome? (fun kv =>
    if idleOver s kv.1 then fired s (execIdleCollapse kv.1 s)
    else if kv.2.state == 2 then fired s (execCollapseComplete kv.1 s)
    else if kv.2.state == 4 && s.power.eff != 7 && decide (kv.2.moveAt ≤ s.gtc) then fired s (execWakeComplete kv.1 s)
    else none)) <|>
  s.parts.findSome? (fun kp => match kp.2.resetAt with
    | some t => if t ≤ s.gtc then fired s (execPartitionResetComplete kp.1 s) else none
    | none => none) <|>
  (if s.power.eff == 7 && s.power.deadline.isNone then fired s (.next (levelSeven s)) else none) <|>
  (if 17 ≤ s.power.tstep then fired s (.next (preemptClass3 s)) else none)

/-- A follower's offset as the hub's own measurement finds it, within one tick [DESIGN CHOICE, log entry 13]. [DESIGN CHOICE, log entry 34] -/
def drift (s : State) (die : Nat) : Int := max (-1) (min 1 (Config.followerDrift (s.fresh + die)))

/-- Ticks from a power failure to the end of its drain at the latest (R417). -/
def drainTicks : Nat := 150 * ms

/-- The power controller and the hub's clock: a measurement every 10,000 ticks, the end of a level's 1 ms, the end of the drain, the
followers every 1,000 ticks (R379, R409, R411, R417). [DESIGN CHOICE, log entry 34] -/
def duePower (s : State) : Option State :=
  (if s.power.lastMeasure + 10000 ≤ s.gtc then fired s (execPowerMeasurement (Config.power s.power.measCount) s) else none) <|>
  (match s.power.deadline with
    | some t => if t ≤ s.gtc then fired s (execLevelDeadline s) else none
    | none => none) <|>
  (match s.power.fail with
    | some t => if t + drainTicks ≤ s.gtc || !s.teams.any (fun x => x.savedAt.isNone) then
        fired s (execDrainComplete (Config.railsHold s.fresh) { s with fresh := s.fresh + 1 }) else none
    | none => none) <|>
  (if s.hub.lastMeasure + 1000 ≤ s.gtc then fired s (execGtcMeasure ((List.range 4).map (drift s)) { s with fresh := s.fresh + 4 }) else none)

/-- The windows of 1,024 cycles of a core (R294, R295). -/
def dueWindows (s : State) : Option State :=
  ((s.cores.map (fun kc => kc.1)) ++ s.groups.map (fun g => g.core)).findSome? (fun n =>
    if (s.core n).lossWin < window1024 s.cycle then fired s (execLostLocalityWindow n s)
    else if (s.core n).grantWin ≤ window1024 s.cycle && !(groupsOn s n).isEmpty then fired s (execIssueGrantArm n s)
    else none)

/-- Everything that is due before a word is executed, the tile walks first (R196, R382). [DESIGN CHOICE, log entry 1] -/
def dueEvent (s : State) : Option State :=
  if s.hub.bootState = 0 then some (bootRom s)
  else if s.power.stopped then none
  else
    dueEnds s <|> dueTwe s <|> dueOps s <|> dueDrains s <|> dueLinks s <|> dueFirefly s <|> dueMatrix s <|> dueFetches s <|>
      dueGroups s <|> dueTasks s <|> dueFirmware s <|> dueDevices s <|> duePower s <|> dueWindows s

/-! The outside world. -/

/-- A step that the outside world may take. -/
def isOutside (i : Instr) : Bool :=
  match i with
  | .priResponse _ _ _ => true | .translationInvalidation _ _ => true | .hostSaveRequest _ => true | .resume _ => true
  | .resumeSkip _ => true | .kill _ => true | .doorbell _ _ _ => true | .bind _ => true | .unbind _ => true | .collapse _ => true
  | .wake _ => true | .partitionCreate _ _ => true | .partitionTeardown _ => true | .partitionReset _ => true
  | .registerWrite _ _ _ => true | .hostBar4Read _ _ _ => true | .hostBar4Write _ _ _ => true | .hostFetchadd _ _ _ _ => true
  | .hostSwap _ _ _ _ => true | .hostCas _ _ _ _ _ => true | .peerRequest _ _ _ _ => true | .fenceTokenAnswer _ => true
  | .flushReadCompletion _ => true | .fabricPortDown _ => true | .fabricPortRetrain _ => true | .futorLinkError _ _ => true
  | .gtcMeasure _ => true | .snapAtWrite _ => true | .hubSnapGo => true | .snapPin => true | .powerStepCommand _ => true
  | .pstepPins _ => true | .powerMeasurement _ => true | .sag => true | .sagRecovery => true | .pwrfail _ => true
  | .drainDiscard => true | .coldReset => true | .reboot => true | .getVersion => true | .getCapabilities => true
  | .negotiateAlgorithms => true | .getDigests => true | .getCertificate => true | .challenge _ => true | .getMeasurements _ => true
  | .sideReadTemperature _ => true | .sideReadPower => true | .sideReadLevel => true | .sidePortLevelWrite _ => true
  | .sideReadPortLevel => true | .uncorrectableError _ _ => true
  | _ => false

/-- The gated partition at which a host or peer access is held (R407). [DEDUCED, log entry 69] -/
def heldAt (s : State) (i : Instr) : Option Nat :=
  let of := fun (p : HostPlace) => match p with | .held n => some n | _ => none
  match i with
  | .hostBar4Read fn off n => of (hostPlace s fn off n)
  | .hostBar4Write fn off b => of (hostPlace s fn off b.length)
  | .hostFetchadd fn off bits _ => of (hostPlace s fn off (bits / 8))
  | .hostSwap fn off bits _ => of (hostPlace s fn off (bits / 8))
  | .hostCas fn off bits _ _ => of (hostPlace s fn off (bits / 8))
  | .peerRequest part addr n ask =>
    if decide (part < 16) && (s.part part).valid && s.hub.bootState == 1 && !s.power.stopped then
      of (partPlace s (some part) addr (askBytes n ask)) else none
  | _ => none

/-- The next step of the outside world whose tick has come: one that is held wakes its partition's devices and stays (R407). [DESIGN CHOICE, log entry 1] -/
def takeInput (s : State) (before : List (Nat × Instr)) : List (Nat × Instr) → Option Plan
  | [] => none
  | (t, i) :: r =>
    if s.gtc < t then takeInput s (before ++ [(t, i)]) r
    else
      match heldAt s i with
      | some p =>
        match wakeFor s p with
        | some w => if w = s then takeInput s (before ++ [(t, i)]) r else some (.next w)
        | none => takeInput s (before ++ [(t, i)]) r
      | none =>
        let s := { s with inputs := before ++ r }
        if isOutside i then some (.word i s) else some (.next s)

/-! Starts, lane words and scalar words. -/

/-- The cores that hold groups, ascending. -/
def busyCores (s : State) : List Nat := s.groups.foldl (fun l g => insertNat g.core l) []

/-- Runs start, before the first word of a cycle (R24 to R26). -/
def dueStarts (s : State) : Option State :=
  if s.worked || s.power.fail.isSome then none
  else (busyCores s).findSome? (fun c => if startsDue s c then fired s (execRunStart c s) else none)

/-- The next lane word of a group: with those that must issue beside it where an engine may hold one of them up, and tried again where its
run is parked (R291, R298). -/
def lanePlan (s : State) (g : Group) : Option Plan :=
  if !g.live then none else g.runs.findSome? (fun r => (turnOf s g r).bind (fun d => (d.words[d.wi]?).map (fun i =>
    let busy := { s with worked := true }
    let ms := together s r.stream d
    if 2 ≤ ms.length && ms.any (fun m => isEngineWord m.word) then .next (issueTogether busy ms)
    else if r.parked && isEngineWord i then .next (ended (execParkedRunResume g.gid busy) busy)
    else .word i (busy.at_ g.gid r.seq d.side))))

/-- The scalar registers that a scalar word reads or writes (R103). A mask condition of `b.cc` names no scalar register. -/
def scalarRegs (i : Instr) : List (BitVec 6) :=
  match i with
  | .bCc c a _ => if 1 ≤ c.toNat && c.toNat ≤ 4 then [a] else []
  | .call _ => [63]
  | .add d a b => [d, a, b]
  | .sub d a b => [d, a, b]
  | .and d a b => [d, a, b]
  | .or d a b => [d, a, b]
  | .xor d a b => [d, a, b]
  | .andn d a b => [d, a, b]
  | .shl d a b => [d, a, b]
  | .shr d a b => [d, a, b]
  | .sra d a b => [d, a, b]
  | .min d a b => [d, a, b]
  | .max d a b => [d, a, b]
  | .minn d a b => [d, a, b]
  | .maxn d a b => [d, a, b]
  | .seq d a b => [d, a, b]
  | .slt d a b => [d, a, b]
  | .sltn d a b => [d, a, b]
  | .mul d a b => [d, a, b]
  | .mulh d a b => [d, a, b]
  | .mulhn d a b => [d, a, b]
  | .div d a b => [d, a, b]
  | .divn d a b => [d, a, b]
  | .rem d a b => [d, a, b]
  | .remn d a b => [d, a, b]
  | .popc d a => [d, a]
  | .clz d a => [d, a]
  | .ctz d a => [d, a]
  | .sext d a _ => [d, a]
  | .addi d a _ => [d, a]
  | .andi d a _ => [d, a]
  | .ori d a _ => [d, a]
  | .xori d a _ => [d, a]
  | .shli d a _ => [d, a]
  | .shri d a _ => [d, a]
  | .srai d a _ => [d, a]
  | .slti d a _ => [d, a]
  | .sltni d a _ => [d, a]
  | .sld d a _ => [d, a]
  | .sst d a _ => [d, a]
  | .sldp d a _ => [d, a]
  | .sstp d a _ => [d, a]
  | .li d _ => [d]
  | .lhi d _ => [d]
  | .lxi d _ => [d]
  | .pcrel d _ => [d]
  | .jr a => [a]
  | .sleep a => [a]
  | .ffaLdc a => [a]
  | .ffaBeta a => [a]
  | .ffaRds a => [a]
  | .ffaZc a => [a]
  | .ffaHs a => [a]
  | .yield a => [a]
  | .scopeClose a => [a]
  | .rdsr a _ => [a]
  | .wrsr a _ => [a]
  | .rdgtc a => [a]
  | .trap a _ => [a]
  | .kmovk _ s => [s]
  | .kmovs _ s => [s]
  | .kmovsNw _ s => [s]
  | .kpop _ s => [s]
  | .kfirst _ s => [s]
  | .run2 _ _ a b => [a, b]
  | .cpy a b => [a, b]
  | .cpym a b => [a, b]
  | .cpyc a b => [a, b]
  | .qpush a b _ => [a, b]
  | .qpoll a b => [a, b]
  | .barInit a b => [a, b]
  | .barArr a b => [a, b]
  | .barExp a b => [a, b]
  | .barWait a b => [a, b]
  | .ffaLdj a b => [a, b]
  | .ffaLdh a b => [a, b]
  | .ffaClamp a b => [a, b]
  | .ffaMode a b => [a, b]
  | .ffaSweep a b => [a, b]
  | .ffaRdc a b => [a, b]
  | .ffaBnd a b => [a, b]
  | .spawn a b => [a, b]
  | .vaddr a b => [a, b]
  | _ => []

/-- Registers of a width in bits are read or written by an outstanding scalar load (R103, R104). -/
def loadPending (s : State) (g : Group) (l : List (BitVec 6)) : Bool :=
  s.ops.any (fun o => o.gid == g.gid && o.scalar && o.kind.hasResult && l.any (fun n => n.toNat == o.dst))

/-- The live scalars of the task that a runner runs, which a yield saves (R345). -/
def liveScalars (g : Group) : List (BitVec 6) :=
  match g.task with
  | some t => (List.range t.ns).map (fun j => BitVec.ofNat 6 (t.sbase + j))
  | none => []

/-- The scope that the task would close still has its children's turns to wait for (R349). -/
def scopeWaits (s : State) (g : Group) : Bool :=
  match (g.task.bind (·.stack.getLast?)).bind (fun x => (s.grid? g.grid).bind (·.scope? x.1)) with
  | some c => !c.aborted && !c.folded
  | none => false

/-- The scalar word may execute: every result that it needs or replaces is there, the live scalars that a `spawn` copies or a yield saves
too (R103, R344, R345, R346, R349). -/
def scalarReady (s : State) (g : Group) (i : Instr) : Bool :=
  let live := match i with
    | .spawn a b => (List.range (bitsOf (g.readS a).toNat 32 28)).map (fun j => b + BitVec.ofNat 6 j)
    | .yield _ => liveScalars g
    | .sleep a =>
      let x := (g.readS a).toNat
      if promiseHeld g (bitsOf x 63 60) (bitsOf x 59 0) then liveScalars g else []
    | .scopeClose _ => if scopeWaits s g then liveScalars g else []
    | _ => []
  let l := (scalarRegs i ++ live).filter (· != 0)
  l.all (fun n => decide (sget g.sboard 0 n.toNat ≤ s.cycle)) && !loadPending s g l

/-- The address of the scalar word at the PC (R101). -/
def pcAddr (g : Group) : Nat := g.scb.toNat + 4 * g.pc

/-- The launch tick of a group's grid (R467). -/
def launchOf (s : State) (g : Group) : Nat := ((s.grid? g.grid).map (fun (d : Grid) => d.launchedAt)).getD 0

/-- The scalar word at the PC of the group at the issue position is fetched (R19, R101, R112, R467): the word, or what its fetch comes
to; one that awaits a host page is made again (R182). -/
def fetchScalar (s : State) : Except State (BitVec 32 × State) :=
  let g := s.cur
  if g.swords ≤ g.pc then .error (raiseScalar s .access (pcAddr g))
  else
    match fetchCode s g (launchOf s g) (pcAddr g) 4 with
    | (.error .page, s) => .error s.hold
    | (.error (.fault c), s) => .error (raiseScalar s c (pcAddr g))
    | (.ok b, s) => .ok (BitVec.ofNat 32 (ofBytes b), s)

/-- The barrier words that reach a slot in one tick are applied in the order of the groups' slots, in its last cycle (R382): one waits while
another cycle of the tick is to come. [DEDUCED, log entry 1] -/
def barrierWaits (s : State) (i : Instr) : Bool :=
  let bar := match i with
    | .barInit _ _ => true | .barArr _ _ => true | .barExp _ _ => true | .barWait _ _ => true
    | _ => false
  bar && decide (16 ≤ s.phase)

/-- The next scalar word of the group at the issue position (R19, R74, R103, R382, R412). -/
def scalarPlan (s : State) : Plan :=
  if s.cur.detPend then .next (raiseScalar (s.onCur (fun g => { g with detPend := false })) .detPower 0)
  else
    match fetchScalar s with
    | .error s => .next s
    | .ok (w, s) =>
      match decodeScalar w with
      | .error _ => .next (raiseScalar s .illegalOp 0)
      | .ok i => if scalarReady s s.cur i && !barrierWaits s i then .word i { s with worked := true } else .next s.hold

/-- A group whose scalar unit may execute its next word in this cycle. -/
def scalarTurn (s : State) (g : Group) : Bool :=
  g.live && !g.stopped && g.stall == .none && decide (g.sready ≤ s.cycle)

/-- The words of a cycle, by core and resident-group slot: what a group's earlier words may do now, its lane words, then its scalar word (R26,
R103, R196). No word after a power failure (R416). [DESIGN CHOICE, log entry 1] -/
def wordPlan (s : State) : Option Plan :=
  if s.power.stopped then none
  else
    s.groups.findSome? (fun g =>
      ((pumpEvent s g).map Plan.next) <|>
      (if s.power.fail.isSome then none else lanePlan s g <|> if scalarTurn s g then some (scalarPlan (s.focus g.gid)) else none))

/-! The end of a tick, and the clock. -/

/-- Waits of groups and engines that end with the tick, a fault open or not (R121, R197, R268, R316, R319, R323, R380, R388). -/
def lateWaits (s : State) : Option State :=
    ((timedGroups s).findSome? (fun g =>
      match g.stall with
      | .sleep t _ => if t ≤ s.timeOf g then fired s (execSleepDeadline g.gid s) else none
      | .barWait _ _ d _ => if d < s.timeNext (dieOf g.core) then fired s (execBarWaitTimeout g.gid s) else none
      | .qpush _ d _ _ => if d ≤ s.timeOf g then fired s (execQpushBoundExpiry g.gid s) else none
      | _ => none)) <|>
    (s.ops.findSome? (fun o => if o.lanes.any (·.atWord) then
      fired s (execFeWaitBoundExpiry o.id s) else none)) <|>
    (s.teams.findSome? (fun t => if t.ffa.isSome then fired s (execBoundaryWaitExpiry t.id s) else none)) <|>
    (s.twe.findSome? (fun c => (if c.kind == .cpyc && c.result.isNone then fired s (execCollectiveWaitExpiry c.id s) else none) <|>
      c.recvs.findSome? (fun r => if r.since.isSome then fired s (execGuardWaitExpiry c.id r.team s) else none)))

/-- Partitions whose wait table holds a packet to be looked at again (R363). -/
def lateRechecks (s : State) : Option State :=
  s.parts.findSome? (fun kp =>
    let p := kp.2
    let look := !p.table.isEmpty && (decide (p.lastCheck + 4096 ≤ s.gtc) ||
      p.table.any (fun e => match s.pkt? e.2 with | some k => decide (k.recheck ≤ s.gtc) | none => false))
    if look then fired s (execDependencyRecheck kp.1 s) else none)

/-- Containment takes the faults that a tick has raised (R370). -/
def lateFaults (s : State) : Option State :=
  (s.groups.find? (fun g => g.fault.isNone && !g.heldFaults.isEmpty)).map (fun g => takeFault s g.gid)

/-- What the end of a tick decides: waits, rechecks, faults, and the snapshot as the last (R363, R370, R393). -/
def lateEvent (s : State) : Option State :=
  if s.power.stopped then none
  else
    lateWaits s <|> lateRechecks s <|> lateFaults s <|>
    (match s.hub.armed with
      | some t => if (latchDue s t).isEmpty then none else fired s (execSnapshotLatch s)
      | none => none)

/-- A cycle begins; heads that the load cap alone holds back are counted, and so is the cycle in each quadrant whose clocks stand still (R392,
R405). [DESIGN CHOICE, log entry 1] -/
def nextCycle (s : State) : State :=
  let still := (List.range 16).filter (fun q => match s.partOfQuad q with | some n => (s.part n).state == 3 | none => false)
  let s := still.foldl (fun s q => s.count (stillKey q) 1) s
  let s := (busyCores s).foldl (fun s c =>
    if (groupsOn s c).any (fun g => match readyHead s g with | some (_, l) => !capOk s c g l | none => false) then s.count (ctrCore c 4) 1
    else s) s
  { s with cycle := s.cycle + 1, phase := s.phase - 16, worked := false }

/-- A tick begins (R4, R377): the clock runs, followers drift, what waits at a port that is up leaves (R425), boundary waits on saved arrays
stand (R380), and devices that are not idle have not been idle (R406). [DESIGN CHOICE, log entry 1] -/
def nextTick (s : State) : State :=
  let skew := (s.skew.zip s.skewGoal).map (fun (x : Int × Int) => moveSkew x.1 x.2)
  let power := { s.power with recover := s.power.recover - 1 }
  let s := (shiftBoundary s).ports.foldl (fun s kp => if kp.2.waiting.isEmpty then s else flushPort s kp.1) (shiftBoundary s)
  let s := { s with gtc := s.gtc + 1, phase := s.phase + s.clkNow, skew := skew, power := power }
  let mark := fun (kv : Nat × VDev) => if kv.2.bind && !vfIdle s kv.1 then (kv.1, { kv.2 with idleSince := s.gtc }) else kv
  { s with vdevs := s.vdevs.map mark }

/-- What happens next [DESIGN CHOICE, log entry 1]. -/
def plan (s : State) : Plan :=
  match dueEvent s with
  | some t => .next t
  | none =>
    match takeInput s [] s.inputs with
    | some p => p
    | none =>
      match if s.power.stopped then none else dueStarts s with
      | some t => .next t
      | none =>
        match wordPlan s with
        | some p => p
        | none =>
          if 16 ≤ s.phase then .next (nextCycle s)
          else
            match lateEvent s with
            | some t => .next t
            | none => .next (nextTick s)

end Sys2Proof.Machine
end

