-- ==== Sys2Proof/Machine/Step.lean ====
section
/-! DEFINITION. One step of the machine, and the state in which the next step runs a given word. -/

namespace Sys2Proof.Machine

/-- One step: what the plan says [DESIGN CHOICE, log entry 1]. -/
def step (s : State) : Host.Outcome State Fault Refusal :=
  match plan s with
  | .next t => .next t
  | .word i t => exec i t

/-! The smallest machine that runs a word [DESIGN CHOICE, log entry 26]. -/

/-- Physical addresses of the bench: the root table, the table below it, the scalar code. -/
def benchRoot : Nat := 0x4000
def benchTable : Nat := 0x8000
def benchCode : Nat := 0x10000

/-- The grid of the bench: one team of one group, no descriptor option set. [DESIGN CHOICE, log entry 26] -/
def benchGrid : Grid :=
  { id := 1, vf := 0, part := 0, pkt := 0, scb := BitVec.ofNat 64 benchCode, lcb := 0x20000, swords := 2, lwords := 2, args := 0, data := 0
    ffa := true, gang := 1, width := 32, check := false, prio := 2, det := false, task := false, x := 1, y := 1, z := 1, lease := 512
    scratch := 128, accum := 256, bars := 32, lanes := 32, prod := { entry := 0, alloc := 8, count := 0 }
    cons := { entry := 0, alloc := 128, count := 1 }, ovf := 0, ovfSize := 0, hamper := 0, hsp := false, hsize := 0, vtiles := [], contain := 0
    arglen := 0, statusAddr := 0, launchedAt := 0, nextTeam := 1, endedTeams := 0, kfault := 0, discard := 0, hostKilled := false
    restoreFail := false, killedTeams := 0, deferred := [], nextDefer := 0, nextTask := 1, liveTasks := 0, nextScope := 1, recs := [], views := [], scopes := []
    blocks := [], h := 0, ended := false }

/-- The group of the bench, at its launch values (R16, R17). [DESIGN CHOICE, log entry 26] -/
def benchGroup : Group :=
  { Group.empty with
    gid := 3, live := true, team := 2, grid := 1, width := 32, alloc := 128, k := [(0, 0xFFFFFFFF)], kc := [(0, 0xFFFFFFFF)], gctl := 0x80
    lcb := 0x20000, scb := BitVec.ofNat 64 benchCode, swords := 2, lwords := 2 }

/-- The bench: a booted package with one active partition, one bound virtual function whose page tables map its quadrant, and one
resident group; nothing else is in flight or due. [DESIGN CHOICE, log entry 26] -/
def State.bench (s : State) (g : Group) : State :=
  let mem := writeBytes (writeBytes s.mem benchRoot (toBytes 8 (benchTable + 1))) benchTable (toBytes 8 0x73)
  { s with
    hub := { s.hub with bootState := 1, lastPass := s.gtc, lastMeasure := s.gtc, armed := none }
    power := { s.power with lastMeasure := s.gtc, deadline := none, fail := none, stopped := false }
    cur := g, others := [], grids := [benchGrid]
    teams := [{ Team.none_ with id := 2, grid := 1, scrSize := 0x80000, bars := List.replicate 32 Bar.reset, nslots := 256, ngroups := 1, cls := 2
                                ffa := some (Ffa.fresh s.cycle) }]
    cores := [(0, { Core.reset with lossWin := window1024 s.cycle, grantWin := window1024 s.cycle + 1 })], clusters := [], tlb2 := [], ops := [], writes := [], mem := mem, errs := [], olds := [], twe := [], pubs := [], turns := []
    pkts := [], staged := [], priRefused := [], ports := [], tokens := [], invals := [], inputs := [], worked := false
    parts := sset s.parts Part.reset 0 { Part.reset with valid := true, state := 1, lastRound := s.gtc, lastCheck := s.gtc }
    vdevs := sset s.vdevs VDev.reset 0 { VDev.reset with bind := true, state := 1, root := 1, save := 0x10, savesz := 0x100 }
    nextId := max s.nextId 4 }

/-- A started run of one lane word, which issues next. [DESIGN CHOICE, log entry 26] -/
def benchRun (s : State) (i : Instr) : Run :=
  { seq := 1, pair := false, sel := 0, await := 0, lb := loadBearing i, k4 := 0
    sides := [{ side := 0, idx := 0, words := [i], tr := { tok := 8, regs := [], masks := [] }, wi := 0, pass := 0, issued := false
                retired := false, held := false, next := s.cycle, half := [], acc := [], tick := 0, last := 0 }]
    quarters := 15, dec := 1, stream := (3, 1), parked := false, again := false }

/-- The state with a word where the next step takes its instruction: a scalar word in the code section at the PC of the bench's group, a lane
word as the fetched word of its Issuing run [DESIGN CHOICE, log entry 26]. -/
def State.withFetchWord (s : State) (nbits w : Nat) : State :=
  if nbits ≤ 32 then
    let t := s.bench { benchGroup with sready := s.cycle }
    { t with mem := writeBytes t.mem benchCode (toBytes 4 w) }
  else
    match decodeTableWord nbits w with
    | some i => s.bench { benchGroup with sready := s.cycle + 1, runs := [benchRun s i], seqNext := 2 }
    | none => s.bench { benchGroup with sready := s.cycle + 1 }

end Sys2Proof.Machine
end

