-- ==== Sys2Proof/Safety.lean ====
section
/-! DEFINITION. What counts as a safe run of the package. A fault of the manual is no stop: its entry is a step of the machine (R370 to
R373). A run is safe when every step answers a next state and memory keeps its canonical form. -/

namespace Sys2Proof.Machine

/-- The step at a state answers a next state: the machine neither stops nor declines. -/
def SafeStep (s : State) : Prop := ∃ t, step s = .next t

/-- The states whose stores are in canonical form: equal contents are equal data. -/
def State.canonical (s : State) : Prop := Memory.wf s.mem = true

/-- A run of `n` steps in which every step is safe and every state is canonical. -/
def SafeRun : Nat → State → Prop
  | 0, s => s.canonical
  | n + 1, s => s.canonical ∧ ∃ t, step s = .next t ∧ SafeRun n t

end Sys2Proof.Machine
end

