-- ==== Sys2Proof/Certificates/Slice0/Obligations.lean ====
section
/-! DEFINITION. The statements for the provers. A helper under `Sys2Proof.Spec` says in the manual's terms what a statement's conclusion
holds; `Obligations.<Name>` is the statement. -/

namespace Sys2Proof.Spec
open Sys2Proof.Machine

/-- What an operation of the model answers. -/
abbrev Out := Host.Outcome State Fault Refusal

/-! Scalar words. -/

/-- A scalar word that writes s[d] may complete: its group is live, and no run that has not issued still reads s[d] (R33). -/
def mayComplete (s : State) (d : BitVec 6) : Prop := s.cur.live = true ∧ mayWriteS s d = true

/-- The state after a scalar word that writes v to s[d], with a result latency (R100, R101, R103): nothing else changes. -/
def wrote (s : State) (d : BitVec 6) (v : Word64) (lat : Nat) : State :=
  { s with cur := { s.cur with
      pc := s.cur.pc + 1, sready := s.cycle + 1
      s := if d = 0 then s.cur.s else sset s.cur.s 0 d.toNat v
      sboard := if d = 0 then s.cur.sboard else sset s.cur.sboard 0 d.toNat (s.cycle + lat) } }

/-- The state after a scalar word that only advances the PC (R101). -/
def passed (s : State) : State := { s with cur := { s.cur with pc := s.cur.pc + 1, sready := s.cycle + 1 } }

/-- The state after an interlocked word: it is tried again in the next cycle (R103). -/
def waited (s : State) : State := { s with cur := { s.cur with sready := max s.cur.sready (s.cycle + 1) } }

/-- 1 or 0. -/
def flag (b : Bool) : Word64 := if b then 1 else 0

/-- The results of the op6 0x00 family (R105). -/
def alu (x y : Word64) : List Word64 :=
  let sh := y.toNat % 64
  [BitVec.ofNat 64 (x.toNat + y.toNat), BitVec.ofInt 64 (x.toNat - y.toNat : Int), x &&& y, x ||| y, x ^^^ y, x &&& ~~~y,
   BitVec.ofNat 64 (x.toNat * 2 ^ sh), BitVec.ofNat 64 (x.toNat / 2 ^ sh), BitVec.ofInt 64 (x.toInt / 2 ^ sh),
   BitVec.ofInt 64 (min x.toInt y.toInt), BitVec.ofInt 64 (max x.toInt y.toInt), BitVec.ofNat 64 (min x.toNat y.toNat),
   BitVec.ofNat 64 (max x.toNat y.toNat), flag (x = y), flag (x.toInt < y.toInt), flag (x.toNat < y.toNat)]

/-- The words of the op6 0x00 family, in the order of their fn8. -/
def aluWords (d a b : BitVec 6) : List Instr :=
  [.add d a b, .sub d a b, .and d a b, .or d a b, .xor d a b, .andn d a b, .shl d a b, .shr d a b, .sra d a b, .min d a b, .max d a b,
   .minn d a b, .maxn d a b, .seq d a b, .slt d a b, .sltn d a b]

end Sys2Proof.Spec

open Sys2Proof Sys2Proof.Machine Sys2Proof.Spec

/-- R105: every word of the op6 0x00 family completes, writes its row's value to s[d], and changes nothing else; fn8 names the word, and
0x10 to 0xFF name none.
Completes: add, sub, and, or, xor, andn, shl, shr, sra, min, max, minn, maxn, seq, slt, sltn. -/
def Obligations.ScalarAluResult : Prop :=
  (∀ (s : State) (d a b : BitVec 6) (i : Instr) (v : Word64), mayComplete s d →
    (i, v) ∈ (aluWords d a b).zip (alu (s.cur.readS a) (s.cur.readS b)) → exec i s = .next (wrote s d v 1)) ∧
  ∀ (d a b : BitVec 6) (f : BitVec 8), (decodeScalar (0x00#6 ++ d ++ a ++ b ++ f)).toOption = (aluWords d a b)[f.toNat]?

namespace Sys2Proof.Spec

/-- The multiplications of R106, with their results. -/
def products (d a b : BitVec 6) (x y : Word64) : List (Instr × Word64) :=
  [(.mul d a b, BitVec.ofInt 64 (x.toInt * y.toInt)), (.mulh d a b, BitVec.ofInt 64 (x.toInt * y.toInt / 2 ^ 64)),
   (.mulhn d a b, BitVec.ofNat 64 (x.toNat * y.toNat / 2 ^ 64))]

/-- n is the number of 0 bits of x above its highest 1 bit; 64 for 0 (R106). -/
def leads (x : Word64) (n : Nat) : Prop :=
  n ≤ 64 ∧ (∀ j, j < n → x.getLsbD (63 - j) = false) ∧ (n < 64 → x.getLsbD (63 - n) = true)

/-- n is the number of 0 bits of x below its lowest 1 bit; 64 for 0 (R106). -/
def trails (x : Word64) (n : Nat) : Prop :=
  n ≤ 64 ∧ (∀ j, j < n → x.getLsbD j = false) ∧ (n < 64 → x.getLsbD n = true)

/-- Quotient, remainder, DZ and OV of a division of 64 bits (R59). -/
def divided (signed : Bool) (x y : Word64) : Word64 × Word64 × Bool × Bool :=
  if y = 0 then (BitVec.allOnes 64, x, true, false)
  else if signed then
    if x = BitVec.intMin 64 ∧ y = BitVec.allOnes 64 then (BitVec.intMin 64, 0, false, true)
    else (BitVec.ofInt 64 (x.toInt.tdiv y.toInt), BitVec.ofInt 64 (x.toInt - x.toInt.tdiv y.toInt * y.toInt), false, false)
  else (BitVec.ofNat 64 (x.toNat / y.toNat), BitVec.ofNat 64 (x.toNat - x.toNat / y.toNat * y.toNat), false, false)

/-- The number of significant bits of n: 2^(b−1) ≤ n < 2^b (R103). -/
def significant (n b : Nat) : Prop := n < 2 ^ b ∧ (b = 0 ∨ 2 ^ (b - 1) ≤ n)

/-- The result latency of a division (R103). -/
def divTakes (signed : Bool) (x y : Word64) (lat : Nat) : Prop :=
  if (divided signed x y).2.2.1 || (divided signed x y).2.2.2 then lat = 2
  else ∃ b, significant (if signed then x.toInt.natAbs else x.toNat) b ∧ lat = 2 + b

/-- The state after the effects of a division: `wrote`, with DZ and OV of GSTAT set (R60). -/
def wroteDiv (s : State) (d : BitVec 6) (v : Word64) (dz ov : Bool) (lat : Nat) : State :=
  let t := wrote s d v lat
  { t with cur := { t.cur with gstat := s.cur.gstat ||| (if dz then 1 else 0) ||| (if ov then 2 else 0) } }

/-- The division words: the word, whether it is signed, and whether it writes the quotient. -/
def divWords (d a b : BitVec 6) : List (Instr × Bool × Bool) :=
  [(.div d a b, true, true), (.divn d a b, false, true), (.rem d a b, true, false), (.remn d a b, false, false)]

/-- The immediate forms that are no shift, with their results (R107). -/
def immWords (d a : BitVec 6) (i : BitVec 14) (x : Word64) : List (Instr × Word64) :=
  let n := i.toInt
  let y := i.signExtend 64
  [(.addi d a i, BitVec.ofInt 64 (x.toInt + n)), (.andi d a i, x &&& y), (.ori d a i, x ||| y), (.xori d a i, x ^^^ y),
   (.slti d a i, flag (x.toInt < n)), (.sltni d a i, flag (x.toNat < (BitVec.ofInt 64 n).toNat))]

/-- The shifts by an immediate, with their results (R107). -/
def shiftWords (d a : BitVec 6) (i : BitVec 14) (x : Word64) : List (Instr × Word64) :=
  [(.shli d a i, BitVec.ofNat 64 (x.toNat * 2 ^ i.toNat)), (.shri d a i, BitVec.ofNat 64 (x.toNat / 2 ^ i.toNat)),
   (.srai d a i, BitVec.ofInt 64 (x.toInt / 2 ^ i.toNat))]

/-- The words of the op6 0x01 family, in the order of their fn8; `popc`, `clz` and `ctz` have b6 = 0 (R106). -/
def longWords (d a b : BitVec 6) : List (Option Instr) :=
  [some (.mul d a b), some (.mulh d a b), some (.mulhn d a b), some (.div d a b), some (.divn d a b), some (.rem d a b),
   some (.remn d a b), if b = 0 then some (.popc d a) else none, if b = 0 then some (.clz d a) else none,
   if b = 0 then some (.ctz d a) else none, some (.sext d a b)]

/-- The immediate forms, in the order of their op6 from 0x02 (R107). -/
def immOrder (d a : BitVec 6) (i : BitVec 14) : List Instr :=
  [.addi d a i, .andi d a i, .ori d a i, .xori d a i, .shli d a i, .shri d a i, .srai d a i, .slti d a i, .sltni d a i]

/-- The mask word of a function number: its destination is no k0, and the fields that it does not use are 0 (R17, R71, R113). -/
def maskWord (d a b : BitVec 4) (x : BitVec 6) (f : Nat) : Option Instr :=
  match f with
  | 0x00 => if d ≠ 0 ∧ x = 0 then some (.kand d a b) else none
  | 0x01 => if d ≠ 0 ∧ x = 0 then some (.kor d a b) else none
  | 0x02 => if d ≠ 0 ∧ x = 0 then some (.kxor d a b) else none
  | 0x03 => if d ≠ 0 ∧ x = 0 then some (.kandn d a b) else none
  | 0x04 => if d ≠ 0 ∧ b = 0 ∧ x = 0 then some (.knot d a) else none
  | 0x05 => if d ≠ 0 ∧ a = 0 ∧ b = 0 then some (.kmovk d x) else none
  | 0x06 => if d = 0 ∧ b = 0 then some (.kmovs a x) else none
  | 0x07 => if d = 0 ∧ b = 0 then some (.kpop a x) else none
  | 0x08 => if d = 0 ∧ b = 0 then some (.kfirst a x) else none
  | 0x09 => if d ≠ 0 ∧ a = 0 ∧ b = 0 ∧ x = 0 then some (.kset d) else none
  | 0x86 => if d = 0 ∧ b = 0 then some (.kmovsNw a x) else none
  | _ => none

/-- The words that place constants and addresses, with their results (R108). `old` is s[d] before. -/
def placeWords (s : State) (d : BitVec 6) (i : BitVec 20) (old : Word64) : List (Instr × Word64) :=
  [(.li d i, BitVec.ofInt 64 i.toInt), (.lhi d i, old.extractLsb' 40 24 ++ i ++ old.extractLsb' 0 20),
   (.lxi d i, 0#4 ++ i ++ old.extractLsb' 0 40), (.pcrel d i, BitVec.ofInt 64 (s.cur.scb.toNat + 4 * (s.cur.pc + i.toInt)))]

/-- The state after a transfer to a word index within the section: the target issues one cycle later than a plain word (R103, R112). -/
def movedTo (s : State) (target : Nat) : State := { s with cur := { s.cur with pc := target, sready := s.cycle + 2 } }

/-- The word index lies in the scalar code section (R112). -/
def inSection (s : State) (target : Int) : Prop := 0 ≤ target ∧ target < s.cur.swords

/-- The condition of `b.cc` (R72). -/
def condition (s : State) (c : BitVec 4) (a : BitVec 6) : Prop :=
  let x := s.cur.readS a
  let k := s.cur.readK (a.truncate 4) &&& s.cur.k0
  (c = 0) ∨ (c = 1 ∧ x = 0) ∨ (c = 2 ∧ x ≠ 0) ∨ (c = 3 ∧ x.toInt < 0) ∨ (c = 4 ∧ 0 ≤ x.toInt) ∨ (c = 5 ∧ k = 0) ∨
    (c = 6 ∧ k ≠ 0) ∨ (c = 7 ∧ k = s.cur.k0)

/-- The state after a mask word that writes k[d] (R113): no run is left that writes it, so the value is also its committed one. -/
def wroteMask (s : State) (d : BitVec 4) (v : Word64) : State :=
  { s with cur := { s.cur with pc := s.cur.pc + 1, sready := s.cycle + 1, k := sset s.cur.k 0 d.toNat v, kc := sset s.cur.kc 0 d.toNat v } }

/-- The mask words that write a mask, with the masks they read and their results (R113). -/
def maskWords (s : State) (d a b : BitVec 4) (x : BitVec 6) : List (Instr × List (BitVec 4) × Word64) :=
  let p := s.cur.readK a
  let q := s.cur.readK b
  [(.kand d a b, [a, b], p &&& q), (.kor d a b, [a, b], p ||| q), (.kxor d a b, [a, b], p ^^^ q), (.kandn d a b, [a, b], p &&& ~~~q),
   (.knot d a, [a], ~~~p), (.kmovk d x, [], s.cur.readS x), (.kset d, [], s.cur.readK 0)]

/-- No run that has not finished still writes the mask (R32). -/
def maskSettled (s : State) (k : BitVec 4) : Prop := k = 0 ∨ writesMask s s.cur k.toNat = false

/-- No run that has not issued still reads the mask, and none that has not finished writes it (R33). -/
def maskFree (s : State) (k : BitVec 4) : Prop := readsMask s s.cur k.toNat = false ∧ writesMask s s.cur k.toNat = false

/-- What `rdsr` reads of a group register (R168 to R171). -/
def registerValue (g : Group) (n : Nat) : Word64 :=
  match n with
  | 0 => g.gctl
  | 1 => if ∀ t, t < 8 → g.tokenPending t = false then g.gstat else g.gstat ||| 4
  | 2 => ((List.range g.width).map (fun j => sget g.lstat 0 j)).foldl (· ||| ·) (0 : BitVec 7) |>.zeroExtend 64
  | 3 => g.febound.zeroExtend 64
  | 4 => g.lease.zeroExtend 64
  | 5 => BitVec.ofNat 64 (g.acqfloor % 2 ^ 60)
  | 6 => g.lcb
  | _ => g.scb

/-- What `wrsr` leaves of a register by its access codes (R168 to R171): GCTL, GSTAT and FEBOUND as given, LSTAT cleared lane by lane. -/
def registerWritten (g g' : Group) (n : Nat) (v : Word64) : Prop :=
  match n with
  | 0 => g' = { g with pc := g'.pc, sready := g'.sready, gctl := g.gctl.extractLsb' 5 59 ++ v.extractLsb' 0 5 }
  | 1 => g' = { g with pc := g'.pc, sready := g'.sready, gstat := g'.gstat } ∧ ∀ i, i < 64 →
      g'.gstat.getLsbD i = (g.gstat.getLsbD i && !(if i = 0 ∨ i = 1 ∨ i = 7 then v.getLsbD i else decide (8 ≤ i ∧ i < 16) && v.getLsbD 7))
  | 2 => g' = { g with pc := g'.pc, sready := g'.sready, lstat := g'.lstat } ∧
      (smapWf 0 g.lstat = true → ∀ j, sget g'.lstat 0 j = sget g.lstat 0 j &&& ~~~(v.extractLsb' 0 7))
  | 3 => g' = { g with pc := g'.pc, sready := g'.sready, febound := BitVec.ofNat 32 (max 64 (v.toNat % 2 ^ 32)) }
  | _ => False

end Sys2Proof.Spec

/-- R106, R59, R60, R103: multiplications, divisions, bit counts and `sext` complete and write their results; a division sets DZ and OV of
GSTAT, and traps after it has completed where GCTL enables that; fn8 names the word, and 0x0B to 0xFF name none.
Completes: mul, mulh, mulhn, div, divn, rem, remn, popc, clz, ctz, sext. -/
def Obligations.ScalarMultiplyDivideResult : Prop :=
  (∀ (d a b : BitVec 6) (f : BitVec 8), (decodeScalar (0x01#6 ++ d ++ a ++ b ++ f)).toOption = (longWords d a b)[f.toNat]?.join) ∧
  ∀ (s : State) (d a b p : BitVec 6), mayComplete s d →
    let x := s.cur.readS a
    let y := s.cur.readS b
    (∀ r ∈ products d a b x y, exec r.1 s = .next (wrote s d r.2 4)) ∧
    exec (.popc d a) s = .next (wrote s d (BitVec.ofNat 64 ((List.range 64).countP (fun i => x.getLsbD i))) 1) ∧
    (∃ n, leads x n ∧ exec (.clz d a) s = .next (wrote s d (BitVec.ofNat 64 n) 1)) ∧
    (∃ n, trails x n ∧ exec (.ctz d a) s = .next (wrote s d (BitVec.ofNat 64 n) 1)) ∧
    (∃ v : Word64, (∀ i, i < 64 → v.getLsbD i = x.getLsbD (min i p.toNat)) ∧ exec (.sext d a p) s = .next (wrote s d v 1)) ∧
    (∀ w ∈ divWords d a b, ∃ lat, divTakes w.2.1 x y lat ∧
      let r := divided w.2.1 x y
      let t := wroteDiv s d (if w.2.2 then r.1 else r.2.1) r.2.2.1 r.2.2.2 lat
      exec w.1 s = .next (
        if r.2.2.1 && s.cur.gctl.getLsbD 3 then raiseDone { t with cur := { t.cur with pc := s.cur.pc } } .divZero
        else if r.2.2.2 && s.cur.gctl.getLsbD 4 then raiseDone { t with cur := { t.cur with pc := s.cur.pc } } .intOvf
        else t))

/-- R107: the immediate forms complete with their results; a shift by 64 or more is an ILLEGAL_OP, and its word decodes to no
instruction (R74). op6 names the form.
Completes: addi, andi, ori, xori, shli, shri, srai, slti, sltni. -/
def Obligations.ScalarImmediateResult : Prop :=
  (∀ (d a : BitVec 6) (i : BitVec 14) (n : Nat), n < 9 → (decodeScalar (BitVec.ofNat 6 (2 + n) ++ d ++ a ++ i)).toOption =
    if 4 ≤ n ∧ n ≤ 6 ∧ 64 ≤ i.toNat then none else (immOrder d a i)[n]?) ∧
  ∀ (s : State) (d a : BitVec 6) (i : BitVec 14), mayComplete s d →
    (∀ r ∈ immWords d a i (s.cur.readS a), exec r.1 s = .next (wrote s d r.2 1)) ∧
    (∀ r ∈ shiftWords d a i (s.cur.readS a), exec r.1 s = .next (if i.toNat < 64 then wrote s d r.2 1 else raiseScalar s .illegalOp 0))

/-- R108: `li`, `lhi`, `lxi` and `pcrel` complete with their results. op6 names the form.
Completes: li, lhi, lxi, pcrel. -/
def Obligations.ScalarConstantResult : Prop :=
  (∀ (s : State) (d : BitVec 6) (i : BitVec 20) (r : Instr × Word64), mayComplete s d → r ∈ placeWords s d i (s.cur.readS d) →
    exec r.1 s = .next (wrote s d r.2 1)) ∧
  ∀ (d : BitVec 6) (i : BitVec 20) (n : Nat), n < 4 →
    (decodeScalar (BitVec.ofNat 6 (0x0B + n) ++ d ++ i)).toOption = [Instr.li d i, .lhi d i, .lxi d i, .pcrel d i][n]?

/-- R172, R174, R33: `nop` only advances the PC; `rdgtc` writes the GTC as the group's die sees it; a word whose destination a run still
reads waits, and changes nothing but the cycle in which it is tried again. -/
def Sys2Proof.Spec.ScalarNopClockAndInterlock : Prop :=
  ∀ (s : State) (d a b : BitVec 6), s.cur.live = true →
    exec .nop s = .next (passed s) ∧
    (mayWriteS s d = true → exec (.rdgtc d) s = .next (wrote s d (BitVec.ofInt 64 ((s.gtc : Int) + s.skew.getD (s.cur.core / 128) 0).toNat) 1)) ∧
    (mayWriteS s d = false → ∀ i ∈ aluWords d a b, exec i s = .next (waited s))

/-- R72, R109 to R112: `b.cc`, `call` and `jr`. A target in the section is taken, any other is an ACCESS with no other effect, and a
branch that is not taken only advances the PC.
Completes: bCc, call, jr. -/
def Obligations.ScalarTransfer : Prop :=
  (∀ (s : State) (c : BitVec 4) (a : BitVec 6) (i : BitVec 16), s.cur.live = true → wf (.bCc c a i) = true →
    (5 ≤ c.toNat → maskSettled s (a.truncate 4)) →
    (¬ condition s c a → exec (.bCc c a i) s = .next (passed s)) ∧
    (condition s c a → inSection s (s.cur.pc + i.toInt) → exec (.bCc c a i) s = .next (movedTo s (s.cur.pc + i.toInt).toNat)) ∧
    (condition s c a → ¬ inSection s (s.cur.pc + i.toInt) → ∃ addr, exec (.bCc c a i) s = .next (raiseScalar s .access addr))) ∧
  (∀ (s : State) (i : BitVec 20), mayComplete s 63 →
    (inSection s (s.cur.pc + i.toInt) → exec (.call i) s = .next (
      let t := movedTo s (s.cur.pc + i.toInt).toNat
      { t with cur := { t.cur with s := sset s.cur.s 0 63 (BitVec.ofNat 64 (s.cur.pc + 1)) } })) ∧
    (¬ inSection s (s.cur.pc + i.toInt) → ∃ addr, exec (.call i) s = .next (raiseScalar s .access addr))) ∧
  (∀ (s : State) (a : BitVec 6), s.cur.live = true →
    (inSection s (s.cur.readS a).toNat → exec (.jr a) s = .next (movedTo s (s.cur.readS a).toNat)) ∧
    (¬ inSection s (s.cur.readS a).toNat → ∃ addr, exec (.jr a) s = .next (raiseScalar s .access addr)))

/-- R113, R32, R33, R17: the mask words. A word that names k0 as its destination is an ILLEGAL_OP; one whose masks are not settled waits.
fn8 names the word, and a number not listed names none.
Where the manual leaves a point open this follows the model's choice: log entry 39.
Completes: kand, kor, kxor, kandn, knot, kmovk, kmovs, kmovsNw, kpop, kfirst, kset. -/
def Obligations.MaskWordResult : Prop :=
  (∀ (d a b : BitVec 4) (x : BitVec 6) (f : BitVec 8), (decodeScalar (0x1C#6 ++ d ++ a ++ b ++ x ++ f)).toOption = maskWord d a b x f.toNat) ∧
  ∀ (s : State) (d a b : BitVec 4) (x : BitVec 6), s.cur.live = true →
    (∀ r ∈ maskWords s d a b x,
      (d = 0 → exec r.1 s = .next (raiseScalar s .illegalOp 0)) ∧
      (d ≠ 0 → (∀ k ∈ r.2.1, maskSettled s k) → maskFree s d → exec r.1 s = .next (wroteMask s d r.2.2)) ∧
      (d ≠ 0 → ¬ ((∀ k ∈ r.2.1, maskSettled s k) ∧ maskFree s d) → exec r.1 s = .next (waited s))) ∧
    (mayWriteS s x = true →
      exec (.kmovsNw a x) s = .next (wrote s x (sget s.cur.kc 0 a.toNat) 1) ∧
      (maskSettled s a →
        exec (.kmovs a x) s = .next (wrote s x (s.cur.readK a) 1) ∧
        exec (.kpop a x) s = .next (wrote s x
          (BitVec.ofNat 64 ((List.range 64).countP (fun i => (s.cur.readK a &&& s.cur.readK 0).getLsbD i))) 1) ∧
        ∃ n, trails (s.cur.readK a &&& s.cur.readK 0) n ∧ exec (.kfirst a x) s = .next (wrote s x (BitVec.ofNat 64 n) 1)) ∧
      (¬ maskSettled s a → exec (.kmovs a x) s = .next (waited s)))

/-- R168 to R173: `rdsr` writes the register's value, `wrsr` writes it by its access codes; a read of GSTAT, LSTAT or ACQFLOOR and every
write wait until the group's runs have retired and every fixed-latency write has landed. -/
def Sys2Proof.Spec.GroupRegisterAccess : Prop :=
  ∀ (s : State) (a b : BitVec 6), s.cur.live = true →
    (wf (.rdsr a b) = true → mayWriteS s a = true → (b = 1 ∨ b = 2 ∨ b = 5 → s.cur.quiet = true) →
      exec (.rdsr a b) s = .next (wrote s a (registerValue s.cur b.toNat) 1)) ∧
    (wf (.rdsr a b) = true → b = 1 ∨ b = 2 ∨ b = 5 → s.cur.quiet = false → exec (.rdsr a b) s = .next (waited s)) ∧
    (wf (.wrsr a b) = true → s.cur.quiet = true → ∃ g', exec (.wrsr a b) s = .next { s with cur := g' } ∧
      g'.pc = s.cur.pc + 1 ∧ g'.sready = s.cycle + 1 ∧ registerWritten s.cur g' b.toNat (s.cur.readS a)) ∧
    (wf (.wrsr a b) = true → s.cur.quiet = false → exec (.wrsr a b) s = .next (waited s))

/-- The statements `ScalarNopClockAndInterlock`, `GroupRegisterAccess`, each as its docstring says.
Completes: nop, rdgtc, rdsr, wrsr. -/
def Obligations.ScalarRegistersAndClock : Prop := Spec.ScalarNopClockAndInterlock ∧ Spec.GroupRegisterAccess


namespace Sys2Proof.Spec

/-! Lane words. -/

/-- A lane word stands at the issue position, as the pass q of its run's side, and passes the checks at issue (R29, R123, R129, R130). -/
def issues (s : State) (i : Instr) (q : Issue) : Prop :=
  s.cur.live = true ∧ issueOf s i = some q ∧ wordFault s s.cur q i = none

/-- The results of a pass that issues now, as they are to land (R125, R126), with the status that the word's earlier pass has left (R55): `lam`
is the latency, `sets` whether the word acts on LSTAT. -/
def results (s : State) (q : Issue) (lam : Nat) (sets : Bool) (o : Operand) (wide : Bool) (vals : List (Nat × Word64 × BitVec 7)) : Landing :=
  let earlier := s.cur.out.filter (fun l => l.seq == q.run.seq && l.side == q.side.side && l.word == q.side.wi && !l.final)
  { cyc := s.cycle + lam - 1, ord := s.nextId, seq := q.run.seq, side := q.side.side, run := q.side.idx, word := q.side.wi, active := q.lanes,
    mrf := vals.flatMap (fun v => mrfDest s.cur o v.1 (halves wide v.2.1)), orf := vals.flatMap (fun v => orfDest o v.1 (halves wide v.2.1)),
    push := vals.map (fun v => (v.1, (halves wide v.2.1).reverse)), kw := none
    st := (vals.map (fun v => (v.1, v.2.2))).filter (fun v => v.2 != 0), cl := 0, wst := sets, acc := q.side.acc ++ earlier.flatMap (·.st)
    final := q.final }

/-- The lanes of a pass, each with its value and status. -/
def perLane (q : Issue) (f : Nat → Word64 × BitVec 7) : List (Nat × Word64 × BitVec 7) := (lanesOf q.lanes).map (fun j => (j, f j))

/-- The word issues its pass, and lands in each active lane j the value and status f j in D, `lam` cycles on. -/
def landsIn (s : State) (i : Instr) (q : Issue) (lam : Nat) (sets : Bool) (o : Operand) (wide : Bool) (f : Nat → Word64 × BitVec 7) : Prop :=
  exec i s = .next (s.landed q i (results s q lam sets o wide (perLane q f)))

/-- A word that writes a mask (R154): the bits of the active lanes. -/
def landsMask (s : State) (i : Instr) (q : Issue) (lam k : Nat) (sets : Bool) (f : Nat → Bool × BitVec 7) : Prop :=
  ∃ bits : Word64, (∀ j, j < 64 → bits.getLsbD j = (q.lanes.getLsbD j && (f j).1)) ∧
    exec i s = .next (s.landed q i { results s q lam sets (.special 0 0) false [] with
      kw := some (k, q.lanes, bits), st := ((lanesOf q.lanes).map (fun j => (j, (f j).2))).filter (fun v => v.2 != 0) })

/-- An operand of the word's type in a lane. -/
def operand (s : State) (w : LaneOp) (o : Operand) (j : Nat) : Word64 := readOperand s s.cur (s.teamOf s.cur) j w.typ.is64 o
/-- An operand of one 32-bit register in a lane. -/
def operand32 (s : State) (o : Operand) (j : Nat) : Nat := (readOperand s s.cur (s.teamOf s.cur) j false o).toNat

/-- fit(x) (R132): x modulo 2^w read back in the type, or clamped to the range of the type. -/
def fits (w : LaneOp) (x y : Int) : Prop :=
  let n := LType.width w.typ
  let lo : Int := if LType.signed w.typ then -(2 ^ (n - 1)) else 0
  let hi : Int := if LType.signed w.typ then 2 ^ (n - 1) - 1 else 2 ^ n - 1
  lo ≤ y ∧ y ≤ hi ∧ (if w.mod.getLsbD 5 then (x < lo → y = lo) ∧ (hi < x → y = hi) ∧ (lo ≤ x → x ≤ hi → y = x) else (y - x) % 2 ^ n = 0)

/-- The exact results of the arithmetic words, with their latencies for 32 and for 64 bits (R131, R132). -/
def exactWords (w : LaneOp) : List (Instr × Nat × Nat × (Int → Int → Int → Int)) :=
  [(.iadd w, 1, 2, fun a b _ => a + b), (.isub w, 1, 2, fun a b _ => a - b), (.imul w, 4, 6, fun a b _ => a * b),
   (.imad w, 4, 6, fun a b c => a * b + c), (.iabs w, 1, 2, fun a _ _ => if a < 0 then -a else a)]

/-- The bitwise and shift words on the w bits of A, and B (R134). -/
def bitWords (w : LaneOp) : List (Instr × (Word64 → Word64 → Word64)) :=
  [(.laneAnd w, fun a b => a &&& b), (.laneOr w, fun a b => a ||| b), (.laneXor w, fun a b => a ^^^ b), (.not w, fun a _ => ~~~a)]

/-- The f words of one operation, with their latencies (R138 to R142). -/
def floatWords (w : LaneOp) : List (Instr × Nat × (FVal → FVal → FVal → FRes)) :=
  let down := (w.mod.extractLsb' 6 2) == 2
  [(.fadd w, 4, fun a b _ => fpAdd down a b), (.fsub w, 4, fun a b _ => fpAdd down a (FVal.neg b)), (.fmul w, 4, fun a b _ => fpMul a b),
   (.ffma w, 4, fun a b c => fpFma down a b c), (.fdiv w, 12, fun a b _ => fpDiv a b), (.fsqrt w, 12, fun a _ _ => fpSqrt a),
   (.frcp w, 8, fun a _ _ => fpRcp a), (.frsq w, 8, fun a _ _ => fpRsq a), (.fex2 w, 8, fun a _ _ => fpEx2 a), (.flg2 w, 8, fun a _ _ => fpLg2 a),
   (.fsin w, 10, fun a _ _ => fpSin a), (.fcos w, 10, fun a _ _ => fpCos a), (.ftanh w, 10, fun a _ _ => fpTanh a)]

/-- The h words of one operation (R143). -/
def packedWords (w : LaneOp) : List (Instr × (FVal → FVal → FVal → FRes)) :=
  let down := (w.mod.extractLsb' 6 2) == 2
  [(.hadd w, fun a b _ => fpAdd down a b), (.hmul w, fun a b _ => fpMul a b), (.hfma w, fun a b c => fpFma down a b c)]

/-- One rounding of an exact result in a format, with the word's mode, `.sat` and `.ftz` (R52 to R56). -/
def rounded (f : Fmt) (w : LaneOp) (r : FRes) : Nat × BitVec 7 := f.write (w.mod.extractLsb' 6 2).toNat (w.mod.getLsbD 5) (w.mod.getLsbD 0) r

/-- An operand of a format read by the three steps of R138: flush, absolute value, negation. A uses bits 3 and 4 of mod8, B bits 1 and 2. -/
def datum (f : Fmt) (w : LaneOp) (neg abs : Nat) (x : Nat) : FVal :=
  f.decode (f.read (w.mod.getLsbD 0) (if neg = 0 then false else w.mod.getLsbD neg) (if abs = 0 then false else w.mod.getLsbD abs) x)

/-- One operation of a format on three patterns. -/
def computed (f : Fmt) (w : LaneOp) (op : FVal → FVal → FVal → FRes) (x y z : Nat) : Nat × BitVec 7 :=
  rounded f w (op (datum f w 3 4 x) (datum f w 1 2 y) (datum f w 0 0 z))

/-- Two results of 16 bits in one register (R47). -/
def pair16 (lo hi : Nat × BitVec 7) : Word64 × BitVec 7 := (BitVec.ofNat 64 (lo.1 + 65536 * hi.1), lo.2 ||| hi.2)

/-- A comparison by its code (R81). -/
def compared (mod : Nat) (x y : Int) : Prop :=
  (mod = 0 ∧ x = y) ∨ (mod = 1 ∧ x ≠ y) ∨ (mod = 2 ∧ x < y) ∨ (mod = 3 ∧ x ≤ y) ∨ (mod = 4 ∧ x > y) ∨ (mod = 5 ∧ x ≥ y) ∨ mod = 6

/-- The number of a direct register field. -/
def fieldNumber (o : Operand) : Nat := match o with | .mrf n => n.toNat | _ => 0

/-- The pass of a word across lanes acts at its last pass on all active lanes (R159). -/
def whole (q : Issue) : Issue := { q with lanes := q.full }

end Sys2Proof.Spec

/-- R131, R132: the integer arithmetic words land fit(x) of their exact results in every active lane, after the type's latency; `imulh`
lands bits 2w − 1:w of the product; `imin` and `imax` the smaller and the larger.
Completes: iadd, isub, imul, imulh, imad, iabs, imin, imax. -/
def Obligations.LaneIntegerArithmetic : Prop :=
  ∀ (s : State) (w : LaneOp) (q : Issue),
    let lam := fun (a b : Nat) => if w.typ.is64 then b else a
    let rd := fun (o : Operand) (j : Nat) => intOf w.typ (operand s w o j)
    let ends := fun (i : Instr) (a b : Nat) (f : Int → Int → Int → Int) =>
      landsIn s i q (lam a b) false w.d w.typ.is64 (fun j => (intRaw w.typ (f (rd w.a j) (rd w.b j) (rd w.c j)), 0))
    (∀ r ∈ exactWords w, issues s r.1 q → ∃ f, (∀ a b c, fits w (r.2.2.2 a b c) (f a b c)) ∧ ends r.1 r.2.1 r.2.2.1 f) ∧
    (issues s (.imulh w) q → ∃ f, (∀ a b c, fits { w with mod := 0 } (a * b / 2 ^ LType.width w.typ) (f a b c)) ∧ ends (.imulh w) 4 6 f) ∧
    (issues s (.imin w) q → ends (.imin w) 1 2 (fun a b _ => if a ≤ b then a else b)) ∧
    (issues s (.imax w) q → ends (.imax w) 1 2 (fun a b _ => if a ≤ b then b else a))

/-- R59: quotient, remainder and status of every division of a width: truncation towards zero, remainder with the sign of the dividend,
and the two defined cases. -/
def Sys2Proof.Spec.DivisionRule : Prop :=
  ∀ (w a b : Nat), 1 ≤ w → a < 2 ^ w → b < 2 ^ w →
    (b = 0 → ∀ signed, divide signed w a b = (2 ^ w - 1, a, stDZ)) ∧
    (b ≠ 0 → ∃ q r, divide false w a b = (q, r, 0) ∧ a = q * b + r ∧ r < b) ∧
    (b ≠ 0 → signedOf w a = -(2 ^ (w - 1)) → signedOf w b = -1 → 2 ≤ w → divide true w a b = (2 ^ (w - 1), 0, stOV)) ∧
    (b ≠ 0 → ¬ (signedOf w a = -(2 ^ (w - 1)) ∧ signedOf w b = -1) → 2 ≤ w → ∃ q r, divide true w a b = (q, r, 0) ∧
      signedOf w a = signedOf w q * signedOf w b + signedOf w r ∧ (signedOf w r).natAbs < (signedOf w b).natAbs ∧
      (signedOf w r = 0 ∨ (signedOf w r < 0 ↔ signedOf w a < 0)))

/-- R133 to R135: division, bitwise, shift, count and field words of the lanes. -/
def Sys2Proof.Spec.LaneBitsAndDivision : Prop :=
  ∀ (s : State) (w : LaneOp) (q : Issue),
    let wide := w.typ.is64
    let n := LType.width w.typ
    let lam := fun (a b : Nat) => if wide then b else a
    (∀ r ∈ [(Instr.idiv w, true), (Instr.irem w, false)], issues s r.1 q →
      landsIn s r.1 q (lam 16 32) true w.d wide (fun j =>
        let e := divide (LType.signed w.typ) n (operand s w w.a j).toNat (operand s w w.b j).toNat
        (intRaw w.typ (wrapTo w.typ (if r.2 then e.1 else e.2.1 : Nat)), e.2.2))) ∧
    (∀ r ∈ bitWords w, issues s r.1 q → landsIn s r.1 q 1 false w.d wide (fun j => (r.2 (operand s w w.a j) (operand s w w.b j), 0))) ∧
    (issues s (.laneShl w) q → landsIn s (.laneShl w) q (lam 1 2) false w.d wide (fun j =>
      (BitVec.ofNat 64 ((operand s w w.a j).toNat * 2 ^ (operand32 s w.b j % n)), 0))) ∧
    (issues s (.laneShr w) q → landsIn s (.laneShr w) q (lam 1 2) false w.d wide (fun j =>
      (BitVec.ofNat 64 ((operand s w w.a j).toNat / 2 ^ (operand32 s w.b j % n)), 0))) ∧
    (issues s (.laneSra w) q → landsIn s (.laneSra w) q (lam 1 2) false w.d wide (fun j =>
      (BitVec.ofInt 64 (signedOf n (operand s w w.a j).toNat / 2 ^ (operand32 s w.b j % n)), 0))) ∧
    (issues s (.lanePopc w) q → landsIn s (.lanePopc w) q 2 false w.d wide (fun j =>
      (BitVec.ofNat 64 ((List.range 64).countP (fun i => (operand s w w.a j).getLsbD i)), 0))) ∧
    (issues s (.laneClz w) q → ∃ f : Nat → Nat, (∀ x, x < 2 ^ n → f x ≤ n ∧ x < 2 ^ (n - f x) ∧ (x ≠ 0 → 2 ^ (n - f x - 1) ≤ x)) ∧
      landsIn s (.laneClz w) q 2 false w.d wide (fun j => (BitVec.ofNat 64 (f ((operand s w w.a j).toNat % 2 ^ n)), 0))) ∧
    (issues s (.bfe w) q → landsIn s (.bfe w) q (lam 2 3) false w.d wide (fun j =>
      let b := operand32 s w.b j
      (intRaw w.typ (wrapTo w.typ (extractField w.typ (operand s w w.a j).toNat (b % 256) (b / 256 % 256))), 0))) ∧
    (issues s (.bfi w) q → landsIn s (.bfi w) q (lam 2 3) false w.d wide (fun j =>
      let c := operand32 s w.c j
      (BitVec.ofNat 64 (insertField n (operand s w w.a j).toNat (operand s w w.b j).toNat (c % 256) (c / 256 % 256)), 0)))

/-- R135: the two bit-field functions, bit by bit, for fields of every position and length. -/
def Sys2Proof.Spec.BitFieldRule : Prop :=
  ∀ (t : LType) (a b pos len : Nat), pos < 256 → len < 256 →
    let n := LType.width t
    (∀ i, i < n → (insertField n a b pos len).testBit i = (if pos ≤ i ∧ i < pos + len then b.testBit (i - pos) else a.testBit i)) ∧
    insertField n a b pos len < 2 ^ n ∧
    (let bit := fun p => if p < n then a.testBit p else (LType.signed t && a.testBit (n - 1))
     let f := extractField t a pos len
     (len = 0 → f = 0) ∧ (∀ i, i < len → (f % 2 ^ len).toNat.testBit i = bit (pos + i)) ∧
     (0 < len → if LType.signed t then -(2 ^ (len - 1)) ≤ f ∧ f < 2 ^ (len - 1) else 0 ≤ f ∧ f < 2 ^ len))

/-- The statements `LaneBitsAndDivision`, `DivisionRule`, `BitFieldRule`, each as its docstring says.
Completes: idiv, irem, laneAnd, laneOr, laneXor, not, laneShl, laneShr, laneSra, lanePopc, laneClz, bfe, bfi. -/
def Obligations.LaneBitsAndFields : Prop := Spec.LaneBitsAndDivision ∧ Spec.DivisionRule ∧ Spec.BitFieldRule


/-- R136, R137, R157, R166, R151, R152: the words that copy, select, place an immediate, read or clear LSTAT, or draw a random number.
Completes: mov, movs, laneLi, sel, rdst, clst, rng. -/
def Obligations.LaneMoves : Prop :=
  (∀ (s : State) (w : LaneOp) (q : Issue),
    let wide := w.typ.is64
    (issues s (.mov w) q → landsIn s (.mov w) q 1 false w.d wide (fun j =>
      (if intAll.contains w.typ then intRaw w.typ (intOf w.typ (operand s w w.a j)) else operand s w w.a j, 0))) ∧
    (issues s (.movs w) q → landsIn s (.movs w) q 2 false w.d wide (fun j => (s.cur.readS (BitVec.ofNat 6 (operand32 s w.a j)), 0))) ∧
    (issues s (.sel w) q → landsIn s (.sel w) q (if wide then 2 else 1) false w.d wide (fun j =>
      (operand s w (if (sget s.cur.k 0 (fieldNumber w.c % 16)).getLsbD j then w.a else w.b) j, 0))) ∧
    (issues s (.rdst w) q → landsIn s (.rdst w) q 1 false w.d false (fun j => ((sget s.cur.lstat 0 j).zeroExtend 64, 0))) ∧
    (issues s (.clst w) q → exec (.clst w) s = .next (s.landed q (.clst w)
      { results s q 1 true (.special 0 0) false [] with cl := w.ext.extractLsb' 0 7 })) ∧
    (issues s (.rng w) q → w.typ ≠ .f32 → landsIn s (.rng w) q 4 false w.d false (fun j =>
      ((weevil32 (BitVec.ofNat 32 (operand32 s w.b j)) (readOperand s s.cur (s.teamOf s.cur) j true w.a)).zeroExtend 64, 0))) ∧
    (issues s (.rng w) q → w.typ = .f32 → landsIn s (.rng w) q 4 false w.d false (fun j =>
      let v := weevil32 (BitVec.ofNat 32 (operand32 s w.b j)) (readOperand s s.cur (s.teamOf s.cur) j true w.a)
      (BitVec.ofNat 64 (fmtF32.round 0 false false false (v.toNat / 2 ^ 8) (-24)).1, 0)))) ∧
  (∀ (s : State) (w : LiOp) (q : Issue), issues s (.laneLi w) q →
    landsIn s (.laneLi w) q 1 false w.d false (fun _ => (BitVec.ofNat 64 w.imm.toNat, 0)))

/-- R138 to R143: the f and h words read their operands with the flush, absolute and negate bits, compute one exact result, and land its one
rounding with its status; `fmin`, `fmax`, `hmin` and `hmax` land one operand.
Where the manual leaves a point open this follows the model's choice: log entry 22.
Completes: fadd, fsub, fmul, ffma, fmin, fmax, fdiv, fsqrt, frcp, frsq, fex2, flg2, fsin, fcos, ftanh, hadd, hmul, hfma, hmin, hmax. -/
def Obligations.LaneFloatingPoint : Prop :=
  ∀ (s : State) (w : LaneOp) (q : Issue),
    let v := fun (o : Operand) (j : Nat) => operand32 s o j
    let h := if w.typ = .f16x2 then fmtF16 else fmtBf16
    let two := fun (op : Nat → Nat → Nat → Nat × BitVec 7) (j : Nat) =>
      pair16 (op (v w.a j % 65536) (v w.b j % 65536) (v w.c j % 65536)) (op (v w.a j / 65536) (v w.b j / 65536) (v w.c j / 65536))
    let least := fun (f : Fmt) (m : Bool) (x y : Nat) => f.minMax m (f.read (w.mod.getLsbD 0) (w.mod.getLsbD 3) (w.mod.getLsbD 4) x)
      (f.read (w.mod.getLsbD 0) (w.mod.getLsbD 1) (w.mod.getLsbD 2) y)
    (∀ r ∈ floatWords w, issues s r.1 q → landsIn s r.1 q r.2.1 true w.d false (fun j =>
      let e := computed fmtF32 w r.2.2 (v w.a j) (v w.b j) (v w.c j)
      (BitVec.ofNat 64 e.1, e.2))) ∧
    (∀ r ∈ [(Instr.fmin w, false), (Instr.fmax w, true)], issues s r.1 q → landsIn s r.1 q 2 true w.d false (fun j =>
      let e := least fmtF32 r.2 (v w.a j) (v w.b j)
      (BitVec.ofNat 64 e.1, e.2))) ∧
    (∀ r ∈ packedWords w, issues s r.1 q → landsIn s r.1 q 4 true w.d false (two (computed h w r.2))) ∧
    (∀ r ∈ [(Instr.hmin w, false), (Instr.hmax w, true)], issues s r.1 q → landsIn s r.1 q 2 true w.d false (two (fun x y _ => least h r.2 x y)))

/-- R144 to R150: conversion, quantising and packing words land their results.
Where the manual leaves a point open this follows the model's choice: log entry 80.
Completes: cvt, qnt, dqn, pk6, up6, pk4, up4. -/
def Obligations.LaneConversion : Prop :=
  ∀ (s : State) (w : LaneOp) (q : Issue),
    let v := fun (o : Operand) (j : Nat) => operand32 s o j
    let one := convert (cvtSrc w) w.typ (w.mod.extractLsb' 6 2).toNat (w.mod.getLsbD 5) (w.mod.getLsbD 0)
    let val := fun (r : Nat × BitVec 7) => (BitVec.ofNat 64 r.1, r.2)
    let bits := if w.typ = .q3g then 3 else 4
    let set := fun (size width : Nat) (f : Nat → Nat → Nat) => ∀ j k, k < size →
      f j k = if q.lanes.getLsbD (j / size * size + k) then v w.a (j / size * size + k) % 2 ^ width else 0
    (issues s (.cvt w) q → landsIn s (.cvt w) q 3 true w.d w.typ.is64 (fun j =>
      let a := (readOperand s s.cur (s.teamOf s.cur) j (cvtSrc w).is64 w.a).toNat
      let b := (readOperand s s.cur (s.teamOf s.cur) j (cvtSrc w).is64 w.b).toNat
      if !(cvtSrc w).packed && !w.typ.packed then val (one a)
      else if !(cvtSrc w).packed then pair16 (one a) (one b)
      else if !w.typ.packed then val (one (if v w.b j = 0 then a % 65536 else a / 65536))
      else pair16 (one (a % 65536)) (one (a / 65536)))) ∧
    (issues s (.qnt w) q → landsIn s (.qnt w) q 6 true w.d false (fun j =>
      let r := quantise w.typ (w.mod.extractLsb' 6 2).toNat (datum fmtF32 w 0 0 (v w.a j)) (datum fmtF32 w 0 0 (v w.b j))
      (intRaw .i32 r.1, r.2))) ∧
    (issues s (.dqn w) q → landsIn s (.dqn w) q 4 true w.d false (fun j =>
      let k := signedOf bits (v w.a j)
      val (rounded fmtF32 w (fpMul (.fin (decide (k < 0)) k.natAbs 0) (datum fmtBf16 w 0 0 (v w.b j)))))) ∧
    (∀ r ∈ [(Instr.pk6 w, 4, 6), (Instr.pk4 w, 8, bits)], issues s r.1 q → ∃ f, set r.2.1 r.2.2 f ∧
      landsIn s r.1 q 3 false w.d false (fun j =>
        (BitVec.ofNat 64 (((List.range r.2.1).map (fun k => f j k * 2 ^ (r.2.2 * k))).sum), 0))) ∧
    (issues s (.up6 w) q → landsIn s (.up6 w) q 3 false w.d false (fun j => (BitVec.ofNat 64 (v w.a j / 2 ^ (6 * (j % 4)) % 2 ^ 6), 0))) ∧
    (issues s (.up4 w) q → landsIn s (.up4 w) q 3 false w.d false (fun j => (intRaw .i32 (signedOf bits (v w.a j / 2 ^ (bits * (j % 8)))), 0)))

/-- R153 to R158, R162: the words that write a mask land one bit in each active lane. -/
def Sys2Proof.Spec.LaneMaskWords : Prop :=
  ∀ (s : State) (w : LaneOp) (q : Issue),
    let k := fieldNumber w.d % 16
    let rd := fun (o : Operand) (j : Nat) => intOf w.typ (operand s w o j)
    (issues s (.icmp w) q → ∃ f : Nat → Bool, (∀ j, f j = true ↔ compared w.mod.toNat (rd w.a j) (rd w.b j)) ∧
      landsMask s (.icmp w) q (if w.typ.is64 then 3 else 2) k false (fun j => (f j, 0))) ∧
    (issues s (.fcmp w) q → landsMask s (.fcmp w) q 2 k true (fun j => fpCompare w.mod.toNat (operand32 s w.a j) (operand32 s w.b j))) ∧
    (issues s (.kwr w) q → landsMask s (.kwr w) q 2 k false (fun j => (decide (operand32 s w.a j ≠ 0), 0))) ∧
    (issues s (.vote w) q → q.final = true →
      ∃ p : Word64, (∀ j, j < 64 → p.getLsbD j = (q.full.getLsbD j && decide (operand s w w.a j ≠ 0))) ∧
        (w.mod.toNat = 0 → landsMask s (.vote w) (whole q) 3 k false (fun _ => (decide (p ≠ 0), 0))) ∧
        (w.mod.toNat = 1 → landsMask s (.vote w) (whole q) 3 k false (fun _ => (decide (p = q.full), 0))) ∧
        (w.mod.toNat = 2 → landsIn s (.vote w) (whole q) 3 false w.d w.typ.is64 (fun _ => (p, 0))))

/-- R159 to R161, R163 to R166 and the trees of R64 to R66: the words across lanes act at their last pass on all active lanes; an earlier
pass only issues. With `.ftz` an f32 leaf that is subnormal is read as a zero of its sign (R54). -/
def Sys2Proof.Spec.LaneCrossWords : Prop :=
  ∀ (s : State) (w : LaneOp) (q : Issue),
    let n := s.cur.width
    let wide := w.typ.is64
    let f32 := decide (w.typ = .f32)
    let lg := Nat.log2 n
    let lam := if f32 then 4 + 2 * lg else 2 + lg
    let tree := fun (op : Nat) => combine w.typ op (w.mod.extractLsb' 6 2).toNat (w.mod.getLsbD 0)
    let flush := fun (x : Word64) => if w.typ = .f32 ∧ w.mod.getLsbD 0 = true then BitVec.ofNat 64 (fmtF32.read true false false x.toNat) else x
    let leaf := fun (op : Nat) => (List.range n).map (fun j =>
      (if q.full.getLsbD j then flush (operand s w w.a j) else identityOf w.typ op, (0 : BitVec 7)))
    let b := fun (j : Nat) => operand32 s w.b j
    let gathers := fun (i : Instr) (src : Nat → Nat) => q.full ≠ 0 → ∃ o, (s.pushOp o).ops = s.ops ++ [o] ∧ o.gid = s.cur.gid ∧ o.kind = .gather ∧
      o.seq = q.run.seq ∧ o.side = q.side.side ∧ o.dst = fieldNumber w.d ∧ o.lanes.map (fun l => (l.lane, l.rd)) =
        (lanesOf q.full).map (fun j => (j, toBytes (if wide then 8 else 4) (operand s w w.a (src j)).toNat)) ∧
      exec i s = .next ((s.pushOp o).issued (whole q) i)
    (∀ i ∈ [Instr.shfl w, .bcast w, .vote w, .radd w, .rmin w, .rmax w, .scan w], issues s i q → q.final = false →
      exec i s = .next (s.issued q i)) ∧
    (issues s (.shfl w) q → q.final = true → gathers (.shfl w) (fun j =>
      if w.mod.toNat = 0 then b j % n
      else if w.mod.toNat = 1 then (if j < b j then j else j - b j)
      else if w.mod.toNat = 2 then (if n ≤ j + b j then j else j + b j)
      else j ^^^ b j % n)) ∧
    (issues s (.bcast w) q → q.final = true → gathers (.bcast w) (fun j => b j % n)) ∧
    (∀ r ∈ [(Instr.radd w, 0), (Instr.rmin w, 1), (Instr.rmax w, 2)], issues s r.1 q → q.final = true →
      landsIn s r.1 (whole q) lam f32 w.d wide (fun _ => treeRoot (tree r.2) lg (leaf r.2))) ∧
    (issues s (.scan w) q → q.final = true →
      let op := (w.mod.extractLsb' 4 2).toNat
      landsIn s (.scan w) (whole q) lam f32 w.d wide (fun j => (prefixFrom (tree op) lg 1 (leaf op)).getD j (0, 0)))

/-- The statements `LaneMaskWords`, `LaneCrossWords`, each as its docstring says.
Where the manual leaves a point open this follows the model's choice: log entries 27, 79 and 82.
Completes: icmp, fcmp, kwr, vote, shfl, bcast, radd, rmin, rmax, scan. -/
def Obligations.LaneMasksAndCrossing : Prop := Spec.LaneMaskWords ∧ Spec.LaneCrossWords


namespace Sys2Proof.Spec

/-! Memory words and what happens at the homes. -/

/-- The lane memory words, with their kinds and the bytes of one access (R84, R199 to R204). -/
def memoryWords (w : MemOp) : List (Instr × OpKind × Nat) :=
  let n := match w.width with | .b1 => 1 | .b2 => 2 | .b4 => 4 | .b8 => 8 | .b16 => 16
  [(.ld w, .load, n), (.st w, .store, n), (.ldF w, .ldF, n), (.ldFe w, .ldFe, n), (.stEf w, .stEf, n), (.stF w, .stF, n), (.feSet w, .feSet, n),
   (.feClr w, .feClr, n), (.feProbe w, .feProbe, n), (.pref w, .pref, n), (.pin w, .pin, 4), (.unpin w, .unpin, 4), (.lrefill w, .lrefill, 8)]

/-- The effective address of a lane, views apart (R177): wrapped in global space, exact in the scratchpad. -/
def addressOk (s : State) (w : MemOp) (l : LaneReq) : Prop :=
  let lo := (s.cur.readV l.lane w.a.toNat).toNat
  let hi := (s.cur.readV l.lane (w.a.toNat + 1)).toNat
  match w.space with
  | .scratch => l.ea = lo + w.off.toInt
  | .view => True
  | _ => l.ea = (lo + 2 ^ 32 * hi + w.off.toInt) % 2 ^ 64

/-- An operation that carries a lane memory word of a pass: its lanes are `lanes`, its destination and data register is D. -/
def carries (s : State) (q : Issue) (w : MemOp) (k : OpKind) (n : Nat) (lanes : List LaneReq) (o : Op) : Prop :=
  o.id = s.nextId ∧ o.gid = s.cur.gid ∧ o.scalar = false ∧ o.seq = q.run.seq ∧ o.side = q.side.side ∧ o.run = q.side.idx ∧ o.word = q.side.wi ∧
    o.kind = k ∧ o.space = w.space ∧ o.order = w.order.toNat ∧ o.scope = w.scope.toNat ∧ o.typ = w.typ ∧ o.nbytes = n ∧ o.dst = w.d.toNat ∧
    o.lanes = lanes ∧ o.checked = false ∧ o.asked = false ∧ o.floor = s.cur.acqfloor ∧ o.bound = s.cur.febound.toNat

/-- An operation that carries a scalar access at its PC (R104, R114, R115). -/
def carriesScalar (s : State) (k : OpKind) (sp : Space) (d a : BitVec 6) (i : BitVec 14) (ea : Nat) (p : Page) (o : Op) : Prop :=
  o.id = s.nextId ∧ o.gid = s.cur.gid ∧ o.scalar = true ∧ o.seq = s.cur.seqNext ∧ o.pc = s.cur.pc ∧ o.kind = k ∧ o.space = sp ∧ o.order = 0 ∧
    o.scope = 2 ∧ o.nbytes = 8 ∧ o.dst = d.toNat ∧ o.base = a.toNat ∧ o.off = i.signExtend 64 ∧ o.asked = false ∧ ∃ l, o.lanes = [l] ∧ l.ea = ea ∧ l.xl = .ok p ∧ l.stage = .wait ∧
      (k = .store → l.data = toBytes 8 (s.cur.readS d).toNat)

/-- The state after a scalar word whose place in program order is taken: the stream goes on (R104). -/
def placed (s : State) : State :=
  { s with cur := { s.cur with pc := s.cur.pc + 1, sready := s.cycle + 1, seqNext := s.cur.seqNext + 1 } }

/-- The same after an `sldp`, whose result takes at least 6 cycles (R103, R115). -/
def placedPad (s : State) (d : BitVec 6) : State :=
  { placed s with cur := { (placed s).cur with sboard := if d = 0 then s.cur.sboard else sset s.cur.sboard 0 d.toNat (s.cycle + 6) } }

/-- The visibility instant of a write (R208): the latest of its arrival, the region's leases, and P + 1, which `lastV` holds for each byte
that has been written. -/
def visibleAt (s : State) (pa n v : Nat) : Prop :=
  s.homeTime pa ≤ v ∧ sget s.leases 0 (pa / 128) ≤ v ∧ (∀ i, i < n → sget s.lastV 0 (pa + i) ≤ v) ∧
    (v = s.homeTime pa ∨ v = sget s.leases 0 (pa / 128) ∨ ∃ i, i < n ∧ v = sget s.lastV 0 (pa + i))

/-- What the lanes of a word have read once this pass has: those of an earlier pass, then those of this one (R27). -/
def readLanes (q : Issue) (form : Nat → LaneReq) : List LaneReq :=
  (if q.side.pass = 1 then q.side.half else []) ++ (lanesOf q.lanes).map form

/-- The state after the first of two passes, which has read its lanes (R27). -/
def halfRead (s : State) (q : Issue) (i : Instr) (ls : List LaneReq) : State :=
  State.issued { s with cur := s.cur.modSide q.run.seq q.side.side (fun d => { d with half := ls }) } q i

/-- The word on the lanes that its passes have read. -/
def onLanes (q : Issue) (ls : List LaneReq) : Issue := { q with lanes := maskOf (ls.map (fun l => l.lane)) }

/-- No lane of the operation has met an uncorrectable error. -/
def errorFree (o : Op) : Prop := ∀ l ∈ o.lanes, l.stage ≠ .err

/-- The value that an Ant leaves in an integer word of w bits (R304); c is the comparison operand of cas. -/
def antInteger (w m v c : Nat) : List Nat :=
  let sm := signedOf w m
  let sv := signedOf w v
  [(m + v) % 2 ^ w, if sv < sm then v else m, if sm < sv then v else m, if m ≤ v then m else v, if m ≤ v then v else m, m &&& v, m ||| v, m ^^^ v,
   v, if m = c then v else m, if m ≥ v then 0 else m + 1, if m = 0 ∨ m > v then v else m - 1]

end Sys2Proof.Spec

/-- R114 to R116, R104: the scalar memory words. An access that passes its checks takes its place in program order and goes as far as it may
at once; one that fails a check raises that fault and nothing else happens.
Where the manual leaves a point open this follows the model's choice: log entry 83.
Completes: sld, sst, sldp, sstp. -/
def Obligations.ScalarMemoryWord : Prop :=
  ∀ (s : State) (d a : BitVec 6) (i : BitVec 14), s.cur.live = true →
    let ea := (s.cur.readS a + i.signExtend 64).toNat
    (∀ r ∈ [(Instr.sld d a i, OpKind.load), (.sst d a i, .store)], (r.2 = .load → mayWriteS s d = true) →
      (∀ p t, scalarReach s s.cur r.2 ea = (.ok p, t) →
        ∃ o, carriesScalar t r.2 .global d a i ea p o ∧ exec r.1 s = .next (launchOp (placed t) o)) ∧
      (∀ c t, scalarReach s s.cur r.2 ea = (.error c, t) → exec r.1 s = .next (raiseScalar t c ea)) ∧
      (ea % 8 ≠ 0 ∨ 2 ^ 60 ≤ ea → exec r.1 s = .next (raiseScalar s .access ea))) ∧
    (∀ r ∈ [(Instr.sldp d a i, OpKind.load), (.sstp d a i, .store)], (r.2 = .load → mayWriteS s d = true) →
      (ea % 8 ≠ 0 → exec r.1 s = .next (raiseScalar s .access ea)) ∧
      (ea % 8 = 0 → (s.teamOf s.cur).scrSize < ea + 8 → exec r.1 s = .next (raiseScalar s .scrBounds 0)) ∧
      (ea % 8 = 0 → ea + 8 ≤ (s.teamOf s.cur).scrSize →
        ∃ o, carriesScalar s r.2 .scratch d a i ea scratchPage o ∧
          exec r.1 s = .next (launchOp (if r.2 = .load then placedPad s d else placed s) o)))

/-- R177, R187, R199 to R204, R206, R27: each pass of a lane memory word forms one lane of an access in every lane that is active in its half. If
no lane fails, the last pass enters the operation into the machine, and the word has issued; if one does and none still needs a walk, that
fault is raised at the word.
Where the manual leaves a point open this follows the model's choice: log entries 27, 40 and 77.
Completes: ld, st, ldF, ldFe, stEf, stF, feSet, feClr, feProbe, pref, pin, unpin, lrefill. -/
def Obligations.LaneMemoryWord : Prop :=
  ∀ (s : State) (w : MemOp) (q : Issue), ∀ r ∈ memoryWords w, issues s r.1 q →
    let form := formLane s w r.2.1 r.2.2
    let ls := readLanes q form
    let stopped := r.2.1 = .pref ∧ s.tstepOf s.cur.vf ≠ 0
    (∀ j, addressOk s w (form j)) ∧
    (q.final = false → exec r.1 s = .next (halfRead s q r.1 ls)) ∧
    (q.final = true → ls = [] ∨ stopped → exec r.1 s = .next (s.issued (onLanes q ls) r.1)) ∧
    (q.final = true → ls ≠ [] → ¬ stopped → (firstCode ls = none ∨ (∃ l ∈ ls, l.unresolved = true) ∨ r.2.1 = .pref) →
      ∃ o, carries s q w r.2.1 r.2.2 ls o ∧ exec r.1 s = .next ((launchOp s o).issued (onLanes q ls) r.1)) ∧
    (q.final = true → r.2.1 ≠ .pref → (∀ l ∈ ls, l.unresolved = false) → ∀ c bad, firstCode ls = some (c, bad) →
      ∃ addr, exec r.1 s = .next (raiseWord s (onLanes q ls) c (maskOf (bad.map (fun l => l.lane))) addr))

/-- R298, R299, R301, R302, R307, R27: an atomic or reduction is translated at issue; it enters the machine when every request has an entry (and
every lane its return slot, for `atom`), and parks its run otherwise; a lane that fails is a fault of the word. -/
def Sys2Proof.Spec.AtomicWord : Prop :=
  ∀ (s : State) (w : MemOp) (q : Issue), ∀ r ∈ [(Instr.atom w, OpKind.atom w.mod, true), (.red w, .red w.mod, false)], issues s r.1 q →
    let n := if w.typ.is64 then 8 else 4
    let ls := readLanes q (formLane s w r.2.1 n)
    let e := atomLanes s r.2.1 n ls
    let mayGo := entriesFree e.2 e.2.cur (homesOf e.1).length = true ∧ (r.2.2 = true → Machine.slotsHeld e.2 e.2.cur e.1 = false)
    (q.final = false → exec r.1 s = .next (halfRead s q r.1 ls)) ∧
    (q.final = true → ls = [] → exec r.1 s = .next (s.issued (onLanes q ls) r.1)) ∧
    (q.final = true → ls ≠ [] → firstCode e.1 = none → mayGo →
      ∃ o, carries e.2 q w r.2.1 n e.1 o ∧ exec r.1 s = .next ((launchOp e.2 o).issued (onLanes q ls) r.1)) ∧
    (q.final = true → ls ≠ [] → firstCode e.1 = none → ¬ mayGo → exec r.1 s = .next (park e.2 (onLanes q ls))) ∧
    (q.final = true → ∀ c bad, firstCode e.1 = some (c, bad) →
      ∃ addr, exec r.1 s = .next (raiseWord e.2 (onLanes q ls) c (maskOf (bad.map (fun l => l.lane))) addr))

/-- R304: what every integer sub-operation of the Ant leaves in a word of 32 or 64 bits. -/
def Sys2Proof.Spec.AntOperationRule : Prop :=
  ∀ (t : LType) (n m v c : Nat), (n = 4 ∨ n = 8) → m < 2 ^ (8 * n) → v < 2 ^ (8 * n) → t ≠ .f32 →
    ∀ r ∈ [0x0, 0x2, 0x3, 0x4, 0x5, 0x6, 0x7, 0x8, 0x9, 0xA, 0xB, 0xC].zip (antInteger (8 * n) m v c),
      antApply r.1 t n m v c = r.2 ∧ r.2 < 2 ^ (8 * n)

/-- The statements `AtomicWord`, `AntOperationRule`, each as its docstring says.
Where the manual leaves a point open this follows the model's choice: log entries 27, 42 and 43.
Completes: atom, red. -/
def Obligations.AtomicWords : Prop := Spec.AtomicWord ∧ Spec.AntOperationRule


/-- R206 to R212, R300: what happens at the homes. A read performs and returns memory's bytes; a store arrives and gets its instant; the
earliest visible write is put in place; blocks near their lease end become stale; a request reaches its Ant, which returns the value that
the home serial order leaves and orders the new one. -/
def Sys2Proof.Spec.HomeEvents : Prop :=
  (∀ (s : State) (op lane : Nat) g o l p, readyLane s op lane = some (g, o, l, p) → o.kind = .load → inScratch s g o.space = false →
    p.ptype = 0 → p.pa % 16 + o.nbytes ≤ 16 → hasErr s p.pa o.nbytes = false → errorFree o → s.olds = [] → (o.lanes.map (·.lane)).Nodup →
    (∀ m ∈ sectorLanes o (p.pa / 16), orderOk s g o m = true) →
    ∃ t, exec (.homeRead op lane) s = .next t ∧ t.mem = s.mem ∧ t.writes = s.writes ∧
      ∃ o' ∈ t.ops, o'.id = op ∧ ∃ l' ∈ o'.lanes, l'.lane = lane ∧ l'.stage = .done ∧ l'.rd = readBytes s.mem p.pa o.nbytes) ∧
  (∀ (s : State) (op lane : Nat) g o l p, readyLane s op lane = some (g, o, l, p) → o.kind = .store → inScratch s g o.space = false →
    p.ptype = 0 →
    ∃ t w, exec (.homeWriteArrival op lane) s = .next t ∧ t.mem = s.mem ∧ t.writes = s.writes ++ [w] ∧ w.pa = p.pa ∧ w.bytes = l.data ∧
      visibleAt s p.pa l.data.length w.v) ∧
  (∀ (s : State) w, firstWrite s = some w → w.keep = [] → (∀ id j o, w.ref = .op id j → s.op? id = some o → errorFree o) →
    ∃ t, exec .writeVisible s = .next t ∧ t.writes = s.writes.filter (fun x => x.id != w.id) ∧ t.mem = writeBytes s.mem w.pa w.bytes ∧
      (Memory.wf s.mem = true → ∀ a, (a < w.pa ∨ w.pa + w.bytes.length ≤ a) → sget t.mem 0 a = sget s.mem 0 a)) ∧
  (∀ (s : State) (core region : Nat), exec (.leaseExpiry core region) s = .next (s.modCore core (fun c =>
    { c with l1 := c.l1.map (fun b => if b.region = region ∧ b.leaseEnd ≤ s.time (core / 128) + 2 then { b with stale := true } else b) }))) ∧
  (∀ (s : State) (op home : Nat) g o l p, requestLanes s op home = some (g, o, [l]) → l.xl = .ok p → p.ptype ≠ 2 →
    hasErr s p.pa o.nbytes = false → errorFree o →
    ∃ t w, exec (.antRequest op home) s = .next t ∧ t.mem = s.mem ∧ t.writes = s.writes ++ [w] ∧ w.pa = p.pa ∧
      w.bytes = toBytes o.nbytes (antApply o.kind.sub o.typ o.nbytes (ofBytes (homeBytes s p.pa o.nbytes)) (ofBytes l.data) (ofBytes l.cmp)) ∧
      visibleAt s p.pa o.nbytes w.v ∧
      ∃ o' ∈ t.ops, o'.id = op ∧ ∃ l' ∈ o'.lanes, l'.lane = l.lane ∧ l'.stage = .sent w.v ∧ l'.rd = homeBytes s p.pa o.nbytes)

/-- R206, R214, R215: a finished access reaches its group, and the operation is gone. A scalar load's register holds the bytes read, low first;
in each lane that has performed, the consecutive registers of a load or an atomic hold its bytes, four to a register, and every other lane
register is as it was; an access without a result writes none. The release horizon moves up to the completion time, and an acquire holds
later accesses until 2 ticks after it. -/
def Sys2Proof.Spec.AccessReachesGroup : Prop :=
  ∀ (s : State) (op : Nat) o g, s.op? op = some o → s.group? o.gid = some g → o.finished = true →
    let done := fun (l : LaneReq) (i : Nat) => l ∈ o.lanes ∧ l.stage = .done ∧ 4 * i < l.rd.length
    ∃ t g', exec (.accessComplete op) s = .next t ∧ t.mem = s.mem ∧ (∀ a ∈ t.ops, a.id ≠ op) ∧ t.group? o.gid = some g' ∧
      g'.hd = max g.hd o.vmax ∧ g'.pc = g.pc ∧ g'.acqfloor = (if o.order % 2 = 1 then max g.acqfloor (s.timeOf g + 2) else g.acqfloor) ∧
      (o.kind.hasResult = false → g'.s = g.s ∧ g'.v = g.v) ∧ (o.scalar = true → g'.v = g.v) ∧ (o.scalar = false → g'.s = g.s) ∧
      (smapWf 0 g.s = true → o.scalar = true → ∀ l, o.kind = .load → o.lanes = [l] → l.stage = .done → o.dst ≠ 0 → o.dst < 64 → ∀ n : BitVec 6,
        g'.readS n = if n.toNat = o.dst then BitVec.ofNat 64 (ofBytes l.rd) else g.readS n) ∧
      (smapWf 0 g.v = true → o.scalar = false → o.kind.hasResult = true → (o.lanes.map (·.lane)).Nodup →
        (∀ l i, done l i → o.dst + i < 256) →
        (∀ l i, done l i → sget g'.v 0 (256 * l.lane + o.dst + i) = BitVec.ofNat 32 (ofBytes ((l.rd.drop (4 * i)).take 4))) ∧
        ∀ key, (∀ l i, done l i → key ≠ 256 * l.lane + o.dst + i) → sget g'.v 0 key = sget g.v 0 key)

/-- The statements `HomeEvents`, `AccessReachesGroup`, each as its docstring says.
Where the manual leaves a point open this follows the model's choice: log entries 6 and 19.
Completes: homeRead, homeWriteArrival, writeVisible, leaseExpiry, antRequest, accessComplete. -/
def Obligations.MemoryHomes : Prop := Spec.HomeEvents ∧ Spec.AccessReachesGroup


/-- R181, R182, R185, R186: a walk's leaf goes to the TLBs of the waiting operations, or their lanes take the code at which it ends; the host's
answer grants a page or refuses it, and every operation of the function is examined again, the lanes that waited for a refused page with an
XLATE; an invalidation removes every entry that covers the address, and its ATS translation (R420), and stays pending while an access uses
the page that it names.
Where the manual leaves a point open this follows the model's choice: log entries 17 and 37.
Completes: pageWalk, priResponse, translationInvalidation. -/
def Obligations.TranslationEvents : Prop :=
  (∀ (s : State) (vf : Nat) (va : Word64) e l, walk s vf va.toNat = .ok (e, l) →
    let waits := (opsOfVf s vf).filter (fun x => x.1.lanes.any (onPage va.toNat l))
    let entry : TlbEntry := { vf := vf, level := l, vpn := va.toNat / 2 ^ pageBits l, entry := e }
    exec (.pageWalk vf va) s = .next (waits.foldl (fun t x => examine t x.1.id) (waits.foldl (fun t x => tlbInsert t x.2 entry) s))) ∧
  (∀ (s : State) (vf : Nat) (va : Word64) c, walk s vf va.toNat = .error c →
    let waits := (opsOfVf s vf).filter (fun x => x.1.lanes.any (onPage va.toNat 0))
    exec (.pageWalk vf va) s = .next (waits.foldl (fun t x => examine (t.modOp x.1.id (fun o =>
      { o with lanes := mapIf o.lanes (onPage va.toNat 0) (fun l => { l with xl := .bad c }) })) x.1.id) s)) ∧
  (∀ (s : State) (vf page : Nat) (granted : Bool), (vf, page) ∈ s.priReqs →
    let t : State := { s with
      priReqs := s.priReqs.filter (· ≠ (vf, page)), atsPages := if granted then s.atsPages ++ [(vf, page)] else s.atsPages
      priEngines := s.priEngines.filter (· ≠ (vf, page))
      priRefused := if granted = false ∧ (vf, page) ∈ s.priEngines then s.priRefused ++ [(vf, page)] else s.priRefused }
    let here := fun (l : LaneReq) => decide (l.stage = .pri) && (match l.xl with | .ok p => decide (p.pa / 4096 = page) | _ => false)
    let refused := fun (o : Op) => { o with lanes := mapIf o.lanes here (fun l => { l with xl := .bad .xlate, stage := .wait }) }
    exec (.priResponse vf page granted) s = .next ((opsOfVf s vf).foldl (fun t x =>
      examine (if granted then t else t.modOp x.1.id refused) x.1.id) t)) ∧
  (∀ (s : State) (vf page : Nat) o core l p g, (vf, page) ∈ s.priReqs → opsOfVf s vf = [(o, core)] → s.op? o.id = some o → s.group? o.gid = some g →
    g.vf = vf → o.kind = .load → o.checked = false → o.held = false → o.lanes = [l] → l.stage = .pri → l.xl = .ok p → p.ptype = 1 →
    p.pa / 4096 = page → ∃ t, exec (.priResponse vf page true) s = .next t ∧ t.mem = s.mem ∧
      ∃ o', t.op? o.id = some o' ∧ o'.checked = true ∧ o'.lanes = [{ l with stage := .wait }]) ∧
  (∀ (s : State) (vf : Nat) (va : Word64), (∀ e ∈ s.invals, ¬ (e.1 = vf ∧ e.2.1 = va)) → let l := namedLevel s vf va.toNat
    ∃ t, exec (.translationInvalidation vf va) s = .next t ∧ t.mem = s.mem ∧ t.ops = s.ops ∧
    (∀ k ∈ t.cores, ∀ e ∈ k.2.tlb, e.covers vf va.toNat = false) ∧ (∀ k ∈ t.tlb2, ∀ e ∈ k.2, e.covers vf va.toNat = false) ∧
    t.invals = s.invals ++ (if usesPage s vf va.toNat l then [(vf, va, l)] else []) ∧
    (vf, va.toNat / 4096) ∉ t.atsPages ∧ (∀ p ∈ t.atsPages, p ∈ s.atsPages) ∧ (∀ p ∈ s.atsPages, p.1 ≠ vf → p ∈ t.atsPages))

namespace Sys2Proof.Spec

/-! Runs, fences, barriers, and taking a fault. -/

/-- A token is pending or still to be assigned by a run enqueued earlier (R119, R34). -/
def tokenOwed (s : State) (n : Nat) : Prop :=
  (∃ d ∈ s.cur.sides, d.tr.tok.toNat = n ∧ (d.issued = true → d.retired = false)) ∨ ∃ e ∈ s.cur.queue, n ∈ entryTokens s s.cur e

/-- A new entry of the run queue: nothing of its runs is fetched (R117, R118, R286). -/
def newEntry (s : State) (e : Entry) (pair : Bool) (a b : Nat) (k : BitVec 4) (await : BitVec 8) (lb : Bool) : Prop :=
  e.seq = s.cur.seqNext ∧ e.pair = pair ∧ e.idxA = a ∧ e.idxB = b ∧ e.k4 = k ∧ e.await = await ∧ e.lb = lb ∧ e.code = none ∧ e.since = none

/-- The state in which the scalar stream waits. -/
def stalled (s : State) (w : Stall) : State := { s with cur := { s.cur with stall := w } }

/-- The state at the end of a fence at a time: ACQFLOOR is that time (R217). -/
def fencedAt (s : State) (t : Nat) : State :=
  { s with cur := { s.cur with pc := s.cur.pc + 1, sready := s.cycle + 1, acqfloor := t, stall := .none } }

/-- The state at the end of an xfence at a time: ACQFLOOR is that time, and so is the staging time of path P, where P is another path than Q and
has none later (R221). -/
def xfencedAt (s : State) (t p : Nat) (differ : Bool) : State :=
  let g := (fencedAt s t).cur
  { s with cur := if differ then { g with
      stamp0 := if p = 0 then max g.stamp0 t else g.stamp0, stamp1 := if p = 1 then max g.stamp1 t else g.stamp1
      stamp2 := if p = 2 then max g.stamp2 t else g.stamp2, stamp3 := if 3 ≤ p then max g.stamp3 t else g.stamp3 } else g }

/-- The state of a barrier slot after arrivals or a new EXPECT: the count saturates at 2^40 − 1, and phases complete (R382). -/
def arrivedBar (b : Bar) (n : Nat) : Bar :=
  let x := min (b.arrived + n) (2 ^ 40 - 1)
  if b.expect = 0 then { b with arrived := x }
  else { b with arrived := x % b.expect, phase := (b.phase + x / b.expect) % 2 ^ 32 }

/-- A register value names a slot that the team holds (R384). -/
def namesSlot (s : State) (x : Word64) (n : Nat) : Prop :=
  x.toNat % 2 ^ 32 = n ∧ n < 32 ∧ n < (s.teamOf s.cur).bars.length

/-- The wait for a phase is satisfied: the slot has passed it by at most 2^31 phases (R388). -/
def phasePassed (b : Bar) (p : Nat) : Prop := 1 ≤ (b.phase + 2 ^ 32 - p % 2 ^ 32) % 2 ^ 32 ∧ (b.phase + 2 ^ 32 - p % 2 ^ 32) % 2 ^ 32 ≤ 2 ^ 31

/-- A scalar register after a write (R100). -/
def writtenS (g : Group) (m : SMap Word64) (d : BitVec 6) (v : Word64) : Prop := m = if d = 0 then g.s else sset g.s 0 d.toNat v

/-- GSTAT after a fault that was resolved without a halt: LASTF is its code, LFV is 1 (R169). -/
def lastFault (x : Word64) (c : Code) : Word64 := (x &&& ~~~0xFF80) ||| BitVec.ofNat 64 (c.num * 256 + 128)

/-- A group whose head has no age: it is not Ready while a fault is open (R287). -/
def noAge (g : Group) : Group := { g with queue := match g.queue with | [] => [] | e :: r => { e with since := none } :: r }

/-- The fault that containment takes next from those raised to a group (R370). -/
def takenNext (s : State) (g : Group) (fr : FaultRec) : Prop := leastBy (faultKey s) g.heldFaults = some fr

/-- A group that has one undecided fault less. -/
def without (g : Group) (fr : FaultRec) : Group := { g with heldFaults := g.heldFaults.erase fr }

/-- Writes on their way that carry a string of bytes from an address on, each after the one before. -/
def covers : Nat → List Byte → List PWrite → Prop
  | _, b, [] => b = []
  | a, b, w :: r => w.pa = a ∧ w.keep = [] ∧ w.bytes ≠ [] ∧ w.bytes = b.take w.bytes.length ∧ covers (a + w.bytes.length) (b.drop w.bytes.length) r

/-- No two resident groups share a number. -/
def gidsDiffer (s : State) : Prop := (if s.cur.live then s.cur :: s.others else s.others).Pairwise (fun g h => g.gid ≠ h.gid)

/-- The tables of partitions and of virtual devices are in canonical form, and within the package's numbers. -/
def tablesOk (s : State) : Prop := smapWf Part.reset s.parts = true ∧ smapWf VDev.reset s.vdevs = true

/-- The word's fault as raised at the current PC (R373). -/
def faultHere (s : State) (c : Code) (addr : Nat) : FaultRec :=
  { code := c, src := .scalar, pc := s.cur.pc, lane := false, run := 0, word := 0, side := 0, lmask := 0, faddr := BitVec.ofNat 64 addr
    gtime := s.timeOf s.cur, imm := 0, isBrk := false, prog := 0, level := 0 }

end Sys2Proof.Spec

/-- R117 to R119, R34, R102, R286: `run` and `run2` append an entry to a run queue of 8 and wait while it is full; `wait` passes once none of
its tokens is pending or still to be assigned.
Where the manual leaves a point open this follows the model's choice: log entries 4 and 21.
Completes: run, run2, wait. -/
def Obligations.RunQueueWord : Prop :=
  ∀ (s : State) (w : BitVec 8) (l : BitVec 1) (i : BitVec 17) (k : BitVec 4) (a b : BitVec 6), s.cur.live = true →
    (∀ r ∈ [(Instr.run w l i, false, i.toNat, 0, (0 : BitVec 4), l == 1), (.run2 w k a b, true, (s.cur.readS a).toNat, (s.cur.readS b).toNat, k, false)],
      (s.cur.queue.length < 8 → ∃ e, newEntry s e r.2.1 r.2.2.1 r.2.2.2.1 r.2.2.2.2.1 w r.2.2.2.2.2 ∧ ∃ n, exec r.1 s = .next { s with
        fresh := n, cur := { s.cur with pc := s.cur.pc + 1, sready := s.cycle + 1, seqNext := s.cur.seqNext + 1, queue := s.cur.queue ++ [e] } }) ∧
      (8 ≤ s.cur.queue.length → exec r.1 s = .next (waited s))) ∧
    ((∀ n, n < 8 → w.getLsbD n = true → ¬ tokenOwed s n) → exec (.wait w) s = .next (passed s)) ∧
    ((∃ n, n < 8 ∧ w.getLsbD n = true ∧ tokenOwed s n) → exec (.wait w) s = .next (waited s))

/-- R214, R217, R221: `fence` and `xfence` wait for the runs, scalar accesses and scratchpad copies before them, then to the tick after which
every write they order is visible, and leave that tick in ACQFLOOR; `fence.sys` first sends its tokens and flush read.
Completes: fence, xfence. -/
def Obligations.FenceWord : Prop :=
  ∀ (s : State) (c q p : BitVec 2), s.cur.live = true →
    let pending := fun (u : State) => u.hdPending u.cur.gid
    (earlierDone s s.cur = false → exec (.fence c) s = .next (waited s) ∧ exec (.xfence q p) s = .next (waited s)) ∧
    (earlierDone s s.cur = true →
      (c ≠ 3 →
        let t := max (s.cur.hd + 2) s.cur.acqfloor
        exec (.fence c) s = .next (if pending s then waited s else if t ≤ s.timeOf s.cur then fencedAt s t else stalled s (.horizon t .fence))) ∧
      (let e := sendTokens s ((s.partOfVf s.cur.vf).getD 0)
       let t := max (max e.2.cur.hd e.2.cur.hs + 2) e.2.cur.acqfloor
       exec (.fence 3) s = .next (
         if e.1 ≠ [] then stalled e.2 (.fenceSys e.1) else if pending e.2 then waited e.2
         else if t ≤ e.2.timeOf e.2.cur then fencedAt e.2 t else stalled e.2 (.horizon t .fence))) ∧
      (let t := max (max (s.timeOf s.cur + 2) (s.cur.horizon q.toNat + 2)) s.cur.acqfloor
       exec (.xfence q p) s = .next (if q = 0 ∧ pending s then waited s else stalled s (.horizon t (.xfence p.toNat (q != p))))))

/-- R381 to R388: `bar.init`, `bar.arr`, `bar.exp` and `bar.wait` on a slot that the team holds. Only the named slot of the team changes. A
`bar.arr` waits for its release; a satisfied `bar.wait` ends in the next cycle. -/
def Sys2Proof.Spec.BarrierWord : Prop :=
  ∀ (s : State) (a b : BitVec 6) (n : Nat), s.cur.live = true → s.cur.stall = .none → namesSlot s (s.cur.readS a) n →
    let x := s.cur.readS a
    let y := s.cur.readS b
    let bars := (s.teamOf s.cur).bars
    let bar := bars.getD n Bar.reset
    (y.toNat < 2 ^ 41 → ∃ t, exec (.barInit a b) s = .next t ∧ t.cur = (passed s).cur ∧ t.mem = s.mem ∧
      (t.teamOf s.cur).bars = bars.set n { mode := y.getLsbD 40, arrived := 0, expect := y.toNat % 2 ^ 40, phase := 0 }) ∧
    (y.toNat < 2 ^ 40 → ∃ t, exec (.barExp a b) s = .next t ∧ t.cur = (passed s).cur ∧ t.mem = s.mem ∧
      (t.teamOf s.cur).bars = bars.set n (if y.toNat = 0 then { bar with expect := 0 } else
        { bar with expect := y.toNat, arrived := bar.arrived % y.toNat, phase := (bar.phase + bar.arrived / y.toNat) % 2 ^ 32 })) ∧
    (let free := earlierDone s s.cur = true ∧ mayWriteS s a = true ∧ s.hdPending s.cur.gid = false ∧ s.cur.hd + 2 ≤ s.timeOf s.cur
     (free → (b = 0 ∨ y.toNat < 2 ^ 40) → ∃ t, exec (.barArr a b) s = .next t ∧ t.mem = s.mem ∧
        t.cur = (wrote s a (BitVec.ofNat 64 (bar.phase * 2 ^ 32 + n)) 1).cur ∧
        (t.teamOf s.cur).bars = bars.set n (arrivedBar bar (if b = 0 then 1 else y.toNat))) ∧
     (¬ free → exec (.barArr a b) s = .next (waited s))) ∧
    (mayWriteS s b = true → y.toNat < 2 ^ 32 →
      (phasePassed bar (x.toNat / 2 ^ 32) → exec (.barWait a b) s = .next { s with
        cur := { s.cur with stall := .horizon (s.timeOf s.cur) (.barEnd b), sready := s.cycle + 1 } }) ∧
      (¬ phasePassed bar (x.toNat / 2 ^ 32) → exec (.barWait a b) s = .next (stalled s
        (.barWait n (x.toNat / 2 ^ 32) (s.timeOf s.cur + if y = 0 then s.cur.febound.toNat else y.toNat) b))))

/-- R388: a `bar.wait` that the end of tick D finds unsatisfied, the die's next tick being past D, ends with status 1 and does not raise ACQFLOOR. -/
def Sys2Proof.Spec.BarrierWaitTimeout : Prop :=
  ∀ (s : State) (gid : Nat) g n p d b, s.group? gid = some g → gidsDiffer s → (∀ t ∈ s.teams, ∀ x ∈ t.saved, x.gid ≠ gid) → g.stall = .barWait n p d b →
    (d < s.timeNext (g.core / 128) → ¬ phasePassed ((s.teamOf g).bars.getD n Bar.reset) p →
      ∃ t g', exec (.barWaitTimeout gid) s = .next t ∧ t.group? gid = some g' ∧ t.mem = s.mem ∧ t.teams = s.teams ∧ g'.stall = .none ∧
        g'.pc = g.pc + 1 ∧ g'.acqfloor = g.acqfloor ∧ writtenS g g'.s b 1) ∧
    (s.timeNext (g.core / 128) ≤ d → exec (.barWaitTimeout gid) s = .next s) ∧ (s.skew = s.skewGoal → s.timeNext (g.core / 128) ≤ s.timeOf g + 1)

/-- The statements `BarrierWord`, `BarrierWaitTimeout`, each as its docstring says.
Where the manual leaves a point open this follows the model's choice: log entries 13 and 49.
Completes: barInit, barArr, barExp, barWait, barWaitTimeout. -/
def Obligations.Barriers : Prop := Spec.BarrierWord ∧ Spec.BarrierWaitTimeout


/-- R175: `trap` on a register that reads 0 only advances the PC; otherwise it, and `brk` always, take BREAK with its 4-bit code, at the
word that has completed. -/
def Sys2Proof.Spec.SoftwareBreak : Prop :=
  ∀ (s : State) (a : BitVec 6) (c : BitVec 4), s.cur.live = true →
    (s.cur.readS a = 0 → exec (.trap a c) s = .next (passed s)) ∧
    (s.cur.readS a ≠ 0 → exec (.trap a c) s =
      .next (raise s s.cur.gid { faultHere s .brk 0 with src := .scalarDone, imm := c, isBrk := false })) ∧
    exec (.brk c) s = .next (raise s s.cur.gid { faultHere s .brk 0 with src := .scalarDone, imm := c, isBrk := true })

/-- R370, R371, R373, R401: a fault that HALT decides is taken: it stays open in its group, its record is on its way to the group's place of the
save area, the address joins the device's halts, and vector 0 of the function is signalled. No register of the group changes. A group that is
halted already takes no other fault.
Where the manual leaves a point open this follows the model's choice: log entry 20. -/
def Obligations.FaultTakenByHalt : Prop :=
  ∀ (s : State) (gid : Nat) g, s.group? gid = some g → g.gid = gid → (g.fault ≠ none → takeFault s gid = s) ∧
    (∀ fr lv, g.fault = none → takenNext s g fr → policyOf s g.grid g.vf fr.code = (.halt, lv) →
      let t := takeFault s gid
      let h := without g fr
      let a := haltAddr s h
      t.group? gid = some { h with fault := some { fr with level := lv } } ∧
      (tablesOk s → (t.vdev g.vf).halts = (s.vdev g.vf).halts ++
        [{ addr := a, gid := gid, merge := false, turn := 0, grid := g.grid, team := 0, ctx := architected h }]) ∧
      (smapWf false s.hub.pba = true → (if (sget s.hub.msix 0 ((g.vf + 1) * 65536 + 12)).getLsbD 0 then t.hub.signalled = s.hub.signalled ++ [(g.vf + 1, 0)]
        else sget t.hub.pba false ((g.vf + 1) * 65536) = true)) ∧
      t.mem = s.mem ∧ ∃ ws, t.writes = s.writes ++ ws ∧ covers a (toBytes 128 (haltHeader (s.setGroup h) h fr lv) ++ architected h) ws)

/-- R370, R371, R169, R287: a fault of a scalar word is raised: it joins those that the end of the tick decides, and the group's head loses its age. When
RETRY or IGNORE decides it, the group stands at the word or past it, with LASTF and LFV of GSTAT set. Of the faults of one tick those of the
scalar stream come before those of lanes, and among those of lanes the earlier run first. -/
def Sys2Proof.Spec.FaultResolvedOrHeld : Prop :=
  (∀ (s : State) (c : Code) (addr : Nat), s.cur.live = true →
    raiseScalar s c addr = { s with cur := { noAge s.cur with heldFaults := s.cur.heldFaults ++ [faultHere s c addr] } }) ∧
  (∀ (s : State) fr lv, s.cur.live = true → s.cur.fault = none → s.cur.heldFaults = [fr] → fr.src = .scalar → fr.code ≠ .detPower →
    let g := { s.cur with heldFaults := [], gstat := lastFault s.cur.gstat fr.code, sready := max s.cur.sready (s.cycle + 1) }
    (policyOf s s.cur.grid s.cur.vf fr.code = (.retry, lv) → takeFault s s.cur.gid = { s with cur := { g with detPend := false } }) ∧
    (policyOf s s.cur.grid s.cur.vf fr.code = (.ignore, lv) → takeFault s s.cur.gid = { s with cur := { g with pc := s.cur.pc + 1 } })) ∧
  (∀ (s : State) (a b : FaultRec), a.gtime = b.gtime → b.lane = true →
    (a.lane = false → lexLt (faultKey s a) (faultKey s b) = true) ∧
    (∀ m x n y, a.lane = true → faultRun s a = some (m, x) → faultRun s b = some (n, y) → m < n → lexLt (faultKey s a) (faultKey s b) = true))

/-- The statements `SoftwareBreak`, `FaultResolvedOrHeld`, each as its docstring says.
Where the manual leaves a point open this follows the model's choice: log entries 38 and 74.
Completes: trap, brk. -/
def Obligations.BreaksAndResolvedFaults : Prop := Spec.SoftwareBreak ∧ Spec.FaultResolvedOrHeld


namespace Sys2Proof.Spec

/-! Run fetch, scheduling, landings, sleeps and what a group waits for. -/

/-- The fetch of a queue entry: whether it awaits a host page, what its checks find, with side 0 for A and 1 for B, the code, and the state
after its reads (R22, R182). -/
def fetched (s : State) (g : Group) (e : Entry) : Bool × List (Nat × FetchFail) × List Code1 × State :=
  let at_ := ((s.grid? g.grid).map (·.launchedAt)).getD 0
  let a := fetchRun s g at_ e.idxA
  if e.pair then
    let b := fetchRun a.2 g at_ e.idxB
    (a.1.waits || b.1.waits, (formFails g false a.1).map (fun x => (0, x)) ++ (formFails g false b.1).map (fun x => (1, x)), [a.1.code, b.1.code], b.2)
  else (a.1.waits, (formFails g (!e.lb) a.1).map (fun x => (0, x)), [a.1.code], a.2)

/-- A failed check is reported ahead of another: the lower word, then side A, then the rank of the check (R22). -/
def reportedFirst (x y : Nat × FetchFail) : Prop :=
  x.2.index < y.2.index ∨ x.2.index = y.2.index ∧ (x.1 < y.1 ∨ x.1 = y.1 ∧ x.2.rank ≤ y.2.rank)

/-- The fault of a failed fetch check (R22, R373). -/
def fetchFault (s : State) (g : Group) (seq idx : Nat) (x : Nat × FetchFail) : FaultRec :=
  { code := x.2.code, src := .fetch seq, pc := g.pc, lane := true, run := idx, word := x.2.index, side := x.1
    lmask := x.2.lanes, faddr := BitVec.ofNat 64 x.2.addr, gtime := s.timeOf g, imm := 0, isBrk := false, prog := 0, level := 0 }

/-- An order of starting: class, then the age of the head, then the slot, each ascending (R287, R288). -/
def startsBefore (a b : Group) : Prop :=
  a.cls < b.cls ∨ a.cls = b.cls ∧ (headAge a < headAge b ∨ headAge a = headAge b ∧ a.slot ≤ b.slot)

/-- The order of the grant: the oldest head, then the ties of R288: the highest class, the lowest slot (R295). -/
def olderHead (a b : Group) : Prop :=
  headAge a < headAge b ∨ headAge a = headAge b ∧ (a.cls < b.cls ∨ a.cls = b.cls ∧ a.slot ≤ b.slot)

/-- A list of the Ready groups of a core in an order. -/
def readyIn (s : State) (core : Nat) (before : Group → Group → Prop) (l : List Group) : Prop :=
  l.Perm ((groupsOn s core).filter (fun g => (readyHead s g).isSome)) ∧ l.Pairwise before

/-- The run of a started entry: its code, its selection mask as read now, nothing issued (R24, R35). -/
def startedRun (g : Group) (e : Entry) (l : List Code1) (q d : Nat) (stream : Nat × Nat) (r : Run) : Prop :=
  r.seq = e.seq ∧ r.pair = e.pair ∧ r.await = e.await ∧ r.sel = (if e.pair then g.readK e.k4 else 0) ∧ r.quarters = q ∧ r.dec = d ∧
    r.stream = stream ∧ r.parked = false ∧ r.sides.map (fun x => x.words) = l.map (fun c => c.words) ∧
    ∀ x ∈ r.sides, x.wi = 0 ∧ x.pass = 0 ∧ x.issued = false ∧ x.retired = false

/-- What starts on a core beside a group that the grant has started: parked runs that came back take quarters again, then the Ready groups are
offered what is free in their order (R288, R298). -/
def startsWith (core : Nat) (s : State) (joined : List Leader) (t : State) : Prop :=
  let u := (groupsOn s core).foldl (fun s g => takeAgain s g.gid) s
  ∃ l, readyIn u core startsBefore l ∧ t = (l.foldl (fun a g => offer core a g.gid) (u, joined)).1

end Sys2Proof.Spec

/-- R22, R286, R123: a head entry is fetched: if every check passes it holds its words; otherwise the fault of the check that is reported first
is raised. A fetch that awaits a host page is made again later (R182). A run index of 2^17 or more is RUN_FORM at word 0. A parked run
that came back from a save is fetched again first, with the same checks, and keeps its place (R298).
Where the manual leaves a point open this follows the model's choice: log entries 41 and 62.
Completes: runFetch. -/
def Obligations.RunFetch : Prop :=
  (∀ (s : State) (gid : Nat) g e rest, s.group? gid = some g → (∀ r ∈ g.runs, r.again = false) → g.queue = e :: rest → e.code = none →
    let f := fetched s g e
    let u := f.2.2.2
    let inQueue := fun (v : State) (h : Entry → Entry) => v.modGroup gid (fun g => { g with
      queue := g.queue.map (fun x => if x.seq == e.seq then h x else x) })
    (f.1 = false → f.2.1 = [] → exec (.runFetch gid) s = .next (inQueue u (fun x => { x with code := some f.2.2.1 }))) ∧
    (f.1 = false → f.2.1 ≠ [] → ∃ x ∈ f.2.1, (∀ y ∈ f.2.1, reportedFirst x y) ∧ exec (.runFetch gid) s = .next (raise u gid (fetchFault u g e.seq (if x.1 = 0 then e.idxA else e.idxB) x))) ∧
    (f.1 = true → exec (.runFetch gid) s = .next (inQueue u.later.2 (fun x => { x with readyAt := max u.later.1 (u.gtc + 1) }))) ∧
    (∀ t idx, 2 ^ 17 ≤ idx → ∃ a, a.words = [] ∧ a.tr = none ∧ a.fails = [{ index := 0, rank := 2, code := .runForm, lanes := 0, addr := 0 }] ∧
      fetchRun s g t idx = (a, s))) ∧
  (∀ (s : State) (gid : Nat) g r d, s.group? gid = some g → refetchDue s g = some r → r.sides = [d] → d.issued = false → r.pair = false →
    (g.runs.map (·.seq)).Nodup →
    let f := fetchRun s g (((s.grid? g.grid).map (·.launchedAt)).getD 0) d.idx
    let fails := (formFails g (!r.lb) f.1).map (fun x => (d.side, x))
    let later := f.2.modGroup gid (·.modRun r.seq (fun r => { r with sides := r.sides.map (fun d => { d with next := f.2.cycle + 1 }) }))
    (f.1.waits = true → exec (.runFetch gid) s = .next later) ∧
    (f.1.waits = false → fails ≠ [] → ∃ x ∈ fails, (∀ y ∈ fails, reportedFirst x y) ∧
      exec (.runFetch gid) s = .next (raise later gid (fetchFault later g r.seq d.idx x))) ∧
    (f.1.waits = false → fails = [] → d.wi < f.1.code.words.length → exec (.runFetch gid) s = .next (f.2.modGroup gid (·.modRun r.seq (fun r =>
      { r with again := false, sides := [{ d with words := f.1.code.words, tr := f.1.code.tr }] })))))

/-- R24, R25, R28, R287 to R290, R293, R295, R298: at a start the Ready groups of the core are offered what is free in their order, an armed grant's
group ahead of all, and others may join its run; a started run holds the lowest quarters that fit, its ORF and LRF read zero, and its entry is free. -/
def Sys2Proof.Spec.RunStart : Prop :=
  (∀ (s : State) (core : Nat), let u := ageHeads s core
    ((u.core core).grant = false ∨ (∀ g ∈ groupsOn u core, readyHead u g = none)) →
      ∃ t, exec (.runStart core) s = .next t ∧ startsWith core u [] t) ∧
  (∀ (s : State) (core : Nat), let u := ageHeads s core
    (u.core core).grant = true → ∀ g l, readyIn u core olderHead (g :: l) → ∃ g' ∈ g :: l, headAge g' = headAge g ∧ g'.cls = g.cls ∧ g'.slot = g.slot ∧
      ∀ e c, readyHead u g' = some (e, c) →
      (takeQuarters g'.width (heldQuarters u core) = none ∨ takeDecoders e.pair (heldDecoders u core) = none → exec (.runStart core) s = .next u) ∧
      (∀ q d, takeQuarters g'.width (heldQuarters u core) = some q → takeDecoders e.pair (heldDecoders u core) = some d →
        let v := (startRun u g' e c q d (g'.gid, e.seq)).modCore core (fun x => { x with grant := false })
        let joined : List Leader := if e.pair then [] else
          [{ dec := d, vf := g'.vf, lcb := g'.lcb, idx := e.idxA, members := 1, stream := (g'.gid, e.seq) }]
        ∃ t, exec (.runStart core) s = .next t ∧ startsWith core v joined t)) ∧
  (∀ (s : State) (gid : Nat) g e l q d stream, s.group? gid = some g → (∀ r ∈ g.runs, r.seq ≠ e.seq) → (∀ c ∈ l, c.words ≠ []) →
    ∃ g' r, (startRun s g e l q d stream).group? gid = some g' ∧ startedRun g e l q d stream r ∧ g'.runs = g.runs ++ [r] ∧ g'.orf = [] ∧ g'.lrf = [] ∧
      g'.queue.map (fun x => x.seq) = (g.queue.drop 1).map (fun x => x.seq) ∧ g'.s = g.s ∧ g'.v = g.v ∧ g'.k = g.k ∧ g'.pc = g.pc) ∧
  (∀ (s : State) (core gid : Nat) g e l q, s.group? gid = some g → readyHead s g = some (e, l) → capOk s core g l = true →
    takeQuarters g.width (heldQuarters s core) = some q → ∀ d, takeDecoders e.pair (heldDecoders s core) = some d →
      (offer core (s, []) gid).1 = startRun s g e l q d (g.gid, e.seq))

/-- R293 to R295: at each window of 1,024 cycles one grant is armed; at its end a count above 64 halves the load cap to no less than 2, one below
16 raises it by 1 to no more than 48, and the count restarts. -/
def Sys2Proof.Spec.SchedulerWindows : Prop :=
  ∀ (s : State) (core : Nat), let c := s.core core
    exec (.issueGrantArm core) s = .next (s.modCore core (fun c =>
      if c.grantWin ≤ s.cycle / 1024 then { c with grantWin := s.cycle / 1024 + 1, grant := true } else c)) ∧
    (s.cycle / 1024 ≤ c.lossWin → exec (.lostLocalityWindow core) s = .next (s.modCore core (fun c => c))) ∧
    (c.lossWin < s.cycle / 1024 → c.capDrop ≤ 46 → ∃ t, exec (.lostLocalityWindow core) s = .next t ∧ t.others = s.others ∧ t.cur = s.cur ∧
      (smapWf Core.reset s.cores = true → let d := t.core core
        d = { c with lossWin := s.cycle / 1024, lost := 0, capDrop := d.capDrop } ∧
          48 - d.capDrop = (if 64 < c.lost then max 2 ((48 - c.capDrop) / 2) else if c.lost < 16 then min 48 (48 - c.capDrop + 1) else 48 - c.capDrop)))

/-- The statements `RunStart`, `SchedulerWindows`, each as its docstring says.
Where the manual leaves a point open this follows the model's choice: log entry 73.
Completes: runStart, issueGrantArm, lostLocalityWindow. -/
def Obligations.RunScheduling : Prop := Spec.RunStart ∧ Spec.SchedulerWindows


/-- R55, R124 to R128, R154, R165: a landing whose cycle has ended writes its registers, pushes (the last value becomes l0, while
its run is Issuing), mask and status, and nothing else of the machine;
the status of a word's first pass is kept for the trap of its last. A trap that GCTL enables is raised with the lanes concerned. -/
def Sys2Proof.Spec.FixedLatencyLanding : Prop :=
  ∀ (s : State) (gid : Nat) g l, s.group? gid = some g → dueLanding s g = some l →
    (l ∈ g.out ∧ l.cyc < s.cycle ∧ ∀ m ∈ g.out, m.cyc < s.cycle → l.cyc < m.cyc ∨ l.cyc = m.cyc ∧ l.ord ≤ m.ord) ∧
    (l.final = false ∨ trapOf g.gctl (l.acc ++ l.st) = none → ∃ t g', exec (.fixedLatencyLanding gid) s = .next t ∧ t.group? gid = some g' ∧
      t.mem = s.mem ∧ t.ops = s.ops ∧ t.teams = s.teams ∧ t.grids = s.grids ∧ g'.s = g.s ∧ g'.pc = g.pc ∧ g'.queue = g.queue ∧
      g'.runs = (if l.final then g.runs else (g.modSide l.seq l.side (fun d =>
        if d.wi = l.word ∧ d.pass = 1 then { d with acc := d.acc ++ l.st } else d)).runs) ∧
      g'.out = g.out.filter (fun m => m.ord != l.ord) ∧ g'.v = ssetAll g.v 0 l.mrf ∧
      (g.issuing l.seq l.side = true → g'.orf = ssetAll g.orf 0 l.orf) ∧ (g.issuing l.seq l.side = false → g'.orf = g.orf ∧ g'.lrf = g.lrf) ∧
      (g.issuing l.seq l.side = true → smapWf 0 g.lrf = true → (l.push.map (fun e => e.1)).Nodup →
        (∀ j k, k < 4 → (∀ e ∈ l.push, e.1 ≠ j) → sget g'.lrf 0 (4 * j + k) = sget g.lrf 0 (4 * j + k)) ∧
        (∀ j xs k, k < 4 → (j, xs) ∈ l.push → sget g'.lrf 0 (4 * j + k) =
          (xs.reverse ++ (List.range 4).map (fun i => sget g.lrf 0 (4 * j + i))).getD k 0)) ∧
      (l.kw = none → g'.k = g.k) ∧
      (∀ k w b, l.kw = some (k, w, b) → smapWf 0 g.k = true → ∀ j, sget g'.k 0 j = if j = k then (sget g.k 0 k &&& ~~~w) ||| (b &&& w) else sget g.k 0 j) ∧
      (smapWf 0 g.lstat = true → (l.st.map (fun x => x.1)).Nodup → ∀ j, j < 64 →
        sget g'.lstat 0 j = (if l.active.getLsbD j then sget g.lstat 0 j &&& ~~~l.cl else sget g.lstat 0 j) |||
          ((l.st.find? (fun x => x.1 == j)).map (fun x => x.2)).getD 0)) ∧
    (∀ c m, l.final = true → trapOf g.gctl (l.acc ++ l.st) = some (c, m) → ∃ u fr, exec (.fixedLatencyLanding gid) s = .next (raise u gid fr) ∧
      u.mem = s.mem ∧ fr.code = c ∧ fr.lmask = m ∧ fr.src = .trap l.seq l.side ∧ fr.run = l.run ∧ fr.word = l.word ∧ fr.lane = true)

/-- R291, R298: a run parked at an engine word tries that word again, at its issue position; words that issue beside it issue with it or wait
with it. A group that is being saved does not go on. -/
def Sys2Proof.Spec.ParkedRunResumes : Prop :=
  ∀ (s : State) (gid : Nat) g, s.group? gid = some g → g.live = true →
    (g.preempt = true → exec (.parkedRunResume gid) s = .next s) ∧
    (∀ r d i, g.preempt = false → parkedSide s g = some (r, d, i) → isEngineWord i = true → let ms := together s r.stream d
      (∃ t, exec (.parkedRunResume gid) s = .next t) ∧ (ms.length ≤ 1 → exec (.parkedRunResume gid) s = exec i (s.at_ gid r.seq d.side)) ∧
      (2 ≤ ms.length → exec (.parkedRunResume gid) s = .next (match issueAll s ms with | some t => t | none => parkAll s ms)))

/-- The statements `FixedLatencyLanding`, `ParkedRunResumes`, each as its docstring says.
Where the manual leaves a point open this follows the model's choice: log entries 1 and 73.
Completes: fixedLatencyLanding, parkedRunResume. -/
def Obligations.LandingsAndParkedRuns : Prop := Spec.FixedLatencyLanding ∧ Spec.ParkedRunResumes


/-- R121, R346: `sleep` waits for its time. At it a sleep on no held promise ends; one on a promise still held is PROMISE_MISSED. A task's sleep
on a held promise acts as a yield that resumes at the word. -/
def Sys2Proof.Spec.SleepWord : Prop :=
  (∀ (s : State) (a : BitVec 6), s.cur.live = true →
    let t := (s.cur.readS a).toNat % 2 ^ 60
    let n := (s.cur.readS a).toNat / 2 ^ 60
    let held := n ≠ 0 ∧ ∃ p ∈ s.cur.proms, p.slot = n ∧ p.time = t
    (s.cur.task = none ∨ ¬ held → exec (.sleep a) s = .next (stalled s (.sleep t n))) ∧
    (s.cur.task ≠ none → held → taskQuiet s = false → exec (.sleep a) s = .next (waited s)) ∧
    (s.cur.task ≠ none → held → taskQuiet s = true → exec (.sleep a) s = .next (
      if s.cur.hd + 2 ≤ s.timeOf s.cur then yieldEnd a s.cur.pc s else stalled s (.horizon (s.cur.hd + 2) (.sleepYield a))))) ∧
  (∀ (s : State) (gid : Nat) g t n, s.group? gid = some g → g.stopped = false →
    let held := n ≠ 0 ∧ ∃ p ∈ g.proms, p.slot = n ∧ p.time = t
    (g.stall = .sleep t n → s.timeOf g < t → exec (.sleepDeadline gid) s = .next s) ∧
    (g.stall = .sleep t n → t ≤ s.timeOf g → held → ∃ fr, fr.code = .promiseMissed ∧ fr.src = .promise n t ∧ fr.pc = g.pc ∧
      exec (.sleepDeadline gid) s = .next (raise s gid fr)) ∧
    ((g.stall = .sleep t n ∧ t ≤ s.timeOf g ∨ g.stall = .sleepOp t n) → ¬ held →
      exec (.sleepDeadline gid) s = .next (s.setGroup { g with pc := g.pc + 1, sready := s.cycle + 1, stall := .none })) ∧
    (g.stall = .sleepOp t n → held → exec (.sleepDeadline gid) s = .next s))

/-- R215 to R217, R221, R388: when the tick that a scalar word waits for is reached the word takes its action; a fence then leaves that tick in
ACQFLOOR, and an xfence too, which raises the staging time of path P to it unless P is Q, and a `bar.wait` that was satisfied ends with status 0; before it nothing happens to the word. -/
def Sys2Proof.Spec.HorizonReached : Prop :=
  ∀ (s : State) (gid : Nat) g, s.ops = [] → s.group? gid = some g → g.live = true → g.stopped = false → g.sready ≤ s.cycle →
    (∀ t act, g.stall = .horizon t act → s.timeOf g < t → exec (.horizonTimeReached gid) s = .next s) ∧
    (∀ t act, g.stall = .horizon t act → t ≤ s.timeOf g → exec (.horizonTimeReached gid) s = .next (reached t act (stalled (s.focus gid) .none))) ∧
    (∀ t, g.stall = .horizon t .fence → t ≤ s.timeOf g → exec (.horizonTimeReached gid) s = .next (fencedAt (s.focus gid) t)) ∧
    (∀ t p differ, g.stall = .horizon t (.xfence p differ) → t ≤ s.timeOf g → exec (.horizonTimeReached gid) s = .next (xfencedAt (s.focus gid) t p differ)) ∧
    (∀ t b, g.stall = .horizon t (.barEnd b) → t ≤ s.timeOf g → ∃ u g', exec (.horizonTimeReached gid) s = .next u ∧ u.group? gid = some g' ∧
      u.mem = s.mem ∧ u.teams = s.teams ∧ g'.stall = .none ∧ g'.pc = g.pc + 1 ∧ g'.acqfloor = max g.acqfloor (s.timeOf g) ∧ writtenS g g'.s b 0) ∧
    (∀ ids, g.stall = .fenceSys ids → (∃ n ∈ ids, ∃ k ∈ s.tokens, k.id = n) → exec (.horizonTimeReached gid) s = .next s) ∧
    (∀ ids, g.stall = .fenceSys ids → (∀ n ∈ ids, ∀ k ∈ s.tokens, k.id ≠ n) →
      exec (.horizonTimeReached gid) s = .next (fenceWait (stalled (s.focus gid) .none) true))

/-- R40, R197, R320, R353: the bounds that end in a fault: a full/empty wait of an operation, a guard wait of a receiver, and the watchdog of a
task; none is raised before its bound. The first holds for a group at its save point too, until its team is saved (R380). -/
def Sys2Proof.Spec.BoundExpiry : Prop :=
  (∀ (s : State) (op : Nat) o g, s.op? op = some o → s.timed? o.gid = some g → o.held = false →
    let ran := ∃ l ∈ o.lanes, ∃ t a, l.stage = .feWait t a ∧ t + o.bound ≤ s.timeOf g
    (¬ ran → exec (.feWaitBoundExpiry op) s = .next s) ∧
    (ran → ∃ ls, (∀ l, l ∈ ls ↔ l ∈ o.lanes ∧ ∃ t a, l.stage = .feWait t a) ∧ ∃ u, u.mem = s.mem ∧ u.teams = s.teams ∧
      exec (.feWaitBoundExpiry op) s = .next (raiseOp u o .feWait ls))) ∧
  (∀ (s : State) (cmd r : Nat) c x d, s.twe? cmd = some c → servable s c r = some x → x.since = some d →
    (s.time c.die < d + c.bound ∨ guardEmpty s (tileOf c.desc) r = true → exec (.guardWaitExpiry cmd r) s = .next s) ∧
    (d + c.bound ≤ s.time c.die → guardEmpty s (tileOf c.desc) r = false → ∃ u, u.mem = s.mem ∧ u.teams = s.teams ∧
      exec (.guardWaitExpiry cmd r) s = .next (raiseTwe u c r .feWait 0))) ∧
  (∀ (s : State) (gid : Nat) g, s.group? gid = some g → g.task ≠ none → g.stopped = false →
    let limit := match s.partOfVf g.vf with | some n => if (s.part n).rsvc ≠ 0 then 16384 else 2 ^ 20 | none => 2 ^ 20
    (s.cycle < g.stretch + limit → exec (.taskWatchdogExpiry gid) s = .next s) ∧
    (g.stretch + limit ≤ s.cycle → ∃ fr, fr.code = .taskWatchdog ∧ fr.src = .watchdog ∧ fr.pc = g.pc ∧ fr.lmask = 0 ∧
      exec (.taskWatchdogExpiry gid) s = .next (raise s gid fr)))

/-- The statements `SleepWord`, `HorizonReached`, `BoundExpiry`, each as its docstring says.
Where the manual leaves a point open this follows the model's choice: log entries 1 and 76.
Completes: sleep, sleepDeadline, horizonTimeReached, feWaitBoundExpiry, guardWaitExpiry, taskWatchdogExpiry. -/
def Obligations.WaitsAndBounds : Prop := Spec.SleepWord ∧ Spec.HorizonReached ∧ Spec.BoundExpiry


namespace Sys2Proof.Spec

/-! Tile walks, the matrix engine and the Firefly array. -/

/-- The lowest free promise slot (R120). -/
def lowestFree (l : List Promise) (n : Nat) : Prop :=
  1 ≤ n ∧ n ≤ 15 ∧ (∀ p ∈ l, p.slot ≠ n) ∧ ∀ m, 1 ≤ m → m < n → ∃ p ∈ l, p.slot = m

/-- A group that has taken a promise slot: its register d holds the promise word, slot in bits 63:60 and time in bits 59:0 (R120). -/
def holdsPromise (g : Group) (d : BitVec 6) (slot time : Nat) (ref : PromRef) : Group :=
  { g with
    proms := g.proms ++ [{ slot := slot, time := time % 2 ^ 60, ref := ref }]
    s := if d = 0 then g.s else sset g.s 0 d.toNat (BitVec.ofNat 64 (slot * 2 ^ 60 + time % 2 ^ 60)) }

/-- A group whose word has taken a promise slot and completed. -/
def promised (g : Group) (cycle : Nat) (d : BitVec 6) (slot time : Nat) (ref : PromRef) : Group :=
  { holdsPromise g d slot time ref with pc := g.pc + 1, sready := cycle + 1 }

/-- The three tile words with their kinds. -/
def tileWords (a b : BitVec 6) : List (Instr × TweKind) := [(.cpy a b, .cpy), (.cpym a b, .cpym), (.cpyc a b, .cpyc)]

/-- Every promise slot is held (R120). -/
def slotsTaken (l : List Promise) : Prop := ∀ n, 1 ≤ n → n ≤ 15 → ∃ p ∈ l, p.slot = n

/-- What a checked tile word does (R120, R314): it takes the lowest promise slot, where it holds none yet, and then a place of the 64 of its cluster's
queue; it waits while one of them is missing. -/
def entersQueue (s : State) (i : Instr) (a : BitVec 6) (c : TweCmd) (u : State) : Prop :=
  let enters := fun (v : State) => { v with
    fresh := v.fresh + 1, cur := { v.cur with pc := v.cur.pc + 1, sready := v.cycle + 1 }
    twe := v.twe.filter (fun x => x.id != c.id) ++ [{ c with cluster := u.cur.core / 4, stage := .queued, ready := u.gtc + 1 + Config.latency u.fresh }] }
  let next := fun (v : State) => if 64 ≤ (tweQueue u (u.cur.core / 4)).length then waited v else enters v
  ((∃ p ∈ u.cur.proms, p.ref = .twe c.id) → exec i s = .next (next u)) ∧
  ((∀ p ∈ u.cur.proms, p.ref ≠ .twe c.id) → slotsTaken u.cur.proms → exec i s = .next (waited u)) ∧
  ((∀ p ∈ u.cur.proms, p.ref ≠ .twe c.id) → ∀ n, lowestFree u.cur.proms n → ∃ time, u.timeOf u.cur ≤ time ∧
    exec i s = .next (next { u with cur := holdsPromise u.cur a n time (.twe c.id) }))

/-- The command of a tile word (R314, R315): nothing is written yet. -/
def newCommand (s : State) (k : TweKind) (d : BitVec 512) (c : TweCmd) : Prop :=
  c.id = s.nextId ∧ c.gid = s.cur.gid ∧ c.team = s.cur.team ∧ c.grid = s.cur.grid ∧ c.vf = s.cur.vf ∧ c.cluster = s.cur.core / 4 ∧
    c.die = s.cur.core / 128 ∧ c.kind = k ∧ c.pc = s.cur.pc ∧ c.desc = d ∧ c.bound = s.cur.febound.toNat ∧ c.issuedAt = s.gtc ∧ c.result = none ∧
    c.held = false ∧ c.stage = .checked ∧ c.recvs.map (fun r => r.team) = (receivers s s.cur k (tileOf d)).map (fun t => t.id) ∧
    ∀ r ∈ c.recvs, r.progress = 0 ∧ r.done = false ∧ r.held = false ∧ r.pending = 0 ∧ r.since = none

/-- The queued Firefly words, with their commands and the register that takes the promise of a sweep (R270). -/
def fireflyWords (s : State) (a b : BitVec 6) : List (Instr × FfaKind × Option (BitVec 6)) :=
  let x := s.cur.readS a
  let y := s.cur.readS b
  [(.ffaLdj a b, .ldj x y, none), (.ffaLdh a b, .ldh x y, none), (.ffaLdc a, .ldc x, none), (.ffaClamp a b, .clamp x y, none), (.ffaBeta a, .beta x, none),
   (.ffaMode a b, .mode x y, none), (.ffaSweep a b, .sweep y.toNat, some a), (.ffaRdc a b, .rdc x y, none), (.ffaRds a, .rds x, none),
   (.ffaZc a, .zc x, none), (.ffaBnd a b, .bnd x y, none)]

/-- A new command of the Firefly queue. -/
def newFfa (s : State) (k : FfaKind) (pages : List (Nat × Page)) (c : FfaCmd) : Prop :=
  c.id = s.nextId ∧ c.gid = s.cur.gid ∧ c.pc = s.cur.pc ∧ c.kind = k ∧ c.pages = pages ∧ c.performed = false ∧ c.bound = s.cur.febound.toNat ∧
    c.since = none ∧ c.force = false ∧ c.latched = none ∧ c.phase = 0 ∧ c.ended = false ∧ c.pending = 0 ∧ c.at_ = s.gtc

/-- A command that acts on the array alone (R276 to R278, R280, R281). -/
def arrayOnly (k : FfaKind) : Prop :=
  (∃ w, k = .ldc w) ∨ (∃ n a, k = .clamp n a) ∨ (∃ b, k = .beta b) ∨ (∃ w x, k = .mode w x) ∨ (∃ d, k = .zc d) ∨ ∃ n x, k = .bnd n x

/-- The promised time of a sweep: every queued command and the new one, in array cycles at the present clock (R279). -/
def sweepTime (s : State) (f : Ffa) (c : FfaCmd) : Nat :=
  s.timeOf s.cur + cycleTicks s (((f.queue ++ [c]).map (fun x => ffaCycles f (s.tstepOf s.cur.vf) x.kind)).foldl (· + ·) 0)

/-- The four registers that a lane of a `mx.wr` has read, 0 in a lane that is not active (R245). -/
def quadOfLane (ls : List LaneReq) (j : Nat) : List Word32 :=
  match ls.find? (fun l => l.lane == j) with
  | none => [0, 0, 0, 0]
  | some l => (List.range 4).map (fun i => BitVec.ofNat 32 (ofBytes ((l.data.drop (4 * i)).take 4)))

/-- The matrix words, each with the source slots of a chained `mx.q`, whether its row addresses are pairs, and the checks 2 to 7 of its kind
(R234, R235). -/
def matrixWords (w : LaneOp) :
    List (Instr × Option Nat × Bool × (Issue → List LaneReq → State → Except (Option MxFault) (Nat → BitVec 8 → MxReq) × State)) :=
  [(.mxQ w, if w.mod.getLsbD 7 then some (sourceSlot w) else none, false, checkQ w), (.mxZero w, none, false, plainReq (fun _ r => r) .zero w),
   (.mxRd w, none, false, plainReq (fun _ r => { r with reg := dReg w, col := colGroup w }) .rd w),
   (.mxWr w, none, false, plainReq (fun ls r => { r with
      col := colGroup w, wdata := (List.range 8).map (fun i => quadOfLane ls (8 * r.octet + i)) }) .wr w),
   (.mxDrain w, none, true, checkDrain w)]

/-- Every slot that a matrix word names is one of the team's (R235 check 1). -/
def slotsHeld (s : State) (w : LaneOp) (src : Option Nat) (os : List (Nat × BitVec 8)) : Prop :=
  ∀ o ∈ os, slotBase w + o.1 < (s.teamOf s.cur).nslots ∧ ∀ d, src = some d → d + o.1 < (s.teamOf s.cur).nslots

/-- The element of a slot at row i and column n (R229). -/
def element (t : Team) (slot i n : Nat) : Word32 := sget t.acc 0 (slot * 2048 + i * 256 + n)

/-- The bytes that a drain writes for row i of its slot: its 256 columns in ascending order, in the format of the word, with its `.sat` (R246, R247). -/
def drainedRow (r : MxReq) (t : Team) (i : Nat) : List Byte :=
  (List.range 256).flatMap (fun n => drainElem r.e4m3 (r.mod.getLsbD 5) r.scale (element t r.dst i n))

/-- Ages of Ready requests, least first: Ready cycle, core, resident-group slot, octet (R240). -/
def mxOlder (a b : MxReq) : Prop := lexLt (mxAge b) (mxAge a) = false

end Sys2Proof.Spec

/-- R312 to R315, R318, R120: `cpy`, `cpym` and `cpyc` wait for what came before; their descriptor is read and checked in order; a word that
passes takes the lowest promise slot and a place in its cluster's queue of 64, and waits while either is full; it is not checked again. -/
def Sys2Proof.Spec.TileWord : Prop :=
  ∀ (s : State) (a b : BitVec 6), ∀ r ∈ tileWords a b, s.cur.live = true →
    (∀ c, checkedTwe s s.cur.gid = some c → entersQueue s r.1 a c s) ∧
    (checkedTwe s s.cur.gid = none →
      (earlierDone s s.cur = false ∨ mayWriteS s a = false → exec r.1 s = .next (waited s)) ∧
      (earlierDone s s.cur = true → mayWriteS s a = true →
        (∀ u, readBlock s (s.cur.readS b) = (.error none, u) → exec r.1 s = .next (waited u)) ∧
        (∀ c f u, readBlock s (s.cur.readS b) = (.error (some (c, f)), u) → exec r.1 s = .next (raiseScalar u c f)) ∧
        (∀ d u, readBlock s (s.cur.readS b) = (.ok d, u) → let t := tileOf d
          (tileFields r.2 d = false ∨ tilePlaces u u.cur r.2 t = false → exec r.1 s = .next (raiseScalar u .access 0)) ∧
          (tileFields r.2 d = true → tilePlaces u u.cur r.2 t = true → tileBounds u u.cur r.2 t = false → exec r.1 s = .next (raiseScalar u .scrBounds 0)) ∧
          (tileFields r.2 d = true → tilePlaces u u.cur r.2 t = true → tileBounds u u.cur r.2 t = true →
            (r.2 = .cpyc → collClash u u.cur t = true → exec r.1 s = .next (raiseScalar u .access 0)) ∧
            ((r.2 = .cpyc → collClash u u.cur t = false) →
              ∃ c, newCommand u r.2 d c ∧ entersQueue s r.1 a c { u with twe := u.twe ++ [c], nextId := u.nextId + 1 })))))

/-- R310, R311: the fields of a tile descriptor, and the address of element (i0, i1, i2), which the walk visits at i0 + N0·(i1 + N1·i2). -/
def Obligations.TileAddressRule : Prop :=
  ∀ (d : BitVec 512), let t := tileOf d
    t.src = (d.extractLsb' 0 60).toNat ∧ t.sps = d.getLsbD 63 ∧ t.dst = (d.extractLsb' 64 60).toNat ∧ t.spd = d.getLsbD 127 ∧
    t.ss1 = (d.extractLsb' 128 32).toInt ∧ t.ss2 = (d.extractLsb' 160 32).toInt ∧ t.ds1 = (d.extractLsb' 192 32).toInt ∧
    t.ds2 = (d.extractLsb' 224 32).toInt ∧ t.n0 = (d.extractLsb' 256 32).toNat + 1 ∧ t.n1 = (d.extractLsb' 288 16).toNat + 1 ∧
    t.n2 = (d.extractLsb' 304 16).toNat + 1 ∧
    ∀ i0 i1 i2, i0 < t.n0 → i1 < t.n1 → i2 < t.n2 → let i := i0 + t.n0 * (i1 + t.n1 * i2)
      i < t.count ∧ t.srcAt i = t.src + i2 * t.ss2 + i1 * t.ss1 + i0 * 2 ^ t.esize ∧ t.dstAt i = t.dst + i2 * t.ds2 + i1 * t.ds1 + i0 * 2 ^ t.esize

/-- R311, R314 to R320: what a tile-walk command does. A receiver whose guard word is full begins its wait; one that may be written is walked, as far as
the bytes of the tick allow, and at the end of the tile is done; a finished command leaves the queue, frees its promise and raises the horizons; a collective combines once all have come. -/
def Sys2Proof.Spec.TileEvents : Prop :=
  (∀ (s : State) (cmd r : Nat) c x, s.twe? cmd = some c → servable s c r = some x →
    let t := tileOf c.desc
    let shut := t.gv = true ∧ x.progress = 0 ∧ guardEmpty s t r = false
    let tried := s.modRecv cmd r (fun y => { y with next := s.gtc + 1 })
    (shut → x.since = none → exec (.tweReceiverWrite cmd r) s =
      .next (tried.modRecv cmd r (fun y => { y with since := some (s.time c.die), arrived := s.cycle }))) ∧
    (¬ shut → x.since = none →
      let w : Walk := { sector := none, buf := none, own := x.own, used := tweUsed s c.cluster }
      ∀ e i v u, walkStretch c x.team (tweRate s c.vf) x.progress w tried (min (t.count - x.progress) 256) = (e, i, v, u) →
        let done := (u.modCluster c.cluster (fun k => { k with tweAt := u.gtc, tweUsed := v.used })).modRecv c.id x.team (fun y =>
          { y with progress := i, own := v.own, since := none })
        (e = .pause → exec (.tweReceiverWrite cmd r) s = .next (if i = t.count then finishRecv done c x.team else done)) ∧
        (e = .stop none → exec (.tweReceiverWrite cmd r) s = .next done) ∧
        (∀ y f, e = .stop (some (y, f)) → (∀ p, c.kind ≠ .packet p) →
          exec (.tweReceiverWrite cmd r) s = .next (raiseTwe (done.modTwe c.id (fun c => { c with held := true })) c x.team y f)))) ∧
  (∀ (s : State) (cmd : Nat) c g, s.twe? cmd = some c → s.group? c.gid = some g → c.held = false → c.stage = .queued →
    (∀ r ∈ c.recvs, r.done = true ∧ r.pending = 0) → (∀ p, c.kind ≠ .packet p) → (c.kind = .cpyc → c.result ≠ none) →
    ∃ t g', exec (.tweCommandComplete cmd) s = .next t ∧ t.twe = s.twe.filter (fun x => x.id != cmd) ∧ t.mem = s.mem ∧
      t.group? c.gid = some g' ∧ g'.proms = g.proms.filter (fun p => p.ref != .twe cmd) ∧ g'.h1 = max g.h1 (max c.hmax (s.time c.die)) ∧
      g'.hd = (if (tileOf c.desc).spd then max g.hd (max c.hmax (s.time c.die)) else g.hd) ∧ g'.s = g.s ∧ g'.v = g.v ∧ g'.pc = g.pc) ∧
  (∀ (s : State) (cmd : Nat) c, s.twe? cmd = some c → c.kind = .cpyc → c.stage = .queued → c.result = none → allHere s c = true →
    (∀ x ∈ participants s c, x.stage = .queued ∧ x.held = false ∧ walked s x = true ∧ ∃ r ∈ x.recvs, r.done = false) → ∀ l u,
      let v := s.modTwe cmd (fun c => { c with ready := max c.ready (s.gtc + 1) })
      collFold (tileOf c.desc) none v (participants s c) = (.ok l, u) → (∀ x ∈ u.twe, (∃ y ∈ participants s c, y.id = x.id) → x.stage = .queued) →
      exec (.collectiveCombine cmd) s = .next { u with twe := u.twe.map (fun x => if (participants s c).any (fun y => y.id == x.id)
        then { x with result := some (l.flatMap (toBytes (tileOf c.desc).size)) } else x) }) ∧
  (∀ (s : State) (cmd : Nat) c, s.twe? cmd = some c → c.kind = .cpyc → c.stage = .queued → c.result = none → c.held = false → allHere s c = false →
    (∀ t, s.team? c.team = some t → t.savedAt = none) →
    (s.time c.die < c.since + c.bound → exec (.collectiveWaitExpiry cmd) s = .next s) ∧
    (c.since + c.bound ≤ s.time c.die → ∃ u, u.mem = s.mem ∧ u.teams = s.teams ∧ exec (.collectiveWaitExpiry cmd) s = .next (raiseTwe u c c.team .feWait 0))) ∧
  (∀ (t : Tile) (x y : Nat), x < 2 ^ 32 → y < 2 ^ 32 → t.etype ≠ 4 → t.etype ≠ 5 →
    (t.op = false → collStep t x y = (x + y) % 2 ^ 32) ∧ (t.op = true → t.etype = 0 → collStep t x y = if signedOf 32 x < signedOf 32 y then y else x) ∧
    (t.op = true → t.etype ≠ 0 → collStep t x y = max x y))

/-- The statements `TileWord`, `TileEvents`, each as its docstring says.
Where the manual leaves a point open this follows the model's choice: log entries 40, 46, 50, 51 and 84.
Completes: cpy, cpym, cpyc, tweReceiverWrite, tweCommandComplete, collectiveCombine, collectiveWaitExpiry. -/
def Obligations.TileWalks : Prop := Spec.TileWord ∧ Spec.TileEvents


/-- R270 to R282: the queued Firefly words wait for what they must follow, are checked, and enter a queue of 16; a sweep also takes a promise.
`ffa.hs` reads the health word. -/
def Sys2Proof.Spec.FireflyWord : Prop :=
  ∀ (s : State) (a b : BitVec 6), s.cur.live = true →
    (∀ r ∈ fireflyWords s a b, (r.2.1.reachesMemory = true → earlierDone s s.cur = true) →
      (∀ c f u, ffaChecks s s.cur r.2.1 = (.error (c, f), u) → exec r.1 s = .next (raiseScalar u c f)) ∧
      (∀ pages u f, ffaChecks s s.cur r.2.1 = (.ok pages, u) → (u.teamOf u.cur).ffa = some f →
        let enters := fun (c : FfaCmd) (g : Group) => { u with
          nextId := u.nextId + 1, cur := g
          teams := u.teams.map (fun t => if t.id == u.cur.team then { t with ffa := some { f with queue := f.queue ++ [c] } } else t) }
        (16 ≤ f.queue.length → exec r.1 s = .next (waited u)) ∧
        (f.queue.length < 16 → r.2.2 = none → ∃ c, newFfa u r.2.1 pages c ∧ exec r.1 s = .next (enters c (passed u).cur)) ∧
        (f.queue.length < 16 → ∀ d, r.2.2 = some d → mayWriteS u d = true → ∀ n, lowestFree u.cur.proms n → ∃ c, newFfa u r.2.1 pages c ∧
          exec r.1 s = .next (enters c (promised u.cur u.cycle d n (sweepTime u f c) (.ffa c.id)))))) ∧
    (∀ f, (s.teamOf s.cur).ffa = some f → mayWriteS s a = true →
      exec (.ffaHs a) s = .next (wrote s a (BitVec.ofNat 64
        (f.lastcnt + 2 ^ 24 * f.nwin.toNat + (if f.biased then 2 ^ 38 else 0) + if f.replay then 2 ^ 39 else 0)) 1)) ∧
    ((s.teamOf s.cur).ffa = none → exec (.ffaHs a) s = .next (raiseScalar s .access 0))

/-- R263 to R270, R276 to R279, R283: what the array does: commands that act on the array alone; a sweep that waits for its ghosts, latches them, runs
its phases one after the other, each at the rate at which it began, then counts, and is published; the end of a boundary wait, which time on a saved array does not bring; a published state that arrives in the ring
of the mapping it was sent to, and the close of a health window. -/
def Sys2Proof.Spec.FireflyEvents : Prop :=
  (∀ (s : State) (team : Nat) t f c, ffaHead s team = some (t, f, c) → c.performed = false →
    arrayOnly c.kind →
      ∃ at_, exec (.ffaCommandPerform team) s = .next (ffaFinish ({ s with fresh := s.fresh + 1, nextId := s.nextId + 1 }.modFfa team
        (fun f => ffaEffect f c.kind at_ s.nextId)) team c)) ∧
  (∀ (s : State) (team : Nat) t f c n, ffaHead s team = some (t, f, c) → c.kind = .sweep n →
    (∀ l, c.latched = some l → (s.cycle < c.ready → exec (.ffaSweepPerform team) s = .next s) ∧
      (c.ready ≤ s.cycle → c.phase < (phases [] f.colours).length → exec (.ffaSweepPerform team) s = .next (sweepPhase s t f c)) ∧
      (c.ready ≤ s.cycle → (phases [] f.colours).length ≤ c.phase → exec (.ffaSweepPerform team) s = .next (sweepOnce s t f c l))) ∧
    (c.latched = none → n = 0 → exec (.ffaSweepPerform team) s = .next (ffaFinish s team c)) ∧
    (c.latched = none → n ≠ 0 → sweepReady s t f c = true →
      (c.ended = false → exec (.ffaSweepPerform team) s = .next (sweepLatch s t f c)) ∧
      (c.ended = true → 1 < n → exec (.ffaSweepPerform team) s = .next (sweepPublish s t f c (n - 1))) ∧
      (c.ended = true → n = 1 → exec (.ffaSweepPerform team) s = .next (ffaFinish (sweepPublish s t f c 0) team c))) ∧
    (c.latched = none → n ≠ 0 → sweepReady s t f c = false → ∃ u, exec (.ffaSweepPerform team) s = .next u ∧ u.mem = s.mem ∧ u.cur = s.cur ∧
      (∀ d, c.since = some d → u = s))) ∧
  (∀ (s : State) (team : Nat) t f c d, ffaHead s team = some (t, f, c) → c.since = some d →
    (sweepReady s t f c = true ∨ waitsOnSaved s t f c = true ∨ s.time (t.core / 128) < d + c.bound → exec (.boundaryWaitExpiry team) s = .next s) ∧
    (sweepReady s t f c = false → waitsOnSaved s t f c = false → d + c.bound ≤ s.time (t.core / 128) →
      exec (.boundaryWaitExpiry team) s = .next (raiseFfa s team c .ffaStale 0))) ∧
  (∀ (s : State) (msg : Nat) p t f b, s.pubs.find? (fun p => p.id == msg) = some p → s.team? p.team = some t → t.ffa = some f → smapWf BSlot.reset f.slots = true →
    sget f.slots BSlot.reset p.slot = b → b.mapped = true →
    ∃ u t' f', exec (.boundaryPublication msg) s = .next u ∧ u.pubs = s.pubs.filter (fun p => p.id != msg) ∧ u.mem = s.mem ∧
      u.team? p.team = some t' ∧ t'.ffa = some f' ∧ f'.nodes = f.nodes ∧
      (b.map ≠ p.map → f'.slots = f.slots) ∧
      (b.map = p.map → ∃ l, sget f'.slots BSlot.reset p.slot = { b with ring := l ++ [(p.tag, p.val)] } ∧
        (b.ring.length < 16 → l = b.ring) ∧ (16 ≤ b.ring.length → ∃ e ∈ b.ring, l = b.ring.erase e))) ∧
  (∀ (s : State) (team count : Nat) t f, s.team? team = some t → t.ffa = some f → t.savedAt = none →
    let closed : Bool → Ffa := fun b => { f with nwin := f.nwin + 1, lastcnt := count, biased := b, winStart := s.cycle }
    (s.cycle < f.winStart + 8192 → exec (.healthWindowClose team count) s = .next s) ∧
    (f.winStart + 8192 ≤ s.cycle → count ≤ 65536 → ∃ u t', u.team? team = some t' ∧ u.mem = s.mem ∧ u.cur = s.cur ∧
      (31744 ≤ count ∧ count ≤ 33792 → t'.ffa = some (closed false) ∧ exec (.healthWindowClose team count) s = .next u) ∧
      (count < 31744 ∨ 33792 < count → t'.ffa = some (closed true) ∧
        (f.replay = true → exec (.healthWindowClose team count) s = .next u) ∧
        (f.replay = false → ∀ c q, f.queue = c :: q → (s.group? c.gid).isSome = true →
          exec (.healthWindowClose team count) s = .next (raiseFfa u team c .ffaBias 0)))))

/-- The statements `FireflyWord`, `FireflyEvents`, each as its docstring says.
Where the manual leaves a point open this follows the model's choice: log entries 4, 5, 34, 46 and 84.
Completes: ffaCommandPerform, ffaSweepPerform, boundaryPublication, boundaryWaitExpiry, healthWindowClose. -/
def Obligations.FireflyArray : Prop := Spec.FireflyWord ∧ Spec.FireflyEvents


/-- R229, R230, R234 to R236, R244 to R246, R298: a matrix word acts at its last pass on the octets that hold an active lane, with what each pass has
read of its lanes: it is checked, its run is parked while a host page is awaited or the table has no entry for each octet, and otherwise one request for each enters the table.
Where the manual leaves a point open this follows the model's choice: log entries 27 and 45.
Completes: mxQ, mxZero, mxRd, mxWr, mxDrain. -/
def Obligations.MatrixWord : Prop :=
  ∀ (s : State) (w : LaneOp) (q : Issue), ∀ r ∈ matrixWords w, issues s r.1 q →
    let ls := readLanes q (mxLane s.cur w r.2.2.1)
    let o := onLanes q ls
    let os := octets s.cur.width o.lanes
    (q.final = false → exec r.1 s = .next (halfRead s q r.1 ls)) ∧
    (q.final = true → os = [] → exec r.1 s = .next (s.issued o r.1)) ∧
    (q.final = true → os ≠ [] → ¬ slotsHeld s w r.2.1 os → exec r.1 s = .next (raiseWord s o .mxSlot o.lanes 0)) ∧
    (q.final = true → os ≠ [] → slotsHeld s w r.2.1 os →
      (∀ u, r.2.2.2 o ls s = (.error none, u) → exec r.1 s = .next (park u o)) ∧
      (∀ f u, r.2.2.2 o ls s = (.error (some f), u) → exec r.1 s = .next (raiseWord u o f.code f.lanes f.addr)) ∧
      (∀ mk u, r.2.2.2 o ls s = (.ok mk, u) →
        exec r.1 s = .next (if tableFree (u.cluster (u.cur.core / 4)) u.cur.cls os.length
          then (enterReqs u (os.map (fun x => mk x.1 x.2))).issued o r.1 else park u o))) ∧
    (∀ m rows, (m, rows) ∈ os ↔ m < s.cur.width / 8 ∧ rows = o.lanes.extractLsb' (8 * m) 8 ∧ rows ≠ 0)

/-- R240 to R242: the fusion window and the grant; a pass takes the head, which is the least by class and age or the oldest under the grant, and up
to three Ready fusable requests; it ends 24 cycles after its last chunk, when each quarter commits its slot; one that
stopped at a chunk boundary gives its quarters back with their running sums (R250, R253). -/
def Sys2Proof.Spec.MatrixPass : Prop :=
  (∀ (s : State) (req : Nat), exec (.mxFusionWindowClose req) s = .next (s.modReq req (fun r =>
    { r with window := match r.window with | some c => if c ≤ s.cycle then none else some c | none => none }))) ∧
  (∀ (s : State) (cl : Nat), exec (.mxGrantArm cl) s = .next (s.modCluster cl (fun c =>
    if c.mxGrantWin ≤ s.cycle / 1024 then { c with mxGrantWin := s.cycle / 1024 + 1, mxGrant := true } else c))) ∧
  (∀ (s : State) (cl : Nat) h, mxHead s cl = some (h, false) → h ∈ (s.cluster cl).reqs ∧ h.ready = true ∧ h.window = none ∧
    ∀ r ∈ (s.cluster cl).reqs, r.ready = true → r.unmapped = false → r.window = none → mxAdmitted (s.tstepOf r.vf) r.cls = true → h.cls < r.cls ∨ h.cls = r.cls ∧ mxOlder h r) ∧
  (∀ (s : State) (cl : Nat) h, mxHead s cl = some (h, true) → (s.cluster cl).mxGrant = true ∧ h ∈ (s.cluster cl).reqs ∧ h.ready = true ∧
    ∀ r ∈ (s.cluster cl).reqs, r.ready = true → r.unmapped = false → mxAdmitted (s.tstepOf r.vf) r.cls = true → mxOlder h r) ∧
  (∀ (s : State) (cl : Nat) h grant, arrayFree (s.cluster cl) s.cycle = true → mxHead s cl = some (h, grant) → smapWf Cluster.reset s.clusters = true →
    ∃ t p, exec (.mxPassGrant cl) s = .next t ∧ t.cur = s.cur ∧ t.others = s.others ∧ t.mem = s.mem ∧ t.teams = s.teams ∧
      (t.cluster cl).passes = (s.cluster cl).passes ++ [p] ∧ p.members.head? = some h.id ∧ p.members.length ≤ 4 ∧
      (∀ m ∈ p.members, m = h.id ∨ ∃ r ∈ (s.cluster cl).reqs, r.id = m ∧ r.ready = true ∧ fusable h r = true) ∧
      p.start = s.cycle ∧ p.stop = none ∧ p.free = s.cycle + (h.chunks - h.next) * chunkCycles h.fmt ∧ p.commit = p.free + 23 ∧
      (t.cluster cl).mxGrant = ((s.cluster cl).mxGrant && !grant)) ∧
  (∀ (s : State) (cl : Nat), (∀ p ∈ (s.cluster cl).passes, s.cycle ≤ p.commit) → exec (.mxPassCommit cl) s = .next s) ∧
  (∀ (s : State) (cl : Nat) p n, (s.cluster cl).passes = [p] → p.commit < s.cycle → p.stop = some n →
    let u := passSums s p n (passReqs (s.cluster cl) p)
    exec (.mxPassCommit cl) s = .next (u.1.foldl (fun s e => stopQuarter s n p.free false e)
      (u.2.modCluster cl (fun c => { c with passes := c.passes.filter (fun x => x.id != p.id) })))) ∧
  (∀ (s : State) (cl : Nat) p, (s.cluster cl).passes = [p] → p.commit < s.cycle → p.stop = none →
    let reqs := passReqs (s.cluster cl) p
    let u := passSums s p ((reqs.map (fun r => r.chunks - r.next)).headD 0) reqs
    exec (.mxPassCommit cl) s = .next (u.1.foldl (fun s e => commitQuarter s e.1 e.2.1 e.2.2)
      (u.2.modCluster cl (fun c => { c with passes := c.passes.filter (fun x => x.id != p.id) })))) ∧
  (∀ (s : State) (r : MxReq) l t, s.team? r.team = some t → smapWf 0 t.acc = true → (l.map (fun x => x.1)).Nodup → ∃ t', (commitQuarter s r l false).team? r.team = some t' ∧
    t'.scr = t.scr ∧ (∀ i v, (i, v) ∈ l → sget t'.acc 0 (r.dst * 2048 + i) = v) ∧
    (∀ k, (∀ x ∈ l, k ≠ r.dst * 2048 + x.1) → sget t'.acc 0 k = sget t.acc 0 k))

/-- R229, R238, R244 to R246: a request whose turn on its slot has come is applied: `mx.zero` and `mx.wr` change the active rows, `mx.rd` writes four
registers of each active lane, `mx.drain` clears the rows only if it says so; no other element changes. -/
def Sys2Proof.Spec.SlotPort : Prop :=
  ∀ (s : State) (req : Nat) r t g, s.req? req = some r → r.stage = .waiting → r.held = false → r.unmapped = false → r.blocked (s.cluster (r.core / 4)).reqs = false →
    s.team? r.team = some t → s.group? r.gid = some g → smapWf 0 t.acc = true →
    (r.kind = .zero → ∃ u t', exec (.slotPortService req) s = .next u ∧ u.team? r.team = some t' ∧ u.mem = s.mem ∧ t'.scr = t.scr ∧
      ∀ slot i n, i < 8 → n < 256 → element t' slot i n = if slot = r.dst ∧ r.rows.getLsbD i then 0 else element t slot i n) ∧
    (r.kind = .wr → r.col < 64 → ∃ u t', exec (.slotPortService req) s = .next u ∧ u.team? r.team = some t' ∧ u.mem = s.mem ∧ t'.scr = t.scr ∧
      ∀ slot i n, i < 8 → n < 256 → element t' slot i n =
        if slot = r.dst ∧ r.rows.getLsbD i ∧ n / 4 = r.col then (r.wdata.getD i []).getD (n % 4) 0 else element t slot i n) ∧
    (r.kind = .rd → smapWf 0 g.v = true → r.reg + 3 < 256 → ∃ u g', exec (.slotPortService req) s = .next u ∧ u.group? r.gid = some g' ∧ u.mem = s.mem ∧ u.teams = s.teams ∧
      g'.s = g.s ∧
      (∀ i j, i < 8 → j < 4 → r.rows.getLsbD i = true → sget g'.v 0 ((8 * r.octet + i) * 256 + r.reg + j) = element t r.dst i (4 * r.col + j)) ∧
      (∀ k, (∀ i j, i < 8 → j < 4 → r.rows.getLsbD i = true → k ≠ (8 * r.octet + i) * 256 + r.reg + j) → sget g'.v 0 k = sget g.v 0 k)) ∧
    (r.kind = .drain → ∃ u t', exec (.slotPortService req) s = .next u ∧ u.team? r.team = some t' ∧ u.mem = s.mem ∧ t'.scr = t.scr ∧
      (∀ slot i n, i < 8 → n < 256 → element t' slot i n = if slot = r.dst ∧ r.rows.getLsbD i ∧ r.mod.getLsbD 3 then 0 else element t slot i n) ∧
      ∀ i k p, i < 8 → r.rows.getLsbD i = true → k < 32 → pageAt r.pages (r.rowAddr.getD i 0 + 16 * k) = some p → p.ptype = 0 →
        16 * k < (drainedRow r t i).length → ∃ w ∈ u.writes, w.pa = p.pa ∧ w.bytes = ((drainedRow r t i).drop (16 * k)).take 16 ∧ w.ref = .req r.id)

/-- The statements `MatrixPass`, `SlotPort`, each as its docstring says.
Where the manual leaves a point open this follows the model's choice: log entry 45.
Completes: mxFusionWindowClose, mxGrantArm, mxPassGrant, mxPassCommit, slotPortService. -/
def Obligations.MatrixPassesAndPort : Prop := Spec.MatrixPass ∧ Spec.SlotPort


namespace Sys2Proof.Spec

/-! Task mode. -/

/-- The word runs in a task of a grid launched in task mode (R343). -/
def inTask (s : State) (d : Grid) (t : Task) : Prop :=
  s.cur.live = true ∧ s.grid? s.cur.grid = some d ∧ s.cur.task = some t ∧ d.task = true

/-- The six task words. -/
def taskWords (a b : BitVec 6) : List Instr := [.spawn a b, .yield a, .tend, .scopeOpen, .scopeClose a, .vaddr a b]

/-- A record holds the values that its task will resume with (R330, R344, R345). -/
def saves (g : Group) (t : Task) (pc : Nat) (first : Nat) (r : Rec) : Prop :=
  (∃ a, r.task = { t with addr := a } ∧ (t.addr ≠ none → a = t.addr)) ∧ r.pc = pc ∧ r.home = g.team ∧ r.mask = (g.readK (BitVec.ofNat 4 t.msel) &&& g.k0) ∧
    r.svals = (List.range t.ns).map (fun i => g.readS (BitVec.ofNat 6 (first + i))) ∧
    r.vvals = (List.range t.nl).map (fun i => (List.range g.width).map (fun j => g.readV j (t.lbase + i)))

/-- The fields of a spawn descriptor with the base register are in range (R344). -/
def spawnFits (g : Group) (x : Word64) (b : BitVec 6) : Prop :=
  x.extractLsb' 46 18 = 0 ∧ (x.extractLsb' 33 5).toNat + (x.extractLsb' 28 5).toNat ≤ 16 ∧
    (x.extractLsb' 38 8).toNat + (x.extractLsb' 33 5).toNat ≤ g.alloc ∧ b.toNat + (x.extractLsb' 28 5).toNat ≤ 64 ∧ (x.extractLsb' 0 24).toNat < g.swords

/-- The task of a spawn descriptor (R344). -/
def spawned (x : Word64) (b : BitVec 6) (parent : Task) (sc next : Nat) (c : Task) : Prop :=
  c.root = false ∧ c.scope = sc ∧ c.sidx = next ∧ c.stack = [] ∧ c.msel = (x.extractLsb' 24 4).toNat ∧ c.ns = (x.extractLsb' 28 5).toNat ∧
    c.nl = (x.extractLsb' 33 5).toNat ∧ c.lbase = (x.extractLsb' 38 8).toNat ∧ c.sbase = b.toNat ∧ c.tree = parent.tree

end Sys2Proof.Spec

/-- R343, R355, R43, R176: outside task mode every task word is an ACCESS; in a task `exit` is one. Elsewhere `exit` ends the group once its runs,
accesses and promises are done, and waits until then.
Where the manual leaves a point open this follows the model's choice: log entry 52.
Completes: exit. -/
def Obligations.TaskModeCheckAndExit : Prop :=
  (∀ (s : State) (a b : BitVec 6), s.cur.live = true → (s.cur.task = none ∨ ∀ d, s.grid? s.cur.grid = some d → d.task = false) →
    ∀ i ∈ taskWords a b, exec i s = .next (raiseScalar s .access 0)) ∧
  (∀ (s : State), s.cur.live = true →
    (s.cur.task ≠ none → exec .exit s = .next (raiseScalar s .access 0)) ∧
    (s.cur.task = none → (taskQuiet s = false ∨ s.cur.proms ≠ []) → exec .exit s = .next (waited s)) ∧
    (s.cur.task = none → taskQuiet s = true → s.cur.proms = [] → gidsDiffer s → ∃ t, exec .exit s = .next t ∧ t.group? s.cur.gid = none ∧
      ∀ g ∈ s.others, g.team ≠ s.cur.team → g ∈ t.others))

/-- R344, R333, R348, R350: `spawn` adds a record with the child's values, `scope.open` a scope that the task owns; each has its checks. `vaddr` gives
the view's address, filling a blank view with its operator's identity: in the tree's scratchpad at once, or in device memory by writes that are
visible when it completes, for which it waits; an invalid tile is an ACCESS.
Where the manual leaves a point open this follows the model's choice: log entries 36 and 52.
Completes: spawn, scopeOpen, vaddr. -/
def Obligations.SpawnScopeView : Prop :=
  ∀ (s : State) d t (a b : BitVec 6), inTask s d t → s.cur.stall = .none →
    (taskQuiet s = false → exec (.spawn a b) s = .next (waited s)) ∧
    (∀ sc next, taskQuiet s = true → t.stack.getLast? = some (sc, next) →
      let x := s.cur.readS a
      (¬ spawnFits s.cur x b ∨ 4096 ≤ next → exec (.spawn a b) s = .next (raiseScalar s .access 0)) ∧
      (spawnFits s.cur x b → next < 4096 →
        let n := recSize (x.extractLsb' 28 5).toNat (x.extractLsb' 33 5).toNat s.cur.width
        (2 ^ 20 ≤ d.liveTasks ∨ hamperFit d (hamperOf s d t.tree) n = none → exec (.spawn a b) s = .next (raiseScalar s .viewPool 0)) ∧
        (d.liveTasks < 2 ^ 20 → ∀ addr, hamperFit d (hamperOf s d t.tree) n = some addr → ∃ u d' r c, exec (.spawn a b) s = .next u ∧
          u.grid? s.cur.grid = some d' ∧ d'.recs = d.recs ++ [r] ∧ d'.liveTasks = d.liveTasks + 1 ∧ spawned x b t sc next c ∧ c.addr = some addr ∧
          saves s.cur c (x.extractLsb' 0 24).toNat b.toNat r ∧ r.wait = none ∧
          u.cur = { (passed s).cur with task := some { t with stack := t.stack.dropLast ++ [(sc, next + 1)] } }))) ∧
    (t.stack.length = 8 → exec .scopeOpen s = .next (raiseScalar s .access 0)) ∧
    (t.stack.length ≠ 8 → 65535 ≤ d.scopes.length → exec .scopeOpen s = .next (raiseScalar s .viewPool 0)) ∧
    (t.stack.length ≠ 8 → d.scopes.length < 65535 → ∃ u d' c, exec .scopeOpen s = .next u ∧ u.grid? s.cur.grid = some d' ∧ d'.scopes = d.scopes ++ [c] ∧
      c.owner = t.id ∧ c.turn = 0 ∧ c.total = none ∧ c.aborted = false ∧ u.mem = s.mem ∧
      u.cur = { (passed s).cur with task := some { t with stack := t.stack ++ [(c.id, 0)] } }) ∧
    (let x := (s.cur.readS b).toNat
     let share := hamperOf s d t.tree
     let made := fun (addr : Nat) (d' : Grid) (w : View) => d'.views = d.views ++ [w] ∧ w.task = t.id ∧ w.tile = x ∧ w.st = 1 ∧ w.addr = addr
     let done := fun (u : State) => wrote u a (BitVec.ofNat 64 (x * 2 ^ 29)) 1
     (∀ v, d.vtiles[x]? = some v → x < 8 → v.valid = true → (mayWriteS s a = false → exec (.vaddr a b) s = .next (waited s)) ∧
       (mayWriteS s a = true → ((∃ w ∈ d.views, w.task = t.id ∧ w.tile = x ∧ w.st = 1) → exec (.vaddr a b) s = .next (done s)) ∧
       ((∀ w ∈ d.views, ¬ (w.task = t.id ∧ w.tile = x ∧ w.st = 1)) →
         (hamperFit d share (64 + v.size) = none → exec (.vaddr a b) s = .next (raiseScalar s .viewPool 0)) ∧
         (∀ addr, hamperFit d share (64 + v.size) = some addr → d.hsp = true → ∃ u d' w, exec (.vaddr a b) s = .next u ∧
           u.grid? s.cur.grid = some d' ∧ made addr d' w ∧ u.cur = (done s).cur ∧ u.mem = s.mem ∧
           ∀ m, s.team? t.tree = some m → smapWf 0 m.scr = true → ∃ m', u.team? t.tree = some m' ∧
             ∀ i, i < v.size / elemSize v.op → ofBytes (readBytes m'.scr (addr + 64 + elemSize v.op * i) (elemSize v.op)) = viewIdentity v.op) ∧
         (∀ addr, hamperFit d share (64 + v.size) = some addr → d.hsp = false → let pages := viewPages s d.vf s.cur.core (spans addr (64 + v.size))
           (∀ c f u, pages = (.error (c, f), u) → exec (.vaddr a b) s = .next (raiseScalar u c f)) ∧
           (∀ l u, pages = (.ok l, u) → l.all (fun p => clearAt u p.1 p.2) = false → exec (.vaddr a b) s = .next (waited u)) ∧
           (∀ l u, pages = (.ok l, u) → l.all (fun p => clearAt u p.1 p.2) = true → ∃ y d' w, exec (.vaddr a b) s = .next y ∧ y.mem = u.mem ∧
             y.grid? s.cur.grid = some d' ∧ made addr d' w ∧ y.cur = (done u).cur ∧
             (∀ pa n, l = [(pa, n)] → n = 64 + v.size → ∃ ws head fill, y.writes = u.writes ++ ws ∧ head.length = 64 ∧ covers pa (head ++ fill) ws ∧
               ∀ i, i < v.size / elemSize v.op → ofBytes ((fill.drop (elemSize v.op * i)).take (elemSize v.op)) = viewIdentity v.op)))))) ∧
     (∀ v, d.vtiles[x]? = some v → v.valid = false → exec (.vaddr a b) s = .next (raiseScalar s .access 0)) ∧
     ((8 ≤ x ∨ d.vtiles[x]? = none) → exec (.vaddr a b) s = .next (raiseScalar s .access 0)))

/-- R345, R347, R349: `yield`, `tend` and `scope.close` wait for their runs, accesses and the tick of their release, and then take effect: a yield
leaves a record that resumes past the word and waits for the named promise, and an ended task leaves its runner.
Where the manual leaves a point open this follows the model's choice: log entry 52.
Completes: yield, tend, scopeClose. -/
def Obligations.YieldTendClose : Prop :=
  ∀ (s : State) d t (a : BitVec 6), inTask s d t →
    let due := s.cur.hd + 2 ≤ s.timeOf s.cur
    (taskQuiet s = false → exec (.yield a) s = .next (waited s)) ∧
    (taskQuiet s = true → ¬ due → exec (.yield a) s = .next (stalled s (.horizon (s.cur.hd + 2) (.yield a)))) ∧
    (taskQuiet s = true → due → gidsDiffer s → ∃ u d' r, exec (.yield a) s = .next u ∧ u.grid? s.cur.grid = some d' ∧ d'.recs = d.recs ++ [r] ∧
      saves s.cur t (s.cur.pc + 1) t.sbase r ∧ u.cur.task = none ∧ u.cur.runs = [] ∧ u.cur.proms = [] ∧
      (a = 0 → r.wait = none) ∧
      (∀ p, a ≠ 0 → s.cur.proms = [p] → r.wait = if (s.cur.readS a).toNat = p.slot * 2 ^ 60 + p.time ∧ p.time < 2 ^ 60 then some p else none)) ∧
    (t.stack ≠ [] → exec .tend s = .next (raiseScalar s .access 0)) ∧
    (t.stack = [] → (taskQuiet s = false ∨ s.cur.proms ≠ []) → exec .tend s = .next (waited s)) ∧
    (t.stack = [] → taskQuiet s = true → s.cur.proms = [] → ¬ due → exec .tend s = .next (stalled s (.horizon (s.cur.hd + 2) .tend))) ∧
    (t.stack = [] → taskQuiet s = true → s.cur.proms = [] → due → gidsDiffer s → ∃ u, exec .tend s = .next u ∧
      ∀ g, u.group? s.cur.gid = some g → g.task = none) ∧
    (t.stack = [] → exec (.scopeClose a) s = .next (raiseScalar s .access 0)) ∧
    (t.stack ≠ [] → (taskQuiet s = false ∨ mayWriteS s a = false) → exec (.scopeClose a) s = .next (waited s)) ∧
    (t.stack ≠ [] → taskQuiet s = true → mayWriteS s a = true → ¬ due → exec (.scopeClose a) s = .next (stalled s (.horizon (s.cur.hd + 2) (.scopeClose a)))) ∧
    (∀ id n c, t.stack.getLast? = some (id, n) → taskQuiet s = true → mayWriteS s a = true → due → d.scope? id = some c → c.aborted = false → c.turn = n →
      c.ended = [] → c.folded = false → d.views = [] → s.turns = [] → ∃ u, exec (.scopeClose a) s = .next u ∧ u.mem = s.mem ∧ u.cur.pc = s.cur.pc + 1 ∧
      u.cur.s = (wrote s a 0 1).cur.s ∧ u.cur.task = some { t with stack := t.stack.dropLast })

/-- R327, R328, R334, R335, R345: an idle runner takes the bottom entry of its team's deque, and the record's task starts on it with the record's
scalar and lane values and mask, and nothing of the runner's previous task; a record whose operation is complete enters the top of the deque on which it yielded. -/
def Sys2Proof.Spec.RunnerEvents : Prop :=
  (∀ (s : State) (gid : Nat) g d, s.group? gid = some g → s.grid? g.grid = some d → atWork s g = true → d.task = true →
    (∀ rec r m, s.team? g.team = some m → m.deque.getLast? = some rec → s.gridOfRec rec = some d → d.rec? rec = some r → r.task.ns ≤ r.svals.length →
      ∃ u g', exec (.runnerIdleRetry gid) s = .next u ∧ u.group? gid = some g' ∧ g'.task = some r.task ∧ g'.pc = r.pc ∧ g'.stall = .none ∧
        g'.gstat = 0 ∧ g'.lstat = [] ∧ g'.runs = [] ∧ g'.proms = [] ∧ g'.acqfloor = 0 ∧ g'.hd = 0 ∧ u.mem = s.mem ∧
        (∀ i, i < r.task.ns → r.task.sbase + i < 64 → r.task.sbase + i ≠ 0 → g'.readS (BitVec.ofNat 6 (r.task.sbase + i)) = r.svals.getD i 0) ∧
        ((∀ i, i < r.vvals.length → r.task.lbase + i < 256) → ∀ i j l x, r.vvals[i]? = some l → l[j]? = some x →
          sget g'.v 0 (256 * j + r.task.lbase + i) = x) ∧
        (r.task.msel ≠ 0 → sget g'.k 0 r.task.msel = r.mask))) ∧
  (∀ (s : State) (rec : Nat) d r p, s.gridOfRec rec = some d → d.rec? rec = some r → r.wait = some p →
    (refDone s p.ref = false → exec (.yieldOperationComplete rec) s = .next s) ∧
    (∀ m, refDone s p.ref = true → s.team? r.home = some m → ∃ u m', exec (.yieldOperationComplete rec) s = .next u ∧ u.mem = s.mem ∧
      u.team? r.home = some m' ∧ (m.deque.length < 256 → m'.deque = rec :: m.deque ∧ m'.spill = m.spill) ∧
      (256 ≤ m.deque.length → m'.deque = m.deque ∧ m'.spill = m.spill ++ [rec])))

/-- R337, R341, R342, R351: a turn marks its right view and combines it into the left one, element by element, from where it stands; then the right view
is freed and the turn passes to its next tile; an element that cannot be combined is a MERGE_FAULT there. One with no view for a tile passes it;
after the last tile it ends, two ticks after its writes; a stopped turn, or one that waits for a saved team, does nothing. Within one scratchpad a
fold without errors leaves op(left, right) in every element of the left view. -/
def Sys2Proof.Spec.MergeTurn : Prop :=
  (∀ (s : State) (turn : Nat) t d, s.turns.find? (fun t => t.id == turn) = some t → s.grid? t.grid = some d →
    (t.stopped = true ∨ turnAway s d t = true → exec (.mergeTurn turn) s = .next s) ∧
    (t.stopped = false → turnAway s d t = false →
      (8 ≤ t.tile → exec (.mergeTurn turn) s = .next (finishTurn s t)) ∧
      (8 ≤ t.tile → s.gtc < t.h + 2 → (finishTurn s t).turns.map (fun x => x.id) = s.turns.map (fun x => x.id) ∧ (finishTurn s t).grids = s.grids) ∧
      (t.tile < 8 → (turnViews d t).1 = none → exec (.mergeTurn turn) s = .next (nextTile s t)) ∧
      (∀ v, t.tile < 8 → turnViews d t = (some v, none) → exec (.mergeTurn turn) s = .next (nextTile (adopt s d t v) t)) ∧
      (∀ r l vt, t.tile < 8 → turnViews d t = (some r, some l) → d.vtiles[t.tile]? = some vt →
        let marked := (if r.st = 3 then s else putHeader s d { r with st := 3 }).modGrid d.id (fun d => { d with
          views := d.views.map (fun x => if x.team = r.team ∧ x.addr = r.addr then { x with st := 3 } else x) })
        let stands := fun (u : State) (off h : Nat) => u.modTurn turn (fun t => { t with off := off, h := h })
        let f := foldElements d t.who.core vt r l t.off t.h marked ((vt.size - t.off) / elemSize vt.op)
        (∀ off h u, f = (none, off, h, u) → exec (.mergeTurn turn) s =
          .next (nextTile (freeRight (u.modTurn turn (fun t => { t with h := h })) t r) t)) ∧
        (∀ c a off h u, f = (some (c, a), off, h, u) → exec (.mergeTurn turn) s = .next (mergeFault (stands u off h) d { t with off := off, h := h } c a))))) ∧
  (∀ (s : State) (d : Grid) core (vt : VTile) (r l : View) off h n,
    (∀ e u, foldElement s d core vt vt.trap r l off = (.done e, u) →
      foldElements d core vt r l off h s (n + 1) = foldElements d core vt r l (off + elemSize vt.op) (max h e) u n) ∧
    (∀ c a u, foldElement s d core vt vt.trap r l off = (.fault c a, u) → foldElements d core vt r l off h s (n + 1) = (some (c, a), off, h, u))) ∧
  (∀ (s : State) (d : Grid) core (vt : VTile) (r l : View) off h k m, d.hsp = true → vt.trap = false → s.team? l.team = some m → m.errs = [] →
    smapWf 0 m.scr = true → (r.addr + off + k * elemSize vt.op ≤ l.addr + off ∨ l.addr + off + k * elemSize vt.op ≤ r.addr + off) →
    ∃ off' h' u m', foldElements d core vt r l off h s k = (none, off', h', u) ∧ u.mem = s.mem ∧ u.team? l.team = some m' ∧
      ∀ i, i < k → let n := elemSize vt.op; let at_ := fun (v : View) => v.addr + 64 + off + n * i
        readBytes m'.scr (at_ l) n = toBytes n (viewStep vt.op (ofBytes (readBytes m.scr (at_ l) n)) (ofBytes (readBytes m.scr (at_ r) n))).1) ∧
  (∀ x y, x < 2 ^ 64 → y < 2 ^ 64 → viewStep 2 x y = ((x + y) % 2 ^ 64, false)) ∧
  (∀ x y, x < 2 ^ 32 → y < 2 ^ 32 → viewStep 0 x y = ((x + y) % 2 ^ 32, false) ∧ viewStep 5 x y = (x ||| y, false) ∧ viewStep 7 x y = (x &&& y, false) ∧
    viewStep 1 x y = (if signedOf 32 x < signedOf 32 y then y else x, false) ∧ viewStep 3 x y = (if signedOf 32 y < signedOf 32 x then y else x, false) ∧
    ∀ op, op < 10 → op ≠ 2 → op ≠ 4 → op ≠ 6 → op ≠ 8 → viewStep op (viewIdentity op) x = (x, false)) ∧
  (∀ (s : State) (d : Grid) core (vt : VTile) trap (r l : View) off, d.hsp = true →
    let t := (s.team? l.team).getD Team.none_
    let n := elemSize vt.op
    let x := r.addr + 64 + off
    let y := l.addr + 64 + off
    let v := viewStep vt.op (ofBytes (readBytes t.scr y n)) (ofBytes (readBytes t.scr x n))
    x / 8 ∉ t.errs → y / 8 ∉ t.errs → (trap = false ∨ v.2 = false) →
      foldElement s d core vt trap r l off = (.done s.gtc, s.modTeam l.team (fun t => t.store y (toBytes n v.1))))

/-- The statements `RunnerEvents`, `MergeTurn`, each as its docstring says.
Where the manual leaves a point open this follows the model's choice: log entries 33 and 54.
Completes: runnerIdleRetry, yieldOperationComplete, mergeTurn. -/
def Obligations.RunnersAndFolds : Prop := Spec.RunnerEvents ∧ Spec.MergeTurn


namespace Sys2Proof.Spec

/-! Queues, packets, dispatch and the host's answers. -/

/-- A packet is complete at a time: it leaves its list, a round is due, and its decrements follow (R364, R365). -/
def packetDone (s t : State) (k : Pkt) (h : Nat) : Prop :=
  t.pkts = s.pkts.map (fun p => if p.id == k.id then { p with st := .completing 0, h := max p.h h } else p) ∧
    (smapWf Part.reset s.parts = true → (t.part k.part).needRound = true ∧ ∀ r ∈ (t.part k.part).ready, r.2.2 ≠ k.id)

/-- A packet is rejected: it is marked, and vector 1 of its function hears of it (R359). -/
def packetRejected (t : State) (k : Pkt) : Prop := ∀ p, t.pkt? k.id = some p → p.rejected = true ∧ p.st = .completing 0

/-- A write of an 8-byte word is on its way to its home. -/
def sends (s t : State) (pa x : Nat) : Prop :=
  ∃ w, t.writes = s.writes ++ [w] ∧ w.pa = pa ∧ w.keep = [] ∧ w.bytes = toBytes 8 x ∧ visibleAt s pa 8 w.v

/-- The packet waits and is tried again in the next tick: a host page or a port is awaited, or a queue is full (R182, R425). -/
def packetWaits (s t : State) (k : Pkt) : Prop :=
  t.pkts = s.pkts.map (fun p => if p.id == k.id then { p with recheck := s.gtc + 1 } else p) ∧ t.mem = s.mem ∧ t.twe = s.twe ∧ t.grids = s.grids

/-- A counter or signal that its Ant can read, as a two's-complement number less V (R226, R358, R363, R465). -/
def gap (s : State) (pa v : Nat) : Int := (BitVec.ofNat 64 (ofBytes (homeBytes s pa 8)) - BitVec.ofNat 64 v).toInt

/-- The group after a `qpush` with a status and an index (R322). -/
def pushed (g : Group) (cycle : Nat) (a : BitVec 6) (code index : Nat) : Group :=
  { g with
    pc := g.pc + 1, sready := cycle + 1, stall := .none, s := if a = 0 then g.s else sset g.s 0 a.toNat (BitVec.ofNat 64 (index * 2 ^ 32 + code))
    sboard := if a = 0 then g.sboard else sset g.sboard 0 a.toNat (cycle + 1) }

/-- The packet has entered the queue of a virtual function at its write index (R323). -/
def queuedAt (s t : State) (vf q : Nat) (p : BitVec 512) : Prop :=
  smapWf VDev.reset s.vdevs = true → smapWf Queue.reset (s.vdev vf).queues = true →
    (t.queue vf q).entries = (s.queue vf q).entries ++ [p] ∧ (t.queue vf q).widx = (s.queue vf q).widx + 1

/-- A head may leave its queue: its device and partition are active, no WAIT of the queue is open, and with ORD no packet of it is (R358, R362). -/
def headGoes (s : State) (vf q : Nat) (b : BitVec 512) : Prop :=
  (s.vdev vf).state = 1 ∧ (s.part ((s.partOfVf vf).getD 0)).state = 1 ∧
    ∀ k ∈ s.pkts, k.vf = vf → k.queue = q → k.open_ = true → pktOp k.bits ≠ 4 ∧ pktOrd b = false

/-- The wait table has room for whatever a whole pass may take. -/
def roomForPass (s : State) (part : Nat) : Prop :=
  (s.part part).table.length + (s.pkts.filter (fun k => k.part == part && k.st == .waiting)).length + 64 ≤ 4096

end Sys2Proof.Spec

/-- R322 to R325: `qpush` is a release; with a free entry it queues its block and returns the index, otherwise `qpush.nb` returns FULL and `qpush`
waits to its bound. `qpoll` returns the write index, the free entries and the deferred packets. -/
def Sys2Proof.Spec.QueueWord : Prop :=
  ∀ (s : State) (a b : BitVec 6) (nb : BitVec 1), s.cur.live = true →
    (earlierDone s s.cur = false ∨ mayWriteS s a = false ∨ s.hdPending s.cur.gid = true → exec (.qpush a b nb) s = .next (waited s)) ∧
    (earlierDone s s.cur = true → mayWriteS s a = true → s.hdPending s.cur.gid = false → s.timeOf s.cur < s.cur.hd + 2 →
      exec (.qpush a b nb) s = .next (stalled s (.horizon (s.cur.hd + 2) (.qpush a b (nb == 1))))) ∧
    (earlierDone s s.cur = true → mayWriteS s a = true → s.hdPending s.cur.gid = false → s.cur.hd + 2 ≤ s.timeOf s.cur →
      let v := stalled s .none
      let q := (s.cur.readS a).toNat
      (16 ≤ q → exec (.qpush a b nb) s = .next (raiseScalar v .access 0)) ∧
      (q < 16 → ∀ u, readBlock v (s.cur.readS b) = (.error none, u) →
        exec (.qpush a b nb) s = .next (waited (stalled u (.horizon u.gtc (.qpush a b (nb == 1)))))) ∧
      (q < 16 → ∀ c f u, readBlock v (s.cur.readS b) = (.error (some (c, f)), u) → exec (.qpush a b nb) s = .next (raiseScalar u c f)) ∧
      (q < 16 → ∀ p u, readBlock v (s.cur.readS b) = (.ok p, u) →
        (queueFree u u.cur.vf q ≠ 0 → u.cur.live = true → gidsDiffer u → ∃ t, exec (.qpush a b nb) s = .next t ∧ queuedAt u t u.cur.vf q p ∧
          t.cur = pushed u.cur u.cycle a 0 (u.queue u.cur.vf q).widx.toNat ∧ t.mem = u.mem) ∧
        (queueFree u u.cur.vf q = 0 → nb = 1 → exec (.qpush a b nb) s = .next { u with cur := pushed u.cur u.cycle a 1 0 }) ∧
        (queueFree u u.cur.vf q = 0 → nb = 0 → ∃ d, u.timeOf u.cur ≤ d ∧ exec (.qpush a b nb) s = .next (stalled u (.qpush q d p a))))) ∧
    (let x := (s.cur.readS b).toNat
     (16 ≤ x → exec (.qpoll a b) s = .next (raiseScalar s .access 0)) ∧
     (x < 16 → mayWriteS s a = true → ∀ d, s.grid? s.cur.grid = some d →
       exec (.qpoll a b) s = .next (wrote s a (BitVec.ofNat 64 ((d.deferred.filter (fun e => e.2.1 == x)).length +
         2 ^ 16 * min 65535 (queueFree s s.cur.vf x) + 2 ^ 32 * (s.queue s.cur.vf x).widx.toNat)) 1)))

/-- R323, R324: a waiting `qpush` takes a free entry, is deferred into the overflow area while its queue's oldest packet waits for its own grid, or
returns FULL at its bound; after its grid has ended the deferred packets enter their queues in slot order, and with the last of them, once no
tile-walk command of the grid is left, the grid is finished. -/
def Sys2Proof.Spec.QueueEvents : Prop :=
  (∀ (s : State) (gid : Nat) g q d p a, s.group? gid = some g → gidsDiffer s → (∀ t ∈ s.teams, ∀ x ∈ t.saved, x.gid ≠ gid) → g.stall = .qpush q d p a →
    (queueFree s g.vf q ≠ 0 → ∀ i ∈ [Instr.qpushBoundExpiry gid, .qpushEntryFreed gid], (s.grid? g.grid).isSome →
      ∃ t, exec i s = .next t ∧ queuedAt s t g.vf q p ∧ t.group? gid = some (pushed g s.cycle a 0 (s.queue g.vf q).widx.toNat)) ∧
    (queueFree s g.vf q = 0 → s.timeOf g < d → exec (.qpushBoundExpiry gid) s = .next s) ∧
    (queueFree s g.vf q = 0 → d ≤ s.timeOf g → exec (.qpushBoundExpiry gid) s = .next (s.setGroup (pushed g s.cycle a 1 0))) ∧
    (∀ x, queueFree s g.vf q = 0 → s.grid? g.grid = some x →
      (heldBack s g.vf q g.grid = false → exec (.qpushEntryFreed gid) s = .next s) ∧
      (heldBack s g.vf q g.grid = true → x.ovfSize / 64 ≤ x.nextDefer → exec (.qpushEntryFreed gid) s = .next (s.setGroup (pushed g s.cycle a 1 0))) ∧
      (heldBack s g.vf q g.grid = true → x.nextDefer < x.ovfSize / 64 → ∃ t x', exec (.qpushEntryFreed gid) s = .next t ∧ t.grid? g.grid = some x' ∧
        x'.deferred = x.deferred ++ [(x.nextDefer, q, p)] ∧ x'.nextDefer = x.nextDefer + 1 ∧ t.group? gid = some (pushed g s.cycle a 2 x.nextDefer)))) ∧
  (∀ (s : State) (grid : Nat) d, s.grid? grid = some d →
    (d.ended = false → exec (.deferredSubmit grid) s = .next s) ∧
    (d.ended = true → d.deferred = [] → exec (.deferredSubmit grid) s = .next (if tweOpen s grid then s else finishGrid s grid)) ∧
    (∀ n q p r, d.ended = true → d.deferred = (n, q, p) :: r →
      (queueFree s d.vf q = 0 → exec (.deferredSubmit grid) s = .next s) ∧
      (queueFree s d.vf q ≠ 0 → (r ≠ [] ∨ tweOpen s grid = true) → ∃ t d', exec (.deferredSubmit grid) s = .next t ∧ queuedAt s t d.vf q p ∧
        t.grid? grid = some d' ∧ d'.deferred = r) ∧
      (queueFree s d.vf q ≠ 0 → r = [] → tweOpen s grid = false → ∃ u, queuedAt s u d.vf q p ∧ u.mem = s.mem ∧ u.pkts = s.pkts ∧
        exec (.deferredSubmit grid) s = .next (finishGrid u grid))))

/-- The statements `QueueWord`, `QueueEvents`, each as its docstring says.
Where the manual leaves a point open this follows the model's choice: log entries 23, 49, 50 and 58.
Completes: qpush, qpoll, qpushBoundExpiry, qpushEntryFreed, deferredSubmit. -/
def Obligations.Queues : Prop := Spec.QueueWord ∧ Spec.QueueEvents


/-- R357, R358, R364: what the packets do once they head their lists: NOP completes; SIGNAL has its Ant add V; COPY gives a command to the TWE of the
partition's lowest cluster, or waits while its queue is full; WAIT completes when its signal has reached V and reads it again 4,096 ticks later otherwise; TIMESTAMP writes the GTC. -/
def Sys2Proof.Spec.PacketExecution : Prop :=
  (∀ (s : State) (pkt : Nat) k, headPacket s pkt 0 = some k → ∃ t, exec (.packetNop pkt) s = .next t ∧ packetDone s t k 0 ∧ t.mem = s.mem) ∧
  (∀ (s : State) (pkt : Nat) k p u, headPacket s pkt 1 = some k → pktPage s k.vf .signal (pktP0 k.bits) = (some p, u) → hasErr u p.pa 8 = false →
    ∃ t, exec (.signal pkt) s = .next t ∧ sends u t p.pa ((ofBytes (homeBytes u p.pa 8) + pktP1 k.bits) % 2 ^ 64) ∧ t.mem = u.mem) ∧
  (∀ (s : State) (pkt : Nat) k u, headPacket s pkt 1 = some k → pktPage s k.vf .signal (pktP0 k.bits) = (none, u) →
    ∃ t, exec (.signal pkt) s = .next t ∧ packetRejected t k) ∧
  (∀ (s : State) (pkt : Nat) k, headPacket s pkt 3 = some k → ∀ u, readDesc s k.vf (pktP0 k.bits) [64] = (.error .page, u) →
    ∃ t, exec (.copy pkt) s = .next t ∧ packetWaits u t k) ∧
  (∀ (s : State) (pkt : Nat) k, headPacket s pkt 3 = some k → ∀ c u, readDesc s k.vf (pktP0 k.bits) [64] = (.error (.fault c), u) →
    ∃ t, exec (.copy pkt) s = .next t ∧ packetRejected t k) ∧
  (∀ (s : State) (pkt : Nat) k b u, headPacket s pkt 3 = some k → readDesc s k.vf (pktP0 k.bits) [64] = (.ok b, u) →
    let d := BitVec.ofNat 512 (ofBytes b)
    let t := tileOf d
    let cl := 8 * (s.part k.part).baseq.toNat
    (tileFields .cpy d = true → t.sps = false → t.spd = false → t.gv = false → t.bv = false → (tweQueue u cl).length < 64 → ∃ v c, exec (.copy pkt) s = .next v ∧ v.twe = u.twe ++ [c] ∧
      c.kind = .packet k.id ∧ c.desc = d ∧ c.cluster = cl ∧ c.vf = k.vf ∧ c.stage = .queued ∧ c.result = none ∧ v.mem = u.mem) ∧
    (tileFields .cpy d = true → t.sps = false → t.spd = false → t.gv = false → t.bv = false → 64 ≤ (tweQueue u cl).length →
      ∃ v, exec (.copy pkt) s = .next v ∧ packetWaits u v k) ∧
    ((tileFields .cpy d = false ∨ t.sps = true ∨ t.spd = true ∨ t.gv = true ∨ t.bv = true) → ∃ v, exec (.copy pkt) s = .next v ∧ packetRejected v k)) ∧
  (∀ (s : State) (pkt : Nat) k p u, headPacket s pkt 4 = some k → pktPage s k.vf .signal (pktP0 k.bits) = (some p, u) →
    ∃ t, exec (.packetWait pkt) s = .next t ∧ t.mem = u.mem ∧ ∀ x, t.pkt? k.id = some x →
      (hasErr u p.pa 8 = false → 0 ≤ gap u p.pa (pktP1 k.bits) → x.st = .completing 0) ∧
      (hasErr u p.pa 8 = true ∨ gap u p.pa (pktP1 k.bits) < 0 → x.st = .running ∧ x.pa = p.pa ∧ x.recheck = u.gtc + 4096)) ∧
  (∀ (s : State) (pkt : Nat) k, s.pkt? pkt = some k → k.st = .running → pktOp k.bits = 4 →
    (s.gtc < k.recheck → exec (.waitRecheck pkt) s = .next s) ∧
    (k.recheck ≤ s.gtc → ∃ t, exec (.waitRecheck pkt) s = .next t ∧ t.mem = s.mem ∧ ∀ x, t.pkt? pkt = some x →
      (hasErr s k.pa 8 = false → 0 ≤ gap s k.pa (pktP1 k.bits) → x.st = .completing 0) ∧
      (hasErr s k.pa 8 = true ∨ gap s k.pa (pktP1 k.bits) < 0 → x.st = .running ∧ x.recheck = s.gtc + 4096))) ∧
  (∀ (s : State) (pkt : Nat) k p u, headPacket s pkt 5 = some k → pktPage s k.vf .write (pktP0 k.bits) = (some p, u) → p.ptype = 0 →
    ∃ t, exec (.timestamp pkt) s = .next t ∧ sends u t p.pa u.gtc ∧ t.mem = u.mem)

/-- R358 to R361: a LAUNCH reads its descriptor and checks it in order; a grid that passes stands ready to be placed; a packet that fails a check is
rejected, and one whose descriptor stands on an awaited host page waits (R182). -/
def Sys2Proof.Spec.LaunchPacket : Prop :=
  ∀ (s : State) (pkt : Nat) k, headPacket s pkt 2 = some k →
    (∀ u, readDesc s k.vf (pktP0 k.bits) (cuts (pktP0 k.bits) 192) = (.error .page, u) → ∃ t, exec (.launch pkt) s = .next t ∧ packetWaits u t k) ∧
    (∀ c u, readDesc s k.vf (pktP0 k.bits) (cuts (pktP0 k.bits) 192) = (.error (.fault c), u) → ∃ t, exec (.launch pkt) s = .next t ∧ packetRejected t k) ∧
    (∀ b u, readDesc s k.vf (pktP0 k.bits) (cuts (pktP0 k.bits) 192) = (.ok b, u) →
      let l := words8 24 b
      let d := gridOf u k u.nextId l
      (descOk l = false ∨ pktClass k.bits ≠ d.prio ∨ gridReject u d ≠ none → ∃ t, exec (.launch pkt) s = .next t ∧ packetRejected t k) ∧
      (descOk l = true → pktClass k.bits = d.prio → gridReject u d = none → ∃ t, exec (.launch pkt) s = .next t ∧ t.grids = u.grids ++ [d] ∧
        t.pkts = u.pkts.map (fun p => if p.id == k.id then { p with st := .running } else p) ∧ t.teams = u.teams ∧ t.mem = u.mem ∧
        d.nextTeam = 0 ∧ d.endedTeams = 0 ∧ d.pkt = k.id ∧ d.vf = k.vf))

/-- The statements `PacketExecution`, `LaunchPacket`, each as its docstring says.
Where the manual leaves a point open this follows the model's choice: log entries 55 and 59.
Completes: packetNop, signal, launch, copy, packetWait, waitRecheck, timestamp. -/
def Obligations.Packets : Prop := Spec.PacketExecution ∧ Spec.LaunchPacket


/-- R362 to R364: a firmware pass takes the head entry of each queue of its band that may give one, and leaves the rest of it and every other
queue as they are; a waiting packet whose counter is not above 0 becomes ready; a completed
packet has its counters decremented one by one, 2 ticks after its completion time, and is then gone. -/
def Sys2Proof.Spec.PacketFlow : Prop :=
  (∀ (s : State), s.hub.bootState = 1 → ∃ t, exec .firmwarePass s = .next t ∧ t.hub.lastPass = s.gtc ∧ t.hub.firmwarePass = s.hub.firmwarePass + 1 ∧
    t.mem = s.mem ∧ t.cur = s.cur ∧ t.others = s.others ∧ t.pkts.length ≤ s.pkts.length + 64 ∧
    ((∀ n, n < 64 → (s.queue ((64 * (s.hub.firmwarePass % 32) + n) / 16) ((64 * (s.hub.firmwarePass % 32) + n) % 16)).entries = []) → t.pkts = s.pkts)) ∧
  (∀ (s : State) (n : Nat), s.hub.bootState = 1 → smapWf VDev.reset s.vdevs = true → (∀ vf, smapWf Queue.reset (s.vdev vf).queues = true) → n < 2048 →
    let vf := n / 16
    let q := n % 16
    let part := (s.partOfVf vf).getD 0
    ∃ t, exec .firmwarePass s = .next t ∧
      (n / 64 ≠ s.hub.firmwarePass % 32 → t.queue vf q = s.queue vf q) ∧
      (n / 64 = s.hub.firmwarePass % 32 →
        ((s.queue vf q).entries = [] → t.queue vf q = s.queue vf q) ∧
        ∀ b r, (s.queue vf q).entries = b :: r →
          (¬ headGoes s vf q b → t.queue vf q = s.queue vf q) ∧
          (headGoes s vf q b → roomForPass s part → (t.queue vf q).entries = r ∧ (t.queue vf q).widx = (s.queue vf q).widx ∧
            ∃ k ∈ t.pkts, k.bits = b ∧ k.vf = vf ∧ k.queue = q ∧ k.part = part ∧ s.nextId ≤ k.id))) ∧
  (∀ (s : State) (part i id : Nat) k, (s.part part).table = [(i, id)] → s.pkt? id = some k → k.id = id → k.part = part → k.recheck ≠ 0 → smapWf Part.reset s.parts = true →
    let all := (s.part part).lastCheck + 4096 ≤ s.gtc
    let due := all ∨ k.recheck ≤ s.gtc
    ∃ t, exec (.dependencyRecheck part) s = .next t ∧ t.mem = s.mem ∧
      (due → hasErr s k.pa 8 = false → gap s k.pa 0 ≤ 0 → (t.part part).table = [] ∧ (pktClass k.bits, pktBf k.bits, id) ∈ (t.part part).ready) ∧
      (¬ due ∨ hasErr s k.pa 8 = true ∨ 0 < gap s k.pa 0 → (t.part part).table = [(i, id)] ∧ (t.part part).ready = (s.part part).ready)) ∧
  (∀ (s : State) (pkt : Nat) k n, s.pkt? pkt = some k → k.st = .completing n →
    (s.gtc < k.h + 2 → exec (.completionDecrement pkt) s = .next s) ∧
    (k.h + 2 ≤ s.gtc → min 4 (pktNdec k.bits) ≤ n → exec (.completionDecrement pkt) s = .next { s with pkts := s.pkts.filter (fun p => p.id != pkt) }) ∧
    (k.h + 2 ≤ s.gtc → n < min 4 (pktNdec k.bits) →
      let v := s.modPkt pkt (fun p => { p with st := .completing (n + 1) })
      ∀ p u, pktPage v k.vf .signal (pktDec k.bits n) = (some p, u) → hasErr u p.pa 8 = false → ∃ t, exec (.completionDecrement pkt) s = .next t ∧
        sends u t p.pa ((ofBytes (homeBytes u p.pa 8) + 2 ^ 64 - 1) % 2 ^ 64) ∧ t.mem = u.mem))

/-- R365, R399, R411, R416: a dispatch round takes place, and while the partition is not active, at level 7, or after a power failure it places
nothing; otherwise it serves the classes in ascending order. -/
def Sys2Proof.Spec.DispatchRound : Prop :=
  ∀ (s : State) (part : Nat), let v := closeSaves (s.modPart part (fun p => { p with needRound := false, lastRound := s.gtc })) part
    let barred := (v.part part).state ≠ 1 ∨ v.power.eff = 7 ∨ v.power.fail ≠ none ∨ v.power.stopped = true
    (barred → exec (.dispatchRound part) s = .next v) ∧
    (¬ barred → exec (.dispatchRound part) s = .next (serveClass part (serveClass part (serveClass part (serveClass part v 0) 1) 2) 3)) ∧
    ∀ (u : State) cls, cls ≤ 3 → (∀ r ∈ (u.part part).ready, r.1 ≠ cls) → (∀ r ∈ (u.part part).restore, r.1 ≠ cls) → serveClass part u cls = u

/-- The statements `PacketFlow`, `DispatchRound`, each as its docstring says.
Where the manual leaves a point open this follows the model's choice: log entries 34 and 59.
Completes: firmwarePass, dependencyRecheck, completionDecrement, dispatchRound. -/
def Obligations.PacketFlowAndDispatch : Prop := Spec.PacketFlow ∧ Spec.DispatchRound


/-- R371, R372, R401: the host's answer to the oldest halt record of a device takes it off the list; resume goes on as RETRY does and resume-skip as
IGNORE, with the registers that the host has rewritten in the record; kill ends the whole grid.
Where the manual leaves a point open this follows the model's choice: log entries 38, 48, 60 and 74.
Completes: resume, resumeSkip, kill. -/
def Obligations.HostAnswersHalt : Prop :=
  (∀ (s : State) (vf : Nat) h rest g fr, (s.vdev vf).halts = h :: rest → h.merge = false → h.team = 0 → s.group? h.gid = some g → g.fault = some fr → s.power.stopped = false →
    fr.src = .scalar → fr.code ≠ .detPower → g.heldFaults = [] →
    let v := s.modVDev vf (fun v => { v with halts := v.halts.drop 1 })
    let r := rearm v (h.addr + 128) h.ctx g
    let back := { r with fault := none, gstat := lastFault g.gstat fr.code, sready := max g.sready (s.cycle + 1) }
    (∃ t, exec (.resume vf) s = .next t ∧ t.vdevs = v.vdevs ∧ t.mem = s.mem ∧ t.group? h.gid = some { back with detPend := false }) ∧
    (∃ t, exec (.resumeSkip vf) s = .next t ∧ t.vdevs = v.vdevs ∧ t.mem = s.mem ∧ t.group? h.gid = some { back with pc := r.pc + 1 })) ∧
  (∀ (s : State) (vf : Nat) h rest, (s.vdev vf).halts = h :: rest → h.merge = false → s.power.stopped = false →
    exec (.kill vf) s = .next (killGrid (s.modVDev vf (fun v => { v with halts := v.halts.drop 1 })) h.grid)) ∧
  (∀ (s : State) (vf : Nat), (s.vdev vf).halts = [] → ∀ i ∈ [Instr.resume vf, .resumeSkip vf, .kill vf], exec i s = .next s) ∧
  (∀ (s : State) (a : Nat) (was : List Byte) (g : Group) (n : BitVec 6), smapWf 0 g.s = true → n ≠ 0 → hasErr s (a + 8 * n.toNat) 8 = false →
    let x := ofBytes (homeBytes s (a + 8 * n.toNat) 8)
    (rearm s a was g).readS n = if x = ofBytes ((was.drop (8 * n.toNat)).take 8) then g.readS n else BitVec.ofNat 64 x)

namespace Sys2Proof.Spec

/-! Saving, partitions, virtual devices, power. -/

/-- A power command leaves the levels, the highest of which is effective, and 1 ms to meet it (R409). -/
def commanded (s t : State) (level pins side : BitVec 3) : Prop :=
  let eff := BitVec.ofNat 3 (max level.toNat (max pins.toNat side.toNat))
  t.power = { s.power with
    level := level, pins := pins, side := side, eff := eff, effSince := if eff = s.power.eff then s.power.effSince else s.gtc
    deadline := if eff = 0 then none else some (s.gtc + 1000000) } ∧ t.mem = s.mem ∧ t.teams = s.teams ∧ (eff = s.power.eff → t = { s with power := t.power })

/-- The common clock in 1/16 GHz after a number of sub-steps of the throttle order: 1.5 GHz, and 0.125 GHz less for each of 5a to 5h, which are
sub-steps 7 to 14 (R410). -/
def clockAfter (tstep : Nat) : Nat := if tstep ≤ 6 then 24 else if tstep ≤ 14 then 24 - 2 * (tstep - 6) else 8

/-- A vector of a function is signalled: its message is sent, or, masked, its pending bit is set (R422). -/
def signalled (s t : State) (fn vec : Nat) : Prop :=
  if (sget s.hub.msix 0 (fn * 65536 + 16 * vec + 12)).getLsbD 0 then t.hub.signalled = s.hub.signalled ++ [(fn, vec)]
  else smapWf false s.hub.pba = true → sget t.hub.pba false (fn * 65536 + vec) = true

/-- The bound virtual functions of a partition (R400). -/
def boundIn (s : State) (n v : Nat) : Prop := v < 128 ∧ s.partOfVf v = some n ∧ (s.vdev v).bind = true

/-- The depth of a partition that is gated: that of the lowest class of its bound devices, or W3 at level 7 (R406, R409). -/
def gatedDepth (s : State) (n : Nat) (d : BitVec 2) : Prop :=
  if s.power.eff = 7 then d = 3 else (∀ v, boundIn s n v → d.toNat ≤ (s.vdev v).wclass.toNat) ∧ ∃ v, boundIn s n v ∧ d.toNat = (s.vdev v).wclass.toNat

/-- PART_CFGn's fields (R396). -/
def cfgField (p : Part) (x : Word64) : Prop :=
  p.prot = x.getLsbD 62 ∧ p.dfloor = x.extractLsb' 59 3 ∧ p.rsvc = x.extractLsb' 48 5 ∧ p.age = x.extractLsb' 32 16

/-- The quadrants of a new partition are aligned, at most 16, and held by no other (R395, R396). -/
def cfgFits (s : State) (n : Nat) (x : Word64) : Prop :=
  let b := (x.extractLsb' 4 4).toNat
  let k := (x.extractLsb' 0 3).toNat
  k ≤ 4 ∧ b % 2 ^ k = 0 ∧ ∀ m, m < 16 → m ≠ n → (s.part m).valid = true →
    ¬ (b < (s.part m).baseq.toNat + 2 ^ (s.part m).log2q.toNat ∧ (s.part m).baseq.toNat < b + 2 ^ k)

/-- A boot has failed: the reason of the check that failed, and no SVN (R427). -/
def bootFailed (s t : State) : Prop :=
  let v := Config.bootVerify s.hub.flash
  t.hub.svn = 0 ∧ t.hub.bootReason = (if v = 1 ∨ v = 2 ∨ v = 4 then BitVec.ofNat 4 v else if v = 0 then 3 else 5)

end Sys2Proof.Spec

/-- R296, R297, R375: a save request reaches every group of the team that is not in a task; a group at its save point leaves its core for the team's
context, registers and all.
Where the manual leaves a point open this follows the model's choice: log entries 44 and 61.
Completes: savePoint, hostSaveRequest. -/
def Obligations.SaveOfTeam : Prop :=
  (∀ (s : State) (team : Nat) t, s.team? team = some t →
    (t.saving ≠ none ∨ t.savedAt ≠ none → exec (.hostSaveRequest team) s = .next s) ∧
    (t.saving = none → t.savedAt = none → s.power.stopped = false → s.clusters = [] → gidsDiffer s → ∃ u t', exec (.hostSaveRequest team) s = .next u ∧ u.mem = s.mem ∧
      u.team? team = some t' ∧ t'.saving = some s.gtc ∧ ∀ gid g, s.group? gid = some g → g.team = team → ∃ g', u.group? gid = some g' ∧
        (g.task = none → g'.preempt = true) ∧ g'.s = g.s ∧ g'.v = g.v ∧ g'.pc = g.pc)) ∧
  (∀ (s : State) (gid : Nat) g t, s.group? gid = some g → s.team? g.team = some t → s.clusters = [] → gidsDiffer s →
    (atSavePoint s g = false → exec (.savePoint gid) s = .next s) ∧
    (atSavePoint s g = true → (∃ h ∈ s.groups, h.team = g.team ∧ h.gid ≠ gid) → ∃ u t' x, exec (.savePoint gid) s = .next u ∧ u.mem = s.mem ∧
      u.group? gid = none ∧ u.team? g.team = some t' ∧ t'.saved = t.saved ++ [x] ∧ x.gid = gid ∧ x.s = g.s ∧ x.k = g.k ∧ x.v = g.v ∧ x.lstat = g.lstat ∧
      x.pc = g.pc ∧ x.gctl = g.gctl ∧ x.gstat = g.gstat ∧ x.stall = g.stall ∧ x.proms = g.proms))

/-- R395, R396, R398, R399: a partition is made of quadrants that are free; a reset or a teardown abandons its work at once and ends within 200 or
400 ms; then it is active again, or gone, or, where a teardown came during the reset, torn down next; and PF vector n + 1 is signalled.
Where the manual leaves a point open this follows the model's choice: log entries 4 and 66.
Completes: partitionCreate, partitionTeardown, partitionReset, partitionResetComplete. -/
def Obligations.PartitionLife : Prop :=
  (∀ (s : State) (n : Nat) (x : Word64), tablesOk s → n < 16 → (s.part n).state = 0 → x.getLsbD 63 = true → s.power.stopped = false →
    (¬ cfgFits s n x → exec (.partitionCreate n x) s = .next s) ∧
    (cfgFits s n x → ∃ t, exec (.partitionCreate n x) s = .next t ∧ t.mem = s.mem ∧ (t.part n).valid = true ∧ (t.part n).state = 1 ∧
      (t.part n).baseq = x.extractLsb' 4 4 ∧ (t.part n).log2q = x.extractLsb' 0 3 ∧ cfgField (t.part n) x ∧
      ∀ m, m ≠ n → t.part m = s.part m)) ∧
  (∀ (s : State) (n : Nat), tablesOk s → n < 16 → (s.part n).resetAt = none → s.power.stopped = false →
    ((s.part n).state = 0 ∨ (s.part n).state = 2 → exec (.partitionReset n) s = .next s ∧ exec (.partitionTeardown n) s = .next s) ∧
    ((s.part n).state = 1 ∨ (s.part n).state = 3 → ∀ r ∈ [(Instr.partitionReset n, false, 200), (.partitionTeardown n, true, 400)],
      ∃ t d, exec r.1 s = .next t ∧ t.mem = s.mem ∧ (t.part n).state = 2 ∧ (t.part n).valid = (s.part n).valid ∧ (t.part n).resetAt = some d ∧
        s.gtc < d ∧ d ≤ s.gtc + r.2.2 * 1000000 ∧ (t.part n).teardown = r.2.1 ∧ (t.part n).ready = [] ∧ (t.part n).table = [] ∧
        (∀ g ∈ t.others, s.partOfVf g.vf ≠ some n ∨ 128 ≤ g.vf))) ∧
  (∀ (s : State) (n d : Nat), tablesOk s → (s.part n).resetAt = some d →
    (s.gtc < d → exec (.partitionResetComplete n) s = .next s) ∧
    ((s.part n).teardown = false → s.power.stopped = false → exec (.partitionTeardown n) s = .next (s.modPart n (fun p => { p with heldDown := true }))) ∧
    (d ≤ s.gtc → (s.part n).teardown = false → (s.part n).heldDown = false → ∃ t, exec (.partitionResetComplete n) s = .next t ∧ t.mem = s.mem ∧
      t.part n = { s.part n with state := 1, resetAt := none, heldDown := false } ∧ signalled s t 0 (n + 1)) ∧
    (d ≤ s.gtc → (s.part n).teardown = false → (s.part n).heldDown = true → ∃ t e, exec (.partitionResetComplete n) s = .next t ∧ t.mem = s.mem ∧
      (t.part n).state = 2 ∧ (t.part n).teardown = true ∧ (t.part n).resetAt = some e ∧ s.gtc < e ∧ e ≤ s.gtc + 400000000 ∧ signalled s t 0 (n + 1)) ∧
    (d ≤ s.gtc → (s.part n).teardown = true → ∃ t, exec (.partitionResetComplete n) s = .next t ∧ t.mem = s.mem ∧ (t.part n).valid = false ∧
      (t.part n).state = 0 ∧ (t.part n).resetAt = none ∧ signalled s t 0 (n + 1)))

/-- R400 to R402, R468: a function is bound in a valid partition with a save area in it, and unbound with its work abandoned and its state cleared,
which gates the partition where only collapsed devices are left; the doorbell of a bound one queues its packet.
Where the manual leaves a point open this follows the model's choice: log entries 20, 35, 65 and 66.
Completes: bind, unbind, doorbell. -/
def Obligations.BindUnbindDoorbell : Prop :=
  (∀ (s : State) (vf : Nat),
    ((s.partOfVf vf = none ∨ (s.vdev vf).bind = true ∨ s.hub.bootState ≠ 1 ∨ s.power.stopped = true) → exec (.bind vf) s = .next s) ∧
    (∀ n, s.partOfVf vf = some n → saveOk s vf n = false → exec (.bind vf) s = .next s) ∧
    (∀ n, tablesOk s → vf < 128 → s.partOfVf vf = some n → saveOk s vf n = true → (s.vdev vf).bind = false → s.hub.bootState = 1 → s.power.stopped = false →
      s.power.image = [] → ∃ t d, exec (.bind vf) s = .next t ∧ t.mem = s.mem ∧ t.vdev vf = { s.vdev vf with
        bind := true, state := if (s.part n).state = 3 then 4 else 1, moveAt := d, idleSince := s.gtc })) ∧
  (∀ (s : State) (vf : Nat), tablesOk s →
    ((s.vdev vf).bind = false → exec (.unbind vf) s = .next s) ∧
    ((s.vdev vf).bind = true → s.power.stopped = false → ∃ t, exec (.unbind vf) s = .next t ∧ t.mem = s.mem ∧ t.vdev vf = { s.vdev vf with
        queues := [], halts := [], rooms := [], bind := false, state := 0, qerrV := false, qerrQueue := 0, qerrOp := 0, qerrReason := 0
        moveAt := 0, wakeReq := false, idleSince := 0 } ∧
      (∀ g ∈ t.others, g.vf ≠ vf) ∧ (∀ x ∈ t.teams, x.vf ≠ vf) ∧ (∀ x ∈ t.grids, x.vf ≠ vf) ∧ (∀ x ∈ t.pkts, x.vf ≠ vf) ∧
      (smapWf Port.reset s.ports = true → ∀ p, ∀ x ∈ (t.port p).waiting, x.vf ≠ vf) ∧
      ∀ n, s.partOfVf vf = some n → (s.part n).state = 1 → (∀ v, v ≠ vf → boundIn s n v → (s.vdev v).state = 3) → (∃ v, v ≠ vf ∧ boundIn s n v) →
        (t.part n).state = 3)) ∧
  (∀ (s : State) (vf q : Nat) (p : BitVec 512),
    ((s.vdev vf).bind = false ∨ 16 ≤ q → exec (.doorbell vf q p) s = .next s) ∧
    (∀ n, (s.vdev vf).bind = true → q < 16 → s.power.stopped = false → s.partOfVf vf = some n → (s.part n).state ≠ 2 → queueFree s vf q ≠ 0 →
      ∃ t, exec (.doorbell vf q p) s = .next t ∧ queuedAt s t vf q p ∧ t.mem = s.mem))

/-- R405 to R408: an idle active device collapses, when told or at its time; once every bound device of a partition has collapsed the partition is
gated to the depth of the lowest class, at level 7 to W3; a wake brings a device back within its class's bound and VF vector 2 is signalled, and
at level 7 the wake of any bound device is recorded.
Where the manual leaves a point open this follows the model's choice: log entries 4 and 65.
Completes: collapse, idleCollapse, collapseComplete, wake, wakeComplete. -/
def Obligations.CollapseAndWake : Prop :=
  (∀ (s : State) (vf : Nat), tablesOk s →
    ((s.vdev vf).state ≠ 1 ∨ vfIdle s vf = false → exec (.collapse vf) s = .next s) ∧
    ((s.vdev vf).state = 1 → vfIdle s vf = true → s.power.stopped = false → ∃ t d, exec (.collapse vf) s = .next t ∧ t.mem = s.mem ∧ s.gtc ≤ d ∧
      t.vdev vf = { s.vdev vf with state := 2, moveAt := d }) ∧
    (idleOver s vf = false → exec (.idleCollapse vf) s = .next s) ∧
    (idleOver s vf = true → ∃ t d, exec (.idleCollapse vf) s = .next t ∧ t.mem = s.mem ∧ t.vdev vf = { s.vdev vf with state := 2, moveAt := d })) ∧
  (∀ (s : State) (vf n : Nat), tablesOk s → s.partOfVf vf = some n → (s.vdev vf).state = 2 → (s.vdev vf).bind = true →
    (s.gtc < (s.vdev vf).moveAt → exec (.collapseComplete vf) s = .next s) ∧
    ((s.vdev vf).moveAt ≤ s.gtc → (∀ t ∈ s.teams, t.vf ≠ vf) → ∃ t, exec (.collapseComplete vf) s = .next t ∧ t.mem = s.mem ∧ (t.vdev vf).state = 3 ∧
      ((∀ v, v < 128 → v ≠ vf → s.partOfVf v = some n → (s.vdev v).bind = true → (s.vdev v).state = 3) → (s.part n).state = 1 → vf < 128 →
        (t.part n).state = 3 ∧ gatedDepth s n (t.part n).depth))) ∧
  (∀ (s : State) (vf : Nat), tablesOk s →
    ((s.vdev vf).state ≠ 2 → (s.vdev vf).state ≠ 3 → (s.power.eff ≠ 7 ∨ (s.vdev vf).state = 0) → exec (.wake vf) s = .next s) ∧
    (s.power.eff = 7 → (s.vdev vf).state ≠ 0 → s.power.stopped = false → exec (.wake vf) s = .next (s.modVDev vf (fun v => { v with wakeReq := true }))) ∧
    (((s.vdev vf).state = 2 ∨ (s.vdev vf).state = 3) → s.power.stopped = false →
      (s.power.eff ≠ 7 → ∃ t d, exec (.wake vf) s = .next t ∧ t.mem = s.mem ∧ t.vdev vf = { s.vdev vf with state := 4, moveAt := d, wakeReq := false } ∧
        s.gtc < d ∧ d ≤ s.gtc + (match (s.vdev vf).wclass.toNat with | 0 => 200000 | 1 => 2000000 | 2 => 20000000 | _ => 200000000))) ∧
    ((s.vdev vf).state = 4 → (s.vdev vf).moveAt ≤ s.gtc → ∃ t, exec (.wakeComplete vf) s = .next t ∧ t.mem = s.mem ∧
      t.vdev vf = { s.vdev vf with state := 1, idleSince := s.gtc } ∧ signalled s t (vf + 1) 2 ∧ ∀ n, s.partOfVf vf = some n → (s.part n).state = 3 → (t.part n).state = 1) ∧
    ((s.vdev vf).state = 4 → s.gtc < (s.vdev vf).moveAt → exec (.wakeComplete vf) s = .next s))

/-- R409 to R411, R413: the highest of the three commanded levels is effective; a measurement above it enters the next sub-step and one below 90 % of
it for 100 µs releases the last; the clock follows the sub-steps; an unmet level after 1 ms sets UNMET. -/
def Sys2Proof.Spec.PowerSteps : Prop :=
  (∀ (s : State) (l : BitVec 3),
    (s.power.stopped = false → ∃ t, exec (.powerStepCommand l) s = .next t ∧ commanded s t l s.power.pins s.power.side) ∧
    (∃ t, exec (.pstepPins l) s = .next t ∧ commanded s t s.power.level l s.power.side) ∧
    (∀ b : Byte, (8 ≤ b.toNat → exec (.sidePortLevelWrite b) s = .next s) ∧
      (b.toNat < 8 → ∃ t, exec (.sidePortLevelWrite b) s = .next t ∧ commanded s t s.power.level s.power.pins (b.extractLsb' 0 3)))) ∧
  (∀ (s : State) (w : BitVec 16), let lv := [3400, 2800, 2200, 1600, 1100, 700, 350, 90].getD s.power.eff.toNat 90
    ∃ t, exec (.powerMeasurement w) s = .next t ∧
      ((s.power.tstep ≠ 16 ∨ s.teams = []) → t.power.meas = w ∧ t.power.lastMeasure = s.gtc ∧ t.power.eff = s.power.eff ∧ t.mem = s.mem) ∧
      (lv < w.toNat → (s.power.tstep ≠ 16 ∨ s.teams = []) → t.power.tstep = (if s.power.tstep < 18 then s.power.tstep + 1 else s.power.tstep) ∧ t.power.lowSince = none) ∧
      (lv < w.toNat → (s.power.tstep < 16 ∨ s.power.tstep = 17) → t.clk = clockAfter (s.power.tstep + 1)) ∧
      (w.toNat ≤ lv → 9 * lv ≤ 10 * w.toNat → t.power.tstep = s.power.tstep ∧ t.power.lowSince = none ∧ t.clk = s.clk) ∧
      (10 * w.toNat < 9 * lv → s.power.lowSince = none → t.power.tstep = s.power.tstep ∧ t.power.lowSince = some s.gtc) ∧
      (∀ d, 10 * w.toNat < 9 * lv → s.power.lowSince = some d → d + 100000 ≤ s.gtc → s.power.tstep ≠ 0 →
        t.power.tstep = s.power.tstep - 1 ∧ t.clk = clockAfter (s.power.tstep - 1))) ∧
  (∀ (s : State) d, s.power.deadline = some d →
    (s.gtc < d → exec .levelDeadline s = .next s) ∧
    (d ≤ s.gtc → s.power.eff ≠ 7 → ∃ t, exec .levelDeadline s = .next t ∧ t.power = { s.power with
      deadline := none
      unmet := if s.power.tstep = 18 ∧ [3400, 2800, 2200, 1600, 1100, 700, 350, 90].getD s.power.eff.toNat 90 < s.power.meas.toNat then true
        else s.power.unmet }))

/-- R415 to R419: a sag halves the clock until it has recovered, counted; a power failure of 100 ns is latched once; the drain ends with the package
stopped and its image reported only if the rails held; writing 1 to PWR_DRAIN.VALID discards it; while the package stands stopped the host's events do
nothing. -/
def Sys2Proof.Spec.SagAndDrain : Prop :=
  (∀ (s : State), ∃ t, exec .sag s = .next t ∧ t.clkNow = s.clk / 2 ∧ t.mem = s.mem ∧ t = { s with power := { s.power with sag := true, recover := 0 } }) ∧
  (∀ (s : State), (s.power.sag = false → exec .sagRecovery s = .next s) ∧ (s.power.sag = true → exec .sagRecovery s = .next { s with
    power := { s.power with sag := false, recover := 1000, sagcnt := if s.power.sagcnt.toNat = 65535 then s.power.sagcnt else s.power.sagcnt + 1 } })) ∧
  (∀ (s : State) (ns : Nat), (ns < 100 ∨ s.power.fail ≠ none ∨ s.power.stopped = true → exec (.pwrfail ns) s = .next s) ∧
    (100 ≤ ns → s.power.fail = none → s.power.stopped = false → (∀ n, n < 16 → (s.part n).valid = false) →
      exec (.pwrfail ns) s = .next { s with power := { s.power with fail := some s.gtc } }) ∧
    (∀ n, tablesOk s → 100 ≤ ns → s.power.fail = none → s.power.stopped = false → n < 16 → (s.part n).valid = true → (s.part n).prot = false →
      (∀ m, m < 16 → m ≠ n → (s.part m).valid = false) → ∃ t, exec (.pwrfail ns) s = .next t ∧ t.power.fail = some s.gtc ∧ t.mem = s.mem ∧ (t.part n).state = 3 ∧
        ∀ g ∈ t.others, s.partOfVf g.vf ≠ some n ∨ 128 ≤ g.vf)) ∧
  (∀ (s : State) (held : Bool), (s.power.fail = none ∨ s.power.stopped = true → exec (.drainComplete held) s = .next s) ∧
    (s.power.fail ≠ none → s.power.stopped = false → ∃ t, exec (.drainComplete held) s = .next t ∧ t.power.stopped = true ∧ t.power.drainValid = held ∧
      (held = false → t.power.drainSize = 0 ∧ t.power.image = []))) ∧
  (∀ (s : State), s.power.stopped = false →
    exec .drainDiscard s = .next { s with power := { s.power with drainValid := false, drainSize := 0, image := [], turns := [], lost := [] } }) ∧
  (∀ (s : State) (n : Nat) (x : Word64) (l : BitVec 3), s.power.stopped = true → ∀ i ∈ [Instr.partitionCreate n x, .partitionTeardown n, .partitionReset n,
    .bind n, .unbind n, .collapse n, .wake n, .hostSaveRequest n, .resume n, .resumeSkip n, .kill n, .powerStepCommand l, .drainDiscard, .reboot,
    .snapAtWrite x, .hubSnapGo, .snapPin, .pwrfail n], exec i s = .next s)

/-- The statements `PowerSteps`, `SagAndDrain`, each as its docstring says.
Where the manual leaves a point open this follows the model's choice: log entries 14, 34, 64 and 65.
Completes: powerStepCommand, pstepPins, sidePortLevelWrite, powerMeasurement, levelDeadline, sag, sagRecovery, pwrfail, drainComplete,
drainDiscard. -/
def Obligations.PowerControl : Prop := Spec.PowerSteps ∧ Spec.SagAndDrain


/-- R377, R418, R427, R428: a cold reset starts the machine again from its reset values, the flash and the harvest fuses apart, and the boot ROM
verifies the image: READY with its SVN, or FAIL with the reason; a complete drain image stays, and a reset that comes while the drain is still
writing leaves none, VALID 0; REBOOT verifies again while the boot has failed.
Where the manual leaves a point open this follows the model's choice: log entries 15, 24 and 64.
Completes: coldReset, reboot. -/
def Obligations.ColdResetAndBoot : Prop :=
  (∀ (s : State), ∃ t, exec .coldReset s = .next t ∧ t.gtc = 0 ∧ t.mem = [] ∧ t.cur.live = false ∧ t.others = [] ∧ t.teams = [] ∧ t.grids = [] ∧ t.pkts = [] ∧
    t.parts = [] ∧ t.vdevs = [] ∧ t.harvest = s.harvest ∧ t.hub.flash = s.hub.flash ∧ t.power.stopped = false ∧ t.power.fail = none ∧
    (s.power.fail = none ∨ s.power.stopped = true → t.power.drainValid = s.power.drainValid ∧ t.power.drainSize = s.power.drainSize ∧
      t.power.image.map (fun e => (e.1, e.2.1)) = s.power.image.map (fun e => (e.1, e.2.1))) ∧
    (s.power.fail ≠ none → s.power.stopped = false → t.power.drainValid = false ∧ t.power.drainSize = 0 ∧ t.power.image = []) ∧
    (t.hub.bootState = 1 ∨ t.hub.bootState = 2) ∧
    (t.hub.bootState = 1 ↔ Config.bootVerify s.hub.flash = 0 ∧ Config.minSvn.toNat ≤ (Config.bootSvn s.hub.flash).toNat) ∧
    (t.hub.bootState = 1 → t.hub.svn = Config.bootSvn s.hub.flash ∧ t.hub.bootReason = 0) ∧ (t.hub.bootState = 2 → bootFailed s t)) ∧
  (∀ (s : State), (s.hub.bootState ≠ 2 → exec .reboot s = .next s) ∧
    (s.hub.bootState = 2 → s.power.stopped = false → ∃ t, exec .reboot s = .next t ∧ t.mem = s.mem ∧ t.gtc = s.gtc ∧ t.power = s.power ∧
      t.cur = s.cur ∧ t.others = s.others ∧ t.vdevs = s.vdevs ∧ t.parts = s.parts ∧ t.hub.flash = s.hub.flash ∧ (t.hub.bootState = 1 ∨ t.hub.bootState = 2) ∧
      (t.hub.bootState = 1 ↔ Config.bootVerify s.hub.flash = 0 ∧ Config.minSvn.toNat ≤ (Config.bootSvn s.hub.flash).toNat) ∧
      (t.hub.bootState = 1 → t.hub.svn = Config.bootSvn s.hub.flash ∧ t.hub.bootReason = 0) ∧ (t.hub.bootState = 2 → bootFailed s t)))

namespace Sys2Proof.Spec

/-! The host, the links, the clocks, the counters and the side port. -/

/-- A host access is answered with a status and bytes; nothing else happens. -/
def replied (s : State) (status : Nat) (b : List Byte) : State := { s with hub := { s.hub with hostOut := s.hub.hostOut ++ [(status, b)] } }

/-- The reply of the side port. -/
def sideAnswered (s : State) (b : List Byte) : State := { s with hub := { s.hub with sideOut := s.hub.sideOut ++ [b] } }

/-- A response of the attestation responder: version, code, two parameters and its body; the free bytes it takes are counted. -/
def responded (s : State) (n : Nat) (b : List Byte) : State := { s with fresh := s.fresh + n, hub := { s.hub with doe := s.hub.doe ++ [b] } }

/-- A host or peer access has been answered from memory; beside the answer only the counters, the blocks of the slices and the free values have
moved on. -/
def answered (s t : State) (status : Nat) (b : List Byte) : Prop :=
  t = { s with clusters := t.clusters, fresh := t.fresh, hub := { s.hub with counters := t.hub.counters, hostOut := s.hub.hostOut ++ [(status, b)] } }

/-- What a read of device memory by the host or a peer is answered with (R225, R465). -/
def readAnswered (s t : State) (pa n : Nat) : Prop := if hasErr s pa n then answered s t 1 [] else answered s t 0 (readBytes s.mem pa n)

/-- A write of the host or a peer is on its way to its home. -/
def written (s t : State) (pa : Nat) (b : List Byte) : Prop :=
  ∃ w, t.mem = s.mem ∧ t.writes = s.writes ++ [w] ∧ w.pa = pa ∧ w.keep = [] ∧ w.bytes = b ∧ visibleAt s pa b.length w.v

/-- A body with the 96 bytes of its signature under the device key, the free value `k` places on (R429). -/
def signedBody (s : State) (k : Nat) (b : List Byte) : List Byte := b ++ toBytes 96 (Config.sign s.hub.key b (s.fresh + k))

/-- A latch is armed at T, or the trigger is lost and counted because one is armed (R393). -/
def armedAt (s : State) (t : Nat) : State :=
  { s with hub := if s.hub.armed = none then { s.hub with armed := some t, latched := 0 }
    else { s.hub with snapLost := if s.hub.snapLost.toNat = 65535 then s.hub.snapLost else s.hub.snapLost + 1 } }

/-- P holds of each of the three host AtomicOps with the value that it leaves where m stood (R225). -/
def EachHostOp (fn : HostFn) (off bits : Nat) (c v : Word64) (m : Nat) (P : Instr → Nat → Prop) : Prop :=
  P (.hostFetchadd fn off bits v) ((m + v.toNat) % 2 ^ bits) ∧ P (.hostSwap fn off bits v) (v.toNat % 2 ^ bits) ∧
  P (.hostCas fn off bits c v) (if m = c.toNat % 2 ^ bits then v.toNat % 2 ^ bits else m)

/-- An offset of the physical function's own registers that a write can act on (R423). -/
def pfListed (off : Nat) : Prop :=
  off ∈ [0x0000, 0x0008, 0x0110, 0x0200, 0x0208, 0x0210, 0x0300, 0x0308, 0x0310, 0x0500] ∨ (0x0400 ≤ off ∧ off < 0x0480 ∧ off % 8 = 0) ∨
    (0x0800 ≤ off ∧ off < 0x0900) ∨ (0x8000 ≤ off ∧ off < 0x8800 ∧ off % 4 = 0)

/-- An offset of a VDEV_ register that a write can act on (R402). -/
def vdevListed (off : Nat) : Prop :=
  off ∈ [0x00, 0x10, 0x18, 0x20, 0x28, 0x30, 0x38, 0x40, 0x48, 0x188] ∨ (0x100 ≤ off ∧ off < 0x180 ∧ off % 8 = 0)

/-- P holds of a write of a VDEV_ register by its virtual function, once the boot is READY, and by the physical function (R402). -/
def eachWay (s : State) (v off : Nat) (x : Word64) (P : Instr → Prop) : Prop :=
  (s.hub.bootState = 1 → P (.registerWrite (.vf v) off x)) ∧ P (.registerWrite .pf (0x10000 + 512 * v + off) x)

/-- A write of an MSI-X table, of a function's own index, takes its 8 bytes, or the DWORD at an odd multiple of 4, the mask bit inverted as the
model holds it; a vector that was pending and is no longer masked is signalled, and otherwise nothing else happens (R421, R422). -/
def tableWritten (s t : State) (fn a : Nat) (x : Word64) : Prop :=
  let n := if a % 8 = 4 then 4 else 8
  let key := fn * 65536 + a
  (smapWf 0 s.hub.msix = true →
    (∀ i, i < n → sget t.hub.msix 0 (key + i) = (if (a + i) % 16 = 12 then x.extractLsb' (8 * i) 8 ^^^ 1 else x.extractLsb' (8 * i) 8)) ∧
    ∀ k, (k < key ∨ key + n ≤ k) → sget t.hub.msix 0 k = sget s.hub.msix 0 k) ∧
  let open_ := (sget t.hub.msix 0 (fn * 65536 + 16 * (a / 16) + 12)).getLsbD 0
  if sget s.hub.pba false (fn * 65536 + a / 16) = true ∧ open_ = true then t.hub.signalled = s.hub.signalled ++ [(fn, a / 16)]
  else t = { s with hub := { s.hub with msix := t.hub.msix } }

/-- A write of a BAR0 register of the physical function with no behaviour of its own, and the state it leaves (R5, R394, R414, R423). -/
def plainWrites (s : State) (x : Word64) : List (Nat × State) :=
  [(0x0100, s), (0x0110, if x.getLsbD 0 then { s with hub := { s.hub with gtcErr := false, gtcDie := 0 } } else s),
   (0x0208, { s with hub := { s.hub with snapPin := x.getLsbD 1 } }),
   (0x0210, if x.extractLsb' 0 16 = 0 then s else { s with hub := { s.hub with snapLost := 0 } }),
   (0x0308, if x.getLsbD 6 then { s with power := { s.power with unmet := false } } else s),
   (0x0480, s), (0x0600, s), (0x0FF8, s)]

end Sys2Proof.Spec

/-- R5, R394, R396, R400 to R402, R414, R419, R423, R427: a register write acts by the access codes of the register: read-only and unlisted offsets keep
their values, a bit that is cleared by writing 1 is cleared, and a write that commands something is that event; the MSI-X tables, HUB_FROUTE and QBOUND
take what is written; a function that may not write is turned away, and nothing changes while the package is stopped.
Where the manual leaves a point open this follows the model's choice: log entries 25 and 70.
Completes: registerWrite. -/
def Obligations.RegisterWrite : Prop :=
  (∀ (s : State) (fn : HostFn) (off : Nat) (x : Word64), s.power.stopped = true → exec (.registerWrite fn off x) s = .next s) ∧
  (∀ (s : State) (x : Word64), s.power.stopped = false → ∀ r ∈ plainWrites s x, exec (.registerWrite .pf r.1 x) s = .next r.2) ∧
  (∀ (s : State) (x : Word64) (off : Nat), s.power.stopped = false →
    ((off < 0x10000 ∧ ¬ pfListed off) ∨ 0x20000 ≤ off → exec (.registerWrite .pf off x) s = .next s) ∧
    (∀ n, n < 16 → exec (.registerWrite .pf (0x400 + 8 * n) x) s = exec (.partitionCreate n x) s ∧
      exec (.registerWrite .pf 0x500 (BitVec.ofNat 64 (2 ^ n))) s = exec (.partitionReset n) s) ∧
    exec (.registerWrite .pf 0x0000 x) s = (if x.getLsbD 63 then exec .reboot s else .next s) ∧
    exec (.registerWrite .pf 0x0008 x) s = (if x.getLsbD 0 then exec .hubSnapGo s else .next s) ∧
    exec (.registerWrite .pf 0x0200 x) s = exec (.snapAtWrite x) s ∧
    exec (.registerWrite .pf 0x0300 x) s = exec (.powerStepCommand (x.extractLsb' 0 3)) s ∧
    exec (.registerWrite .pf 0x0310 x) s = (if x.getLsbD 63 then exec .drainDiscard s else .next s) ∧
    (∀ k, k < 256 → exec (.registerWrite .pf (0x800 + k) x) s =
      .next { s with hub := { s.hub with froute := sset s.hub.froute 0 k (x.extractLsb' 0 8) } }) ∧
    (∀ a, a < 0x800 → a % 4 = 0 → ∃ t, exec (.registerWrite .pf (0x8000 + a) x) s = .next t ∧ tableWritten s t 0 a x)) ∧
  (∀ (s : State) (v off : Nat) (x : Word64), s.power.stopped = false → s.hub.bootState ≠ 1 → exec (.registerWrite (.vf v) off x) s = .next s) ∧
  (∀ (s : State) (v : Nat) (x : Word64), s.power.stopped = false → v < 128 → (s.hub.bootState = 1 → ∀ r ∈
      [(0x20, s.modVDev v (fun d => { d with root := x.extractLsb' 14 38 })), (0x28, s.modVDev v (fun d => { d with contain0 := policyWord x })),
       (0x30, s.modVDev v (fun d => { d with contain1 := policyWord x })), (0x40, s), (0x48, s), (0x50, s), (0x08, s)],
      exec (.registerWrite (.vf v) r.1 x) s = .next r.2) ∧
    (∀ off, off < 512 → ¬ vdevListed off → eachWay s v off x fun i => exec i s = .next s) ∧
    (∀ q, q < 16 → eachWay s v (0x100 + 8 * q) x fun i =>
      exec i s = .next (s.modVDev v (fun d => { d with qbound := sset d.qbound 0 q (x.extractLsb' 0 32 - 0x100000) }))) ∧
    (eachWay s v 0x38 x fun i => exec i s = .next (if x.getLsbD 63 then
      s.modVDev v (fun d => { d with qerrV := false, qerrQueue := 0, qerrOp := 0, qerrReason := 0 }) else s)) ∧
    (eachWay s v 0x10 x fun i => exec i s = if x.getLsbD 0 then exec (.collapse v) s else .next s) ∧
    (eachWay s v 0x18 x fun i => exec i s = exec (.wake v) s) ∧
    (eachWay s v 0x188 x fun i => exec i s = match x.toNat % 4 with
      | 1 => exec (.resume v) s | 2 => exec (.resumeSkip v) s | 3 => exec (.kill v) s | _ => .next s) ∧
    (s.hub.bootState = 1 → ∀ a, a < 0xF0 → a % 4 = 0 → ∃ t, exec (.registerWrite (.vf v) (0x1800 + a) x) s = .next t ∧ tableWritten s t (v + 1) a x) ∧
    (s.hub.bootState = 1 → ∀ off, 0x1000 ≤ off → (off < 0x1800 ∨ 0x18F0 ≤ off ∨ off % 4 ≠ 0) → (0x1080 ≤ off ∨ off % 8 ≠ 0) → off ≠ 0x1088 → off ≠ 0x1090 →
      exec (.registerWrite (.vf v) off x) s = .next s) ∧
    ((s.vdev v).bind = false → ∀ r ∈ [(0x40, s.modVDev v (fun d => { d with save := x.extractLsb' 16 36 })),
      (0x48, s.modVDev v (fun d => { d with savesz := x.extractLsb' 0 32 }))], exec (.registerWrite .pf (0x10000 + 512 * v + r.1) x) s = .next r.2)) ∧
  (∀ (x : Word64) (n : Nat), n < 16 → ((policyWord x).extractLsb' (4 * n) 4).toNat = min 6 (x.extractLsb' (4 * n) 4).toNat)

/-- R184, R209, R225, R307, R407, R421, R424, R427, R428: a host or peer access to device memory is served at its home: a read answers memory's bytes, a
write is on its way, an atomic of a peer answers the value before and leaves its result; where the access has no place it fails, and one to a partition gated at W2 or W3 waits while its devices wake. -/
def Sys2Proof.Spec.HostMemoryAccess : Prop :=
  (∀ (s : State) (fn : HostFn) (off n : Nat), (hostPlace s fn off n = .none → exec (.hostBar4Read fn off n) s = .next (replied s 1 [])) ∧
    (∀ a, hostPlace s fn off n = .flash a → exec (.hostBar4Read fn off n) s = .next (replied s 1 [])) ∧
    (∀ pa, hostPlace s fn off n = .mem pa → ∃ t, exec (.hostBar4Read fn off n) s = .next t ∧ readAnswered s t pa n) ∧
    (∀ p, hostPlace s fn off n = .held p → (s.part p).state = 3 → 2 ≤ (s.part p).depth.toNat →
      exec (.hostBar4Read fn off n) s = .next ((vfsOf s p).foldl beginWake s))) ∧
  (∀ (s : State) (fn : HostFn) (off : Nat) (b : List Byte), (hostPlace s fn off b.length = .none → exec (.hostBar4Write fn off b) s = .next (replied s 1 [])) ∧
    (∀ a, hostPlace s fn off b.length = .flash a → exec (.hostBar4Write fn off b) s = .next { s with hub := { s.hub with flash := writeBytes s.hub.flash a b } }) ∧
    (∀ p, hostPlace s fn off b.length = .held p → (s.part p).state = 3 → 2 ≤ (s.part p).depth.toNat →
      exec (.hostBar4Write fn off b) s = .next ((vfsOf s p).foldl beginWake s)) ∧
    (∀ pa, hostPlace s fn off b.length = .mem pa → b ≠ [] → pa % 16 + b.length ≤ 16 → ∃ t, exec (.hostBar4Write fn off b) s = .next t ∧ written s t pa b)) ∧
  (∀ (s : State) (part a n : Nat) (ask : PeerAsk), (16 ≤ part ∨ (s.part part).valid = false ∨ s.hub.bootState ≠ 1 ∨ s.power.stopped = true) →
    exec (.peerRequest part a n ask) s = .next (replied s 1 [])) ∧
  (∀ (s : State) (part a n pa : Nat) (b : List Byte), part < 16 → (s.part part).valid = true → s.hub.bootState = 1 → s.power.stopped = false →
    (partPlace s (some part) a n = .mem pa → ∃ t, exec (.peerRequest part a n .read) s = .next t ∧ readAnswered s t pa n) ∧
    (partPlace s (some part) a b.length = .mem pa → b ≠ [] → pa % 16 + b.length ≤ 16 → ∃ t, exec (.peerRequest part a n (.write b)) s = .next t ∧ written s t pa b) ∧
    (∀ x : PeerAtom, partPlace s (some part) a b.length = .mem pa → b ≠ [] →
      ((b.length ≠ 4 ∧ b.length ≠ 8) ∨ pa % b.length ≠ 0 → exec (.peerRequest part a n (.atomic b x)) s = .next (replied s 1 [])) ∧
      ((b.length = 4 ∨ b.length = 8) → pa % b.length = 0 → hasErr s pa b.length = false → ∃ t, exec (.peerRequest part a n (.atomic b x)) s = .next t ∧
        written s t pa (toBytes b.length (antApply x.sub.toNat x.typ b.length (ofBytes (homeBytes s pa b.length)) (ofBytes b) (ofBytes x.cmp))) ∧
        t.hub.hostOut = s.hub.hostOut ++ [(0, homeBytes s pa b.length)]))) ∧
  (∀ (s : State) (p pa n : Nat), partPlace s (some p) pa n = .mem pa → n ≠ 0 ∧ (s.part p).state ≠ 2 ∧
    ∀ i, i < n → noMemory (pa + i) = false ∧ s.partOfQuad (stackOf (pa + i)) = some p)

/-- R225: a host AtomicOp of 32 or 64 bits, aligned, is applied by the home's Ant, which answers the value before; any other completes with
Unsupported Request and changes nothing. -/
def Sys2Proof.Spec.HostAtomicOperation : Prop :=
  ∀ (s : State) (fn : HostFn) (off bits : Nat) (c v : Word64),
    (((bits ≠ 32 ∧ bits ≠ 64) ∨ off % (bits / 8) ≠ 0) → EachHostOp fn off bits c v 0 fun i _ => exec i s = .next (replied s 1 [])) ∧
    ((bits = 32 ∨ bits = 64) → off % (bits / 8) = 0 → hostPlace s fn off (bits / 8) = .none → EachHostOp fn off bits c v 0 fun i _ => exec i s = .next (replied s 1 [])) ∧
    (∀ pa, (bits = 32 ∨ bits = 64) → off % (bits / 8) = 0 → hostPlace s fn off (bits / 8) = .mem pa → hasErr s pa (bits / 8) = false →
      EachHostOp fn off bits c v (ofBytes (homeBytes s pa (bits / 8))) fun i left => ∃ t w, exec i s = .next t ∧ t.mem = s.mem ∧ t.writes = s.writes ++ [w] ∧ w.pa = pa ∧ w.keep = [] ∧
        w.bytes = toBytes (bits / 8) left ∧ visibleAt s pa (bits / 8) w.v ∧ t.hub.hostOut = s.hub.hostOut ++ [(0, homeBytes s pa (bits / 8))])

/-- The statements `HostMemoryAccess`, `HostAtomicOperation`, each as its docstring says.
Where the manual leaves a point open this follows the model's choice: log entry 69.
Completes: hostBar4Read, hostBar4Write, hostFetchadd, hostSwap, hostCas, peerRequest. -/
def Obligations.HostMemory : Prop := Spec.HostMemoryAccess ∧ Spec.HostAtomicOperation


/-- R222, R223, R379, R391, R425, R426, R398: a port that is down, for at most 300 ms, holds what goes through it: the lanes' loads and stores, the hub's
stores, and a fence token's answer; when it is up
again its counts start from 0 and its tokens have been answered; an answer or a flush
completion moves Hs of the groups that wait for it; a die link's error resets the partitions on both dies, and a follower off by more than 1 tick those on its. -/
def Sys2Proof.Spec.LinksAndClocks : Prop :=
  (∀ (s : State) (n : Nat), n < 18 → (∃ d, s.gtc < d ∧ d ≤ s.gtc + 300000000 ∧
      exec (.fabricPortDown n) s = .next (({ s with fresh := s.fresh + 1 } : State).modPort n (fun p => { p with down := true, upAt := d }))) ∧
    ∃ t, exec (.fabricPortRetrain n) s = .next t ∧ t.mem = s.mem ∧ (∀ k ∈ t.tokens, k.port = n → k.flush = true ∨ 16 ≤ k.part) ∧
      (smapWf Port.reset s.ports = true → (s.port n).waiting = [] → t.port n = Port.reset)) ∧
  (∀ (s : State) (op lane : Nat) g o l p, readyLane s op lane = some (g, o, l, p) → p.ptype = 2 → (s.port (portOf s p.pa)).down = true →
    ∀ i ∈ [Instr.homeRead op lane, .homeWriteArrival op lane], exec i s = .next s) ∧
  (∀ (s : State) (pkt : Nat) k p u, headPacket s pkt 5 = some k → pktPage s k.vf .write (pktP0 k.bits) = (some p, u) → p.ptype = 2 →
    (u.port (portOf u p.pa)).down = true → ∃ t, exec (.timestamp pkt) s = .next t ∧ packetWaits u t k ∧ t.outStores = u.outStores ∧ t.writes = u.writes) ∧
  (∀ (s : State) (n : Nat), 18 ≤ n → exec (.fabricPortDown n) s = .next s ∧ exec (.fabricPortRetrain n) s = .next s) ∧
  (∀ (s : State) (id : Nat) k, s.tokens.find? (fun t => t.id == id && !t.flush) = some k →
    ((s.port k.port).down = true → exec (.fenceTokenAnswer id) s = .next s) ∧
    ((s.port k.port).down = false → (s.part k.part).retrainAt ≤ s.gtc → ∃ t, exec (.fenceTokenAnswer id) s = .next t ∧ t.mem = s.mem ∧
      (∀ x ∈ t.tokens, x.id ≠ id) ∧ ∀ ids, s.cur.live = true → s.cur.stall = .fenceSys ids → id ∈ ids → max s.cur.hs (s.timeOf s.cur) ≤ t.cur.hs)) ∧
  (∀ (s : State) (id : Nat) k, s.tokens.find? (fun t => t.id == id && t.flush) = some k → ∃ t, exec (.flushReadCompletion id) s = .next t ∧ t.mem = s.mem ∧
    (∀ x ∈ t.tokens, x.id ≠ id) ∧ ∀ ids, s.cur.live = true → s.cur.stall = .fenceSys ids → id ∈ ids → max s.cur.hs (s.timeOf s.cur) ≤ t.cur.hs) ∧
  (∀ (s : State) (a b : Nat), exec (.futorLinkError a b) s = .next ((resetDies s [a, b]).signal 0 0)) ∧
  (∀ (s : State) (l : List Int), l.length = 4 → (∀ x ∈ l, -1 ≤ x ∧ x ≤ 1) → ∃ t, exec (.gtcMeasure l) s = .next t ∧ t.skewGoal = l ∧ t.hub.lastMeasure = s.gtc ∧
    t.parts = s.parts ∧ t.hub.gtcErr = s.hub.gtcErr ∧ t.mem = s.mem ∧ t.gtc = s.gtc) ∧
  (∀ (s : State) (l : List Int), l.length = 4 → (∃ x ∈ l, x < -1 ∨ 1 < x) → ∃ t, exec (.gtcMeasure l) s = .next t ∧ t.hub.gtcErr = true ∧ t.mem = s.mem ∧
    t.gtc = s.gtc ∧ t.skewGoal = l.map (fun x => if x < -1 ∨ 1 < x then 0 else x) ∧
    ∀ n, tablesOk s → n < 16 → ((s.part n).state = 1 ∨ (s.part n).state = 3) → (s.part n).resetAt = none →
      (∃ q, q < 16 ∧ (l.getD (q / 4) 0 < -1 ∨ 1 < l.getD (q / 4) 0) ∧ s.partOfQuad q = some n) → (t.part n).state = 2) ∧
  (∀ (s : State) (dies : List Nat) (n : Nat), tablesOk s → n < 16 → ((s.part n).state = 1 ∨ (s.part n).state = 3) → (s.part n).resetAt = none →
    (∃ q, q < 16 ∧ q / 4 ∈ dies ∧ s.partOfQuad q = some n) → ((resetDies s dies).part n).state = 2)

/-- R392 to R394: a trigger arms a latch no earlier than 256 ticks from now, or is lost while one is armed; the SNAP pin arms only when enabled; each block
copies its counters at the end of tick T of its own GTC, and with the last one the latch is over and SEQ rises. -/
def Sys2Proof.Spec.Snapshots : Prop :=
  (∀ (s : State) (t : Word64), s.power.stopped = false → exec (.snapAtWrite t) s = .next (armedAt { s with hub := { s.hub with snapAt := t } } (max t.toNat (s.gtc + 256)))) ∧
  (∀ (s : State), s.power.stopped = false → exec .hubSnapGo s = .next (armedAt s (s.gtc + 256)) ∧ exec .snapPin s = .next (if s.hub.snapPin then armedAt s (s.gtc + 256) else s)) ∧
  (∀ (s : State), s.hub.armed = none → exec .snapshotLatch s = .next s) ∧
  (∀ (s : State) (t : Nat), s.hub.armed = some t → s.hub.latched = 0 → t ≤ s.gtc → (∀ d, d < 4 → t < s.timeNext d) → smapWf 0 s.hub.counters = true →
    smapWf 0 s.hub.copies = true → ∃ u, exec .snapshotLatch s = .next u ∧ u.hub.armed = none ∧ u.hub.snapSeq = s.hub.snapSeq + 1 ∧
      u.hub.snapTime = BitVec.ofNat 64 t ∧ u.mem = s.mem ∧ u.hub.counters = s.hub.counters ∧
      ∀ k, k < 2 ^ 20 → sget u.hub.copies 0 k = sget s.hub.counters 0 k)

/-- The statements `LinksAndClocks`, `Snapshots`, each as its docstring says.
Where the manual leaves a point open this follows the model's choice: log entries 13, 66, 68, 72 and 75.
Completes: fabricPortDown, fabricPortRetrain, fenceTokenAnswer, flushReadCompletion, futorLinkError, gtcMeasure, snapAtWrite, hubSnapGo,
snapPin, snapshotLatch. -/
def Obligations.LinksClocksSnapshots : Prop := Spec.LinksAndClocks ∧ Spec.Snapshots


/-- R429, R430, R465, R419: the responder answers every request with the version and code of the standard; the side port answers with its
register; an uncorrectable error stays in its place: reads leave it, and a write clears it where it replaces the whole sector, or the whole
scratchpad word.
Where the manual leaves a point open this follows the model's choice: log entries 10 and 11.
Completes: getVersion, getCapabilities, negotiateAlgorithms, getDigests, getCertificate, challenge, getMeasurements, sideReadTemperature,
sideReadPower, sideReadLevel, sideReadPortLevel, uncorrectableError. -/
def Obligations.ResponderSidePortAndErrors : Prop :=
  (∀ (s : State) (n i : Nat), s.power.stopped = false →
    exec .getVersion s = .next (responded s 0 [0x10, 0x04, 0, 0, 0, 1, 0x00, 0x12]) ∧
    (∃ b, exec .getCapabilities s = .next (responded s 1 ([0x12, 0x61, 0, 0] ++ b))) ∧ (∃ b, exec .negotiateAlgorithms s = .next (responded s 1 ([0x12, 0x63, 0, 0] ++ b))) ∧
    (∃ b, exec .getDigests s = .next (responded s 1 ([0x12, 0x01, 0, 0] ++ b))) ∧ (∃ b, exec .getCertificate s = .next (responded s 1 ([0x12, 0x02, 0, 0] ++ b))) ∧
    (∃ b, exec (.challenge n) s = .next (responded s 2 ([0x12, 0x03, 0, 0] ++ signedBody s 1 (toBytes 32 n ++ b)))) ∧
    exec (.getMeasurements { index := 0 }) s = .next (responded s 0 [0x12, 0x60, 3, 0]) ∧
    (i ≠ 0 → let m := if i = 255 then [1, 2, 3].flatMap (measurement s) else measurement s i
      exec (.getMeasurements { index := i }) s = .next (responded s 0 ([0x12, 0x60, 0, 0] ++ m)) ∧
      exec (.getMeasurements { index := i, nonce := some n }) s = .next (responded s 1 ([0x12, 0x60, 0, 0] ++ signedBody s 0 (m ++ toBytes 32 n))))) ∧
  (∀ (s : State) (n i : Nat), s.power.stopped = true → ∀ r ∈ [Instr.getVersion, .getCapabilities, .negotiateAlgorithms, .getDigests, .getCertificate, .challenge n,
    .getMeasurements { index := i }, .getMeasurements { index := i, nonce := some n }], exec r s = .next s) ∧
  (∀ (s : State) (a b c d e : Byte), exec (.sideReadTemperature [a, b, c, d, e]) s = .next (sideAnswered s [a, b, c, d, e]) ∧
    exec .sideReadPower s = .next (sideAnswered s [s.power.meas.extractLsb' 0 8, s.power.meas.extractLsb' 8 8]) ∧
    exec .sideReadLevel s = .next (sideAnswered s [s.power.eff.zeroExtend 8]) ∧ exec .sideReadPortLevel s = .next (sideAnswered s [s.power.side.zeroExtend 8])) ∧
  (∀ (s : State) (a : Nat), noMemory a = false → ∃ t, exec (.uncorrectableError .device a) s = .next t ∧ t.mem = s.mem ∧ a / 16 ∈ t.errs ∧ t.cur = s.cur ∧
    ∀ k ∈ s.errs, k ∈ t.errs) ∧
  (∀ (s : State) (fn : HostFn) (off n op lane : Nat), ∀ i ∈ [Instr.homeRead op lane, .hostBar4Read fn off n], ∃ t, exec i s = .next t ∧ t.errs = s.errs) ∧
  (∀ (s : State) w, firstWrite s = some w → w.keep = [] → w.ref = .host ∨ w.ref = .hub → ∃ t, exec .writeVisible s = .next t ∧
    ∀ k, k ∈ t.errs ↔ k ∈ s.errs ∧ ¬ (w.pa ≤ 16 * k ∧ 16 * k + 16 ≤ w.pa + w.bytes.length)) ∧
  (∀ (t : Team) (a : Nat) (b : List Byte) (k : Nat), k ∈ (t.store a b).errs ↔ k ∈ t.errs ∧ ¬ (a ≤ 8 * k ∧ 8 * k + 8 ≤ a + b.length)) ∧
  (∀ (s : State) (team a : Nat) t, s.team? team = some t → a < 2 ^ 19 → ∃ u t', exec (.uncorrectableError (.scratch team) a) s = .next u ∧
    u.team? team = some t' ∧ a / 8 ∈ t'.errs ∧ t'.scr = t.scr ∧ u.mem = s.mem)

namespace Sys2Proof.Spec

/-! Words and their encodings, a step, and what every step keeps. -/

/-- Nothing comes before the words of this cycle: no event is due, no step of the outside world, no start (log entry 1). -/
def wordsNext (s : State) : Prop :=
  dueEvent s = none ∧ takeInput s [] s.inputs = none ∧ s.power.stopped = false ∧ s.power.fail = none ∧ dueStarts s = none

/-- The group is the first, by core and slot, that has anything to do in this cycle, and that is a word of its own to issue or to execute: no earlier
word of it or of a group before it has anything left to do now (R26, R103, R196). -/
def firstAtWork (s : State) (g : Group) : Prop :=
  (∃ before after, s.groups = before ++ g :: after ∧ ∀ h ∈ before, pumpEvent s h = none ∧ lanePlan s h = none ∧ scalarTurn s h = false) ∧
    pumpEvent s g = none

/-- No lane word of a run is a cold reset: the lane words are those of the lane encodings. -/
def lanesAreWords (s : State) : Prop := ∀ g ∈ s.groups, ∀ r ∈ g.runs, ∀ d ∈ r.sides, Instr.coldReset ∉ d.words

/-- A trailer's contents as its slots can hold them (R88, R89). -/
def slotsOf (t : Trailer) : Prop := t.named = true ∧ t.regs.Nodup ∧ t.masks.Nodup

end Sys2Proof.Spec

/-- R68 to R74, R105 to R119, R172, R273, R309, R343, R383: a well-formed scalar instruction is read back from its word, every operand at every value;
and a word that decodes is the only word of its instruction, which is well formed. -/
def Obligations.ScalarEncoding : Prop :=
  (∀ (i : Instr) (w : BitVec 32), wf i = true → encodeScalar i = some w → decodeScalar w = .ok i) ∧
  (∀ (i : Instr) (w : BitVec 32), decodeScalar w = .ok i → encodeScalar i = some w ∧ wf i = true)

/-- R75 to R90: a well-formed lane instruction is read back from its word, every operand at every value; a word that decodes is the only word
of its instruction, which is well formed; a trailer gives back its token, registers and masks. -/
def Obligations.LaneEncoding : Prop :=
  (∀ (i : Instr) (w : BitVec 96), wf i = true → encodeLane i = some w → decodeLane w = .ok i) ∧
  (∀ (i : Instr) (w : BitVec 96), decodeLane w = .ok i → encodeLane i = some w ∧ wf i = true) ∧
  (∀ t : Trailer, slotsOf t → isTrailer (encodeTrailer t) = true ∧ decodeTrailer (encodeTrailer t) = .ok t)

/-- R68, R72, R108, R113, R119, R121, R309, R343, R383: words written out from the encoding tables decode to the instructions they stand for. -/
def Obligations.EncodingExamples : Prop :=
  decodeScalar 0b000000_000101_000110_000111_00000000#32 = .ok (.add 5 6 7) ∧
  decodeScalar 0b000010_000101_000110_11111111111111#32 = .ok (.addi 5 6 0x3FFF) ∧
  decodeScalar 0x2C992340#32 = .ok (.li 9 0x92340) ∧
  decodeScalar 0b011000_0001_000011_1111111111111110#32 = .ok (.bCc 1 3 0xFFFE) ∧
  decodeScalar 0b011100_0010_0011_0100_000000_00000000#32 = .ok (.kand 2 3 4) ∧
  decodeScalar 0b100000_00000001_1_00000000000000101#32 = .ok (.run 1 1 5) ∧
  decodeScalar 0b100010_0000000000_0000_00001010_0000#32 = .ok (.wait 0x0A) ∧
  decodeScalar 0b100100_0000000000_000100_000101_0000#32 = .ok (.cpy 4 5) ∧
  decodeScalar 0b100110_0000000011_000001_000010_0000#32 = .ok (.barWait 1 2) ∧
  decodeScalar 0b101000_0000000110_000111_001000_0000#32 = .ok (.ffaSweep 7 8) ∧
  decodeScalar 0b101010_0000000010_000000_000000_0000#32 = .ok .tend ∧
  decodeScalar 0b110000_0000000100_000000_000000_0010#32 = .ok (.fence 2) ∧
  decodeScalar 0b111111_00000000000000000000000000#32 = .error .opcode

/-- R19, R70, R101, R103, R112, R27: a step at which a group's scalar word comes next runs the decoded word at the state after its fetch; a
word that is not ready yet, or a barrier word that waits for the last cycle of its tick (R382), is tried again a cycle later; a word that is no
instruction is an ILLEGAL_OP; a PC past the section and a fetch that fails raise their faults. A lane word that is an Issuing run's next is
run at its position. The order among what is ready is the model's own (log entry 1). -/
def Obligations.StepRunsWord : Prop :=
  (∀ (s : State) g, wordsNext s → firstAtWork s g → lanePlan s g = none → scalarTurn s g = true → (s.focus g.gid).cur.detPend = false → let f := s.focus g.gid
    (∀ w u i, fetchScalar f = .ok (w, u) → decodeScalar w = .ok i → scalarReady u u.cur i = true → barrierWaits u i = false → step s = exec i { u with worked := true }) ∧
    (∀ w u i, fetchScalar f = .ok (w, u) → decodeScalar w = .ok i → scalarReady u u.cur i = false ∨ barrierWaits u i = true → step s = .next (waited u)) ∧
    (∀ w u e, fetchScalar f = .ok (w, u) → decodeScalar w = .error e → step s = .next (raiseScalar u .illegalOp 0)) ∧
    (f.cur.swords ≤ f.cur.pc → step s = .next (raiseScalar f .access (f.cur.scb.toNat + 4 * f.cur.pc))) ∧
    (f.cur.pc < f.cur.swords → let code := fetchCode f f.cur (launchOf f f.cur) (f.cur.scb.toNat + 4 * f.cur.pc) 4
      (∀ b u, code = (.ok b, u) → fetchScalar f = .ok (BitVec.ofNat 32 (ofBytes b), u)) ∧
      (∀ c u, code = (.error (.fault c), u) → step s = .next (raiseScalar u c (f.cur.scb.toNat + 4 * f.cur.pc))) ∧
      (∀ u, code = (.error .page, u) → step s = .next (waited u)))) ∧
  (∀ (s : State) g, wordsNext s → firstAtWork s g →
    (∀ i t, lanePlan s g = some (.word i t) → step s = exec i t ∧
      ∃ r ∈ g.runs, ∃ d ∈ r.sides, g.live = true ∧ d.words[d.wi]? = some i ∧ t = { s with worked := true }.at_ g.gid r.seq d.side) ∧
    (∀ t, lanePlan s g = some (.next t) → step s = .next t)) ∧
  (∀ (s : State) g r d i, g.live = true → g.runs = [r] → turnOf s g r = some d → d.words[d.wi]? = some i →
    ((together s r.stream d).length ≤ 1 ∨ isEngineWord i = false ∧ ∀ m ∈ together s r.stream d, isEngineWord m.word = false) → (r.parked = false ∨ isEngineWord i = false) →
      lanePlan s g = some (.word i ({ s with worked := true }.at_ g.gid r.seq d.side))) ∧
  (∀ (i : Instr) (w : Nat), w < 2 ^ 32 → decodeTableWord 32 w = some i → decodeScalar (BitVec.ofNat 32 w) = .ok i)

/-- Every step of the machine answers a next state: no instruction, no fault of the manual and no event stops it or makes it decline. -/
def Obligations.EveryStepAnswers : Prop := ∀ s : State, ∃ t, step s = .next t

/-- Every step keeps device memory in its canonical form: addresses strictly rising, no entry equal to what an unlisted byte reads as
(log entry 15 names that value). -/
def Obligations.MemoryStaysCanonical : Prop := ∀ s t : State, s.canonical → step s = .next t → t.canonical

/-- R4, R377: a step leaves the GTC and the cycle count as they are or adds 1 to one of them, unless it is a cold reset, which restarts both at 0; and
a cold reset comes from the outside world alone, as an input whose tick has come. -/
def Obligations.ClockOnlyAdvances : Prop :=
  (∀ s t : State, step s = .next t →
    (t.gtc = s.gtc ∧ (t.cycle = s.cycle ∨ t.cycle = s.cycle + 1)) ∨ (t.gtc = s.gtc + 1 ∧ t.cycle = s.cycle) ∨
      (t.gtc = 0 ∧ t.cycle = 0 ∧ ∃ u, plan s = .word .coldReset u)) ∧
  (∀ s u : State, lanesAreWords s → plan s = .word .coldReset u → ∃ tick, (tick, Instr.coldReset) ∈ s.inputs ∧ tick ≤ s.gtc)

/-- R377, R378, R391, R394, R396, R401, R409, R414, R427: the machine right after cold reset: GTC 0, the boot ROM running, no partition made, no
function bound, level 0 and no throttling, nothing resident, queued or latched, and memory in canonical form. Values the manual does not give (log entries 2,
15, 16) are not stated here. -/
def Obligations.ResetState : Prop :=
  let s := State.reset
  s.gtc = 0 ∧ s.hub.bootState = 0 ∧ s.hub.bootReason = 0 ∧ (∀ n, (s.part n).valid = false ∧ (s.part n).state = 0) ∧
    (∀ v, (s.vdev v).bind = false ∧ (s.vdev v).state = 0) ∧ s.power.level = 0 ∧ s.power.eff = 0 ∧ s.power.tstep = 0 ∧ s.power.unmet = false ∧
    s.power.drainValid = false ∧ s.clk = 24 ∧ s.hub.snapSeq = 0 ∧ s.hub.armed = none ∧ s.groups = [] ∧ s.teams = [] ∧ s.grids = [] ∧ s.pkts = [] ∧
    (∀ n, (s.port n).down = false) ∧ s.canonical

namespace Sys2Proof.Spec

/-! Where Firefly words and further events complete, under conditions on the state and the operands alone. -/

/-- A coupling descriptor in range (R274): COUNT in bits 30:16, START in bits 13:0. -/
def couplingOk (d : Word64) : Prop :=
  d.extractLsb' 31 32 = 0 ∧ d.extractLsb' 14 2 = 0 ∧ 1 ≤ (d.extractLsb' 16 15).toNat ∧ (d.extractLsb' 0 14).toNat + (d.extractLsb' 16 15).toNat ≤ 16384

/-- A node descriptor in range (R274): COUNT in bits 26:16, FIRST in bits 9:0. -/
def nodesOk (d : Word64) : Prop :=
  d.extractLsb' 27 36 = 0 ∧ d.extractLsb' 10 6 = 0 ∧ 1 ≤ (d.extractLsb' 16 11).toNat ∧ (d.extractLsb' 0 10).toNat + (d.extractLsb' 16 11).toNat ≤ 1024

/-- The register values of a Firefly command are in range (R272 check 2, R274 to R281). -/
def valuesOk : FfaKind → Prop
  | .ldj _ d => couplingOk d
  | .ldh _ d => nodesOk d
  | .rdc _ d => nodesOk d
  | .rds _ => True
  | .ldc w => w.toNat < 2 ^ 28 ∧ 1 ≤ w.toNat % 16 ∧ w.toNat % 16 ≤ 8
  | .clamp n a => n.toNat < 1024 ∧ a.toNat < 4
  | .beta b => b.toNat < 65536
  | .mode w st => w.extractLsb' 21 11 = 0 ∧ w.extractLsb' 9 3 = 0 ∧ w.extractLsb' 1 3 = 0 ∧ 1 ≤ (w.extractLsb' 4 5).toNat ∧
      (w.extractLsb' 4 5).toNat ≤ 16 ∧ st.toNat < 2 ^ 22
  | .sweep n => n ≤ 2 ^ 20
  | .zc d => nodesOk d
  | .bnd n w => n.toNat < 1024 ∧ w.extractLsb' 32 31 = 0 ∧ w.extractLsb' 25 6 = 0 ∧ w.extractLsb' 10 6 = 0

/-- The memory of a Firefly command (R272 checks 3 to 5): whether it writes, whether it is in the scratchpad, its alignment, its first byte, its bytes. -/
def memoryOf : FfaKind → Option (Bool × Bool × Nat × Nat × Nat)
  | .ldj a d => some (false, d.getLsbD 63, 4, a.toNat, 4 * (d.extractLsb' 16 15).toNat)
  | .ldh a d => some (false, d.getLsbD 63, 8, a.toNat, 8 * (d.extractLsb' 16 11).toNat)
  | .rdc a d => some (true, d.getLsbD 63, 2, a.toNat, 2 * (d.extractLsb' 16 11).toNat)
  | .rds a => some (true, false, 16, a.toNat, 128)
  | _ => none

/-- The memory of a Firefly command may be reached (R272): aligned, and in the team's scratchpad, or on device pages whose translations `u` and
`pages` hold. -/
def reaches (s : State) (k : FfaKind) (pages : List (Nat × Page)) (u : State) : Prop :=
  match memoryOf k with
  | none => pages = [] ∧ u = s
  | some (w, sp, al, a, n) => a % al = 0 ∧
      if sp then a + n ≤ (s.teamOf s.cur).scrSize ∧ pages = [] ∧ u = s
      else a < 2 ^ 60 ∧ gatherDevice s s.cur (if w then needWrite else needRead) (spans a n) = (pages, [], u)

/-- The array of a team after an event: its queue has lost its head command. -/
def headGone (s t : State) (team : Nat) (f f' : Ffa) : Prop :=
  t.mem = s.mem ∧ ((t.team? team).bind (fun x => x.ffa)) = some f' ∧ f'.queue.map (fun c => c.id) = (f.queue.drop 1).map (fun c => c.id)

end Sys2Proof.Spec

/-- R120, R270 to R282: the twelve Firefly words complete, each with its own effect, whenever the team has an array whose queue of 16 has room, the
group's earlier runs and accesses are done, the register values are in range, the memory of the command is aligned and may be reached, no other
array of the grid holds the ARRAY_ID of a mode word, and, for a sweep, a promise slot is free and no run still reads its register. The command
joins the queue, the PC moves on, device memory stays, and a sweep holds one promise more; `ffa.hs` writes the health word.
Where the manual leaves a point open this follows the model's choice: log entries 46 and 84.
Completes: ffaLdj, ffaLdh, ffaLdc, ffaClamp, ffaBeta, ffaMode, ffaSweep, ffaRdc, ffaRds, ffaZc, ffaBnd, ffaHs. -/
def Obligations.FireflyWordsComplete : Prop :=
  ∀ (s : State) (a b : BitVec 6) f, s.cur.live = true → (s.teamOf s.cur).ffa = some f → earlierDone s s.cur = true → mayWriteS s a = true →
    (f.queue.length < 16 → (∃ n, lowestFree s.cur.proms n) → ∀ r ∈ fireflyWords s a b, valuesOk r.2.1 → arrayHeld s s.cur r.2.1 = false →
      ∀ pages u, reaches s r.2.1 pages u → ∃ t c, exec r.1 s = .next t ∧ newFfa u r.2.1 pages c ∧
        (t.teamOf s.cur).ffa = some { f with queue := f.queue ++ [c] } ∧ t.mem = s.mem ∧
        (r.2.2 = none → t.cur = (passed s).cur) ∧
        (∀ d, r.2.2 = some d → ∃ n, lowestFree s.cur.proms n ∧ t.cur = promised s.cur s.cycle d n (sweepTime s f c) (.ffa c.id))) ∧
    ∃ v, v = f.lastcnt + 2 ^ 24 * f.nwin.toNat + (if f.biased then 2 ^ 38 else 0) + (if f.replay then 2 ^ 39 else 0) ∧
      exec (.ffaHs a) s = .next (wrote s a (BitVec.ofNat 64 v) 1)

/-- R24, R28, R256, R257, R263, R275, R280, R341, R372, R242: further events complete with their own effects. RUN_START starts the head of a core's only
group, Ready and with nothing issuing; FFA_COMMAND_PERFORM loads couplings and writes counts to the scratchpad; FFA_SWEEP_PERFORM ends the last
sweep of a command; MERGE_TURN goes on from a tile with no right view; KILL ends every team of the grid; MX_PASS_COMMIT ends the pass.
Where the manual leaves a point open this follows the model's choice: log entries 46 and 73.
Completes: runStart, ffaCommandPerform, ffaSweepPerform, mergeTurn, kill, mxPassCommit. -/
def Obligations.EventsTakeEffect : Prop :=
  (∀ (s : State) (core : Nat) g e l, let u := ageHeads s core
    (u.core core).grant = false → groupsOn u core = [g] → u.group? g.gid = some g → readyHead u g = some (e, l) → g.runs = [] →
    (u.core core).capDrop ≤ 46 → (∀ c ∈ l, c.words ≠ []) → (g.width = 8 ∨ g.width = 16 ∨ g.width = 32 ∨ g.width = 64) →
    ∃ t g' r q d, exec (.runStart core) s = .next t ∧ t.mem = s.mem ∧ t.group? g.gid = some g' ∧ g'.runs = [r] ∧ startedRun g e l q d (g.gid, e.seq) r ∧
      g'.queue.map (fun x => x.seq) = (g.queue.drop 1).map (fun x => x.seq) ∧ g'.s = g.s ∧ g'.v = g.v ∧ g'.pc = g.pc) ∧
  (∀ (s : State) (team : Nat) t f c a d b u, ffaHead s team = some (t, f, c) → c.performed = false → smapWf 0 f.coup = true →
    c.kind = .ldj a d → couplingOk d → ffaSource s t c = (b, false, u) →
    ∃ v f', exec (.ffaCommandPerform team) s = .next v ∧ headGone s v team f f' ∧ f'.nodes = f.nodes ∧ ∀ i, i < (d.extractLsb' 16 15).toNat →
      sget f'.coup 0 ((d.extractLsb' 0 14).toNat + i) = BitVec.ofNat 32 (ofBytes ((b.drop (4 * i)).take 4))) ∧
  (∀ (s : State) (team : Nat) t f c a d, ffaHead s team = some (t, f, c) → c.performed = false → c.kind = .rdc a d → d.getLsbD 63 = true →
    ∃ v f' x, exec (.ffaCommandPerform team) s = .next v ∧ headGone s v team f f' ∧ f'.nodes = f.nodes ∧ f'.coup = f.coup ∧ v.team? team = some x ∧
      (Memory.wf t.scr = true → let n := (d.extractLsb' 16 11).toNat
        (∀ i, i < n → readBytes x.scr (a.toNat + 2 * i) 2 = toBytes 2 (sget f.nodes Node.reset ((d.extractLsb' 0 10).toNat + i)).count.toNat) ∧
        ∀ b, (b < a.toNat ∨ a.toNat + 2 * n ≤ b) → sget x.scr 0 b = sget t.scr 0 b)) ∧
  (∀ (s : State) (team : Nat) t f c, ffaHead s team = some (t, f, c) → c.kind = .sweep 1 → c.latched = none → c.ended = true → sweepReady s t f c = true →
    ∃ v f', exec (.ffaSweepPerform team) s = .next v ∧ headGone s v team f f' ∧ f'.sweep = (f.sweep + 1) % 2 ^ 22 ∧ f'.nodes = f.nodes ∧
      v.pubs.length = s.pubs.length + (readers s t f).length) ∧
  (∀ (s : State) (turn : Nat) t d, s.turns.find? (fun t => t.id == turn) = some t → s.grid? t.grid = some d → t.stopped = false → turnAway s d t = false →
    t.tile < 8 → (turnViews d t).1 = none → ∃ u x, exec (.mergeTurn turn) s = .next u ∧ u.mem = s.mem ∧ u.grids = s.grids ∧
      u.turns.find? (fun t => t.id == turn) = some x ∧ x.tile = t.tile + 1 ∧ x.off = 0) ∧
  (∀ (s : State) (vf : Nat) h rest d, (s.vdev vf).halts = h :: rest → h.merge = false → s.power.stopped = false → s.grid? h.grid = some d →
    ∃ t, exec (.kill vf) s = .next t ∧ t.mem = s.mem ∧ ∀ x ∈ t.teams, x.grid ≠ h.grid) ∧
  (∀ (s : State) (cl : Nat) p, (s.cluster cl).passes = [p] → p.commit < s.cycle → smapWf Cluster.reset s.clusters = true →
    ∃ t, exec (.mxPassCommit cl) s = .next t ∧ t.mem = s.mem ∧ (t.cluster cl).passes = [])
end

