-- ==== Sys2Proof/Laws/SMap.lean ====
section
/-! SUPPORT. The canonical form of sparse maps and of memory: reads after writes, and that every write keeps the form. -/

namespace Sys2Proof.Machine

section maps
variable {α : Type} [DecidableEq α]

/-- The form with a lower bound holds with every smaller bound. -/
theorem smapFrom_mono (d : α) : ∀ (m : SMap α) (lo lo' : Nat), lo' ≤ lo → smapFrom lo d m = true → smapFrom lo' d m = true
  | [], _, _, _, _ => rfl
  | (j, v) :: r, lo, lo', h, w => by
    simp only [smapFrom, Bool.and_eq_true, decide_eq_true_eq] at w ⊢
    exact ⟨⟨Nat.le_trans h w.1.1, w.1.2⟩, w.2⟩

/-- A key below every listed one reads the default. -/
theorem sget_below (d : α) : ∀ (m : SMap α) (lo k : Nat), smapFrom lo d m = true → k < lo → sget m d k = d
  | [], _, _, _, _ => rfl
  | (j, v) :: r, lo, k, w, h => by
    simp only [smapFrom, Bool.and_eq_true, decide_eq_true_eq] at w
    have : k < j := Nat.lt_of_lt_of_le h w.1.1
    simp [sget, Nat.ne_of_lt this, this]

/-- A read after a write of a canonical map. -/
theorem sget_sset (d : α) (k : Nat) (v : α) (k' : Nat) : ∀ (m : SMap α) (lo : Nat), smapFrom lo d m = true →
    sget (sset m d k v) d k' = if k' = k then v else sget m d k'
  | [], _, _ => by
    by_cases hv : v = d
    · by_cases hk : k' = k <;> simp [sset, sget, hv]
    · by_cases hk : k' = k <;> simp [sset, sget, hv, hk]
  | (j, u) :: r, lo, w => by
    have w' := w
    simp only [smapFrom, Bool.and_eq_true, decide_eq_true_eq] at w'
    have ih := sget_sset d k v k' r (j + 1) w'.2
    by_cases h1 : k < j
    · by_cases hv : v = d
      · by_cases hk : k' = k
        · subst hk; simp [sset, sget, h1, hv, Nat.ne_of_lt h1]
        · simp [sset, h1, hv, hk]
      · by_cases hk : k' = k
        · simp [sset, sget, h1, hv, hk]
        · by_cases h2 : k' < k
          · have : k' < j := Nat.lt_trans h2 h1
            simp [sset, sget, h1, hv, hk, h2, Nat.ne_of_lt this, this]
          · simp [sset, sget, h1, hv, hk, h2]
    · by_cases h2 : k = j
      · subst h2
        by_cases hv : v = d
        · by_cases hk : k' = k
          · subst hk
            simp [sset, hv, sget_below d r (k' + 1) k' w'.2 (Nat.lt_succ_self _)]
          · by_cases h3 : k' < k
            · simp [sset, sget, hv, hk, h3, sget_below d r (k + 1) k' w'.2 (Nat.lt_succ_of_lt h3)]
            · simp [sset, sget, hv, hk, h3]
        · by_cases hk : k' = k <;> simp [sset, sget, hv, hk]
      · by_cases h3 : k' = j
        · subst h3
          have : ¬ k' = k := fun e => h2 e.symm
          simp [sset, sget, h1, h2, this]
        · by_cases h4 : k' < j
          · have : ¬ k' = k := fun e => by omega
            simp [sset, sget, h1, h2, h3, h4, this]
          · simp [sset, sget, h1, h2, h3, h4, ih]

/-- A write keeps the canonical form. -/
theorem sset_from (d : α) (k : Nat) (v : α) : ∀ (m : SMap α) (lo : Nat), lo ≤ k → smapFrom lo d m = true →
    smapFrom lo d (sset m d k v) = true
  | [], lo, h, _ => by by_cases hv : v = d <;> simp [sset, smapFrom, hv, h]
  | (j, u) :: r, lo, h, w => by
    have w' := w
    simp only [smapFrom, Bool.and_eq_true, decide_eq_true_eq] at w'
    by_cases h1 : k < j
    · by_cases hv : v = d
      · simpa [sset, h1, hv] using w
      · have : k + 1 ≤ j := h1
        simp only [sset, h1, hv, if_true, if_false, smapFrom, Bool.and_eq_true, decide_eq_true_eq]
        exact ⟨⟨h, by simp⟩, ⟨this, w'.1.2⟩, w'.2⟩
    · by_cases h2 : k = j
      · subst h2
        by_cases hv : v = d
        · have := smapFrom_mono d r (k + 1) lo (by omega) w'.2
          simpa [sset, hv] using this
        · simp only [sset, Nat.lt_irrefl, hv, if_true, if_false, smapFrom, Bool.and_eq_true, decide_eq_true_eq]
          exact ⟨⟨h, by simp⟩, w'.2⟩
      · have := sset_from d k v r (j + 1) (by omega) w'.2
        simp only [sset, h1, h2, if_false, smapFrom, Bool.and_eq_true, decide_eq_true_eq]
        exact ⟨⟨w'.1.1, w'.1.2⟩, this⟩

/-- A write keeps the canonical form. -/
theorem sset_wf (m : SMap α) (d : α) (k : Nat) (v : α) (w : smapWf d m = true) : smapWf d (sset m d k v) = true :=
  sset_from d k v m 0 (Nat.zero_le _) w

/-- A read after a write of a canonical map. -/
theorem sget_sset_wf (m : SMap α) (d : α) (k : Nat) (v : α) (k' : Nat) (w : smapWf d m = true) :
    sget (sset m d k v) d k' = if k' = k then v else sget m d k' := sget_sset d k v k' m 0 w

/-- Several writes keep the canonical form. -/
theorem ssetAll_wf (d : α) : ∀ (l : List (Nat × α)) (m : SMap α), smapWf d m = true → smapWf d (ssetAll m d l) = true
  | [], _, w => w
  | e :: r, m, w => ssetAll_wf d r (sset m d e.1 e.2) (sset_wf m d e.1 e.2 w)

/-- Two canonical maps that read the same everywhere are the same list. -/
theorem smap_ext (d : α) : ∀ (m n : SMap α) (lo : Nat), smapFrom lo d m = true → smapFrom lo d n = true →
    (∀ k, sget m d k = sget n d k) → m = n
  | [], [], _, _, _, _ => rfl
  | [], (j, v) :: r, _, _, w, h => by
    simp only [smapFrom, Bool.and_eq_true, Bool.not_eq_true', decide_eq_false_iff_not] at w
    have := h j
    simp [sget] at this
    exact absurd this.symm w.1.2
  | (j, v) :: r, [], _, w, _, h => by
    simp only [smapFrom, Bool.and_eq_true, Bool.not_eq_true', decide_eq_false_iff_not] at w
    have := h j
    simp [sget] at this
    exact absurd this w.1.2
  | (i, u) :: q, (j, v) :: r, lo, w1, w2, h => by
    have w1' := w1
    have w2' := w2
    simp only [smapFrom, Bool.and_eq_true, Bool.not_eq_true', decide_eq_false_iff_not, decide_eq_true_eq] at w1' w2'
    have hij : i = j := by
      rcases Nat.lt_trichotomy i j with hl | he | hg
      · have := h i
        simp [sget, Nat.ne_of_lt hl, hl] at this
        exact absurd this w1'.1.2
      · exact he
      · have := h j
        simp [sget, Nat.ne_of_lt hg, hg] at this
        exact absurd this.symm w2'.1.2
    subst hij
    have huv : u = v := by simpa [sget] using h i
    subst huv
    have : q = r := smap_ext d q r (i + 1) w1'.2 w2'.2 (fun k => by
      rcases Nat.lt_trichotomy k i with hl | he | hg
      · rw [sget_below d q (i + 1) k w1'.2 (by omega), sget_below d r (i + 1) k w2'.2 (by omega)]
      · rw [sget_below d q (i + 1) k w1'.2 (by omega), sget_below d r (i + 1) k w2'.2 (by omega)]
      · have h' := h k
        have n1 : ¬ k = i := by omega
        have n2 : ¬ k < i := by omega
        simpa [sget, n1, n2] using h')
    rw [this]

end maps

/-! Memory. -/

/-- Writing bytes keeps the canonical form. -/
theorem writeBytes_wf : ∀ (b : List Byte) (m : Mem) (a : Nat), Memory.wf m = true → Memory.wf (writeBytes m a b) = true
  | [], _, _, w => w
  | x :: r, m, a, w => writeBytes_wf r (sset m 0 a x) (a + 1) (sset_wf m 0 a x w)

/-- A byte read after a write: the byte written there, else the old one. -/
theorem sget_writeBytes : ∀ (b : List Byte) (m : Mem) (a k : Nat), Memory.wf m = true →
    sget (writeBytes m a b) 0 k = if a ≤ k ∧ k < a + b.length then b.getD (k - a) 0 else sget m 0 k
  | [], m, a, k, _ => by
    have : ¬ (a ≤ k ∧ k < a + ([] : List Byte).length) := fun h => by have := h.2; rw [List.length_nil] at this; omega
    rw [if_neg this, writeBytes]
  | x :: r, m, a, k, w => by
    rw [writeBytes, sget_writeBytes r (sset m 0 a x) (a + 1) k (sset_wf m 0 a x w), sget_sset_wf m 0 a x k w]
    by_cases h1 : k = a
    · subst h1
      have h5 : ¬ (k + 1 ≤ k ∧ k < k + 1 + r.length) := by omega
      have h6 : k ≤ k ∧ k < k + (x :: r).length := ⟨Nat.le_refl k, by rw [List.length_cons]; omega⟩
      rw [if_neg h5, if_pos rfl, if_pos h6, Nat.sub_self, List.getD_cons_zero]
    · by_cases h2 : a + 1 ≤ k ∧ k < a + 1 + r.length
      · have h3 : a ≤ k ∧ k < a + (x :: r).length := by simp; omega
        have h4 : k - a = (k - (a + 1)) + 1 := by omega
        simp only [h2, h3, and_self, if_true, h4, List.getD_cons_succ]
      · have h3 : ¬ (a ≤ k ∧ k < a + (x :: r).length) := by simp only [List.length_cons]; omega
        simp only [h1, h2, h3, if_false]

/-- A byte outside the bytes written keeps its value. -/
theorem sget_writeBytes_outside (b : List Byte) (m : Mem) (a k : Nat) (w : Memory.wf m = true) (h : k < a ∨ a + b.length ≤ k) :
    sget (writeBytes m a b) 0 k = sget m 0 k := by
  rw [sget_writeBytes b m a k w, if_neg (by omega)]

@[simp] theorem readBytes_length : ∀ (n : Nat) (m : Mem) (a : Nat), (readBytes m a n).length = n
  | 0, _, _ => rfl
  | n + 1, m, a => by simp [readBytes, readBytes_length n]

/-- Bytes read where they were written. -/
theorem readBytes_writeBytes_same (b : List Byte) (m : Mem) (a : Nat) (w : Memory.wf m = true) :
    readBytes (writeBytes m a b) a b.length = b := by
  have gen : ∀ (n : Nat) (m' : Mem) (a' : Nat) (c : List Byte), c.length = n → (∀ i, i < n → sget m' 0 (a' + i) = c.getD i 0) →
      readBytes m' a' n = c := by
    intro n
    induction n with
    | zero => intro m' a' c h _; rw [List.length_eq_zero_iff.mp h]; rfl
    | succ n ih =>
      intro m' a' c h hc
      match c, h with
      | x :: r, h =>
        have h0 : sget m' 0 a' = x := by simpa using hc 0 (Nat.zero_lt_succ n)
        have hr : readBytes m' (a' + 1) n = r := ih m' (a' + 1) r (by simpa using h) (fun i hi => by
          have := hc (i + 1) (Nat.succ_lt_succ hi)
          have e : a' + (i + 1) = a' + 1 + i := by omega
          rw [e] at this
          simpa using this)
        rw [readBytes, h0, hr]
  exact gen b.length _ a b rfl (fun i hi => by
    rw [sget_writeBytes b m a (a + i) w, if_pos (by omega)]
    congr 1
    omega)

/-- Putting bytes in place keeps the form of memory (R208). -/
theorem putBytes_wf (s : State) (pa : Nat) (b : List Byte) (v path : Nat) (w : Memory.wf s.mem = true) :
    Memory.wf (putBytes s pa b v path).mem = true := writeBytes_wf b s.mem pa w

/-- The bytes of a number, read back. -/
theorem ofBytes_toBytes : ∀ (n x : Nat), ofBytes (toBytes n x) = x % 256 ^ n
  | 0, x => by simp [toBytes, ofBytes, Nat.mod_one]
  | n + 1, x => by
    have e : 256 ^ (n + 1) = 256 * 256 ^ n := by rw [Nat.pow_succ, Nat.mul_comm]
    have b : (BitVec.ofNat 8 x).toNat = x % 256 := by simp
    rw [toBytes, ofBytes, ofBytes_toBytes n (x / 256), b, e]
    exact (Nat.mod_mul (x := x) (a := 256) (b := 256 ^ n)).symm

@[simp] theorem toBytes_length : ∀ (n x : Nat), (toBytes n x).length = n
  | 0, _ => rfl
  | n + 1, x => by simp [toBytes, toBytes_length n]

end Sys2Proof.Machine
end

