-- ==== Sys2Proof/Laws/State.lean ====
section
/-! SUPPORT. One lemma per field and update of `State` and of `Group`: what the update leaves there. Each is true by unfolding the one
update, so that no later proof opens a record. -/

namespace Sys2Proof.Machine

/-! `State.onCur`. -/

@[simp] theorem State.onCur_gtc (s : State) (f : Group → Group) : (s.onCur f).gtc = s.gtc := rfl
@[simp] theorem State.onCur_skew (s : State) (f : Group → Group) : (s.onCur f).skew = s.skew := rfl
@[simp] theorem State.onCur_skewGoal (s : State) (f : Group → Group) : (s.onCur f).skewGoal = s.skewGoal := rfl
@[simp] theorem State.onCur_cycle (s : State) (f : Group → Group) : (s.onCur f).cycle = s.cycle := rfl
@[simp] theorem State.onCur_phase (s : State) (f : Group → Group) : (s.onCur f).phase = s.phase := rfl
@[simp] theorem State.onCur_worked (s : State) (f : Group → Group) : (s.onCur f).worked = s.worked := rfl
@[simp] theorem State.onCur_clk (s : State) (f : Group → Group) : (s.onCur f).clk = s.clk := rfl
@[simp] theorem State.onCur_fresh (s : State) (f : Group → Group) : (s.onCur f).fresh = s.fresh := rfl
@[simp] theorem State.onCur_nextId (s : State) (f : Group → Group) : (s.onCur f).nextId = s.nextId := rfl
@[simp] theorem State.onCur_cur (s : State) (f : Group → Group) : (s.onCur f).cur = f s.cur := rfl
@[simp] theorem State.onCur_others (s : State) (f : Group → Group) : (s.onCur f).others = s.others := rfl
@[simp] theorem State.onCur_teams (s : State) (f : Group → Group) : (s.onCur f).teams = s.teams := rfl
@[simp] theorem State.onCur_grids (s : State) (f : Group → Group) : (s.onCur f).grids = s.grids := rfl
@[simp] theorem State.onCur_cores (s : State) (f : Group → Group) : (s.onCur f).cores = s.cores := rfl
@[simp] theorem State.onCur_clusters (s : State) (f : Group → Group) : (s.onCur f).clusters = s.clusters := rfl
@[simp] theorem State.onCur_tlb2 (s : State) (f : Group → Group) : (s.onCur f).tlb2 = s.tlb2 := rfl
@[simp] theorem State.onCur_ops (s : State) (f : Group → Group) : (s.onCur f).ops = s.ops := rfl
@[simp] theorem State.onCur_writes (s : State) (f : Group → Group) : (s.onCur f).writes = s.writes := rfl
@[simp] theorem State.onCur_mem (s : State) (f : Group → Group) : (s.onCur f).mem = s.mem := rfl
@[simp] theorem State.onCur_errs (s : State) (f : Group → Group) : (s.onCur f).errs = s.errs := rfl
@[simp] theorem State.onCur_leases (s : State) (f : Group → Group) : (s.onCur f).leases = s.leases := rfl
@[simp] theorem State.onCur_lastV (s : State) (f : Group → Group) : (s.onCur f).lastV = s.lastV := rfl
@[simp] theorem State.onCur_olds (s : State) (f : Group → Group) : (s.onCur f).olds = s.olds := rfl
@[simp] theorem State.onCur_staged (s : State) (f : Group → Group) : (s.onCur f).staged = s.staged := rfl
@[simp] theorem State.onCur_outStores (s : State) (f : Group → Group) : (s.onCur f).outStores = s.outStores := rfl
@[simp] theorem State.onCur_atsPages (s : State) (f : Group → Group) : (s.onCur f).atsPages = s.atsPages := rfl
@[simp] theorem State.onCur_priReqs (s : State) (f : Group → Group) : (s.onCur f).priReqs = s.priReqs := rfl
@[simp] theorem State.onCur_priRefused (s : State) (f : Group → Group) : (s.onCur f).priRefused = s.priRefused := rfl
@[simp] theorem State.onCur_priEngines (s : State) (f : Group → Group) : (s.onCur f).priEngines = s.priEngines := rfl
@[simp] theorem State.onCur_twe (s : State) (f : Group → Group) : (s.onCur f).twe = s.twe := rfl
@[simp] theorem State.onCur_pubs (s : State) (f : Group → Group) : (s.onCur f).pubs = s.pubs := rfl
@[simp] theorem State.onCur_turns (s : State) (f : Group → Group) : (s.onCur f).turns = s.turns := rfl
@[simp] theorem State.onCur_pkts (s : State) (f : Group → Group) : (s.onCur f).pkts = s.pkts := rfl
@[simp] theorem State.onCur_parts (s : State) (f : Group → Group) : (s.onCur f).parts = s.parts := rfl
@[simp] theorem State.onCur_vdevs (s : State) (f : Group → Group) : (s.onCur f).vdevs = s.vdevs := rfl
@[simp] theorem State.onCur_ports (s : State) (f : Group → Group) : (s.onCur f).ports = s.ports := rfl
@[simp] theorem State.onCur_tokens (s : State) (f : Group → Group) : (s.onCur f).tokens = s.tokens := rfl
@[simp] theorem State.onCur_invals (s : State) (f : Group → Group) : (s.onCur f).invals = s.invals := rfl
@[simp] theorem State.onCur_hub (s : State) (f : Group → Group) : (s.onCur f).hub = s.hub := rfl
@[simp] theorem State.onCur_power (s : State) (f : Group → Group) : (s.onCur f).power = s.power := rfl
@[simp] theorem State.onCur_harvest (s : State) (f : Group → Group) : (s.onCur f).harvest = s.harvest := rfl
@[simp] theorem State.onCur_inputs (s : State) (f : Group → Group) : (s.onCur f).inputs = s.inputs := rfl

/-! `State.hold`. -/

@[simp] theorem State.hold_gtc (s : State) : (s.hold).gtc = s.gtc := rfl
@[simp] theorem State.hold_skew (s : State) : (s.hold).skew = s.skew := rfl
@[simp] theorem State.hold_skewGoal (s : State) : (s.hold).skewGoal = s.skewGoal := rfl
@[simp] theorem State.hold_cycle (s : State) : (s.hold).cycle = s.cycle := rfl
@[simp] theorem State.hold_phase (s : State) : (s.hold).phase = s.phase := rfl
@[simp] theorem State.hold_worked (s : State) : (s.hold).worked = s.worked := rfl
@[simp] theorem State.hold_clk (s : State) : (s.hold).clk = s.clk := rfl
@[simp] theorem State.hold_fresh (s : State) : (s.hold).fresh = s.fresh := rfl
@[simp] theorem State.hold_nextId (s : State) : (s.hold).nextId = s.nextId := rfl
@[simp] theorem State.hold_cur (s : State) : (s.hold).cur = s.cur.later s.cycle := rfl
@[simp] theorem State.hold_others (s : State) : (s.hold).others = s.others := rfl
@[simp] theorem State.hold_teams (s : State) : (s.hold).teams = s.teams := rfl
@[simp] theorem State.hold_grids (s : State) : (s.hold).grids = s.grids := rfl
@[simp] theorem State.hold_cores (s : State) : (s.hold).cores = s.cores := rfl
@[simp] theorem State.hold_clusters (s : State) : (s.hold).clusters = s.clusters := rfl
@[simp] theorem State.hold_tlb2 (s : State) : (s.hold).tlb2 = s.tlb2 := rfl
@[simp] theorem State.hold_ops (s : State) : (s.hold).ops = s.ops := rfl
@[simp] theorem State.hold_writes (s : State) : (s.hold).writes = s.writes := rfl
@[simp] theorem State.hold_mem (s : State) : (s.hold).mem = s.mem := rfl
@[simp] theorem State.hold_errs (s : State) : (s.hold).errs = s.errs := rfl
@[simp] theorem State.hold_leases (s : State) : (s.hold).leases = s.leases := rfl
@[simp] theorem State.hold_lastV (s : State) : (s.hold).lastV = s.lastV := rfl
@[simp] theorem State.hold_olds (s : State) : (s.hold).olds = s.olds := rfl
@[simp] theorem State.hold_staged (s : State) : (s.hold).staged = s.staged := rfl
@[simp] theorem State.hold_outStores (s : State) : (s.hold).outStores = s.outStores := rfl
@[simp] theorem State.hold_atsPages (s : State) : (s.hold).atsPages = s.atsPages := rfl
@[simp] theorem State.hold_priReqs (s : State) : (s.hold).priReqs = s.priReqs := rfl
@[simp] theorem State.hold_priRefused (s : State) : (s.hold).priRefused = s.priRefused := rfl
@[simp] theorem State.hold_priEngines (s : State) : (s.hold).priEngines = s.priEngines := rfl
@[simp] theorem State.hold_twe (s : State) : (s.hold).twe = s.twe := rfl
@[simp] theorem State.hold_pubs (s : State) : (s.hold).pubs = s.pubs := rfl
@[simp] theorem State.hold_turns (s : State) : (s.hold).turns = s.turns := rfl
@[simp] theorem State.hold_pkts (s : State) : (s.hold).pkts = s.pkts := rfl
@[simp] theorem State.hold_parts (s : State) : (s.hold).parts = s.parts := rfl
@[simp] theorem State.hold_vdevs (s : State) : (s.hold).vdevs = s.vdevs := rfl
@[simp] theorem State.hold_ports (s : State) : (s.hold).ports = s.ports := rfl
@[simp] theorem State.hold_tokens (s : State) : (s.hold).tokens = s.tokens := rfl
@[simp] theorem State.hold_invals (s : State) : (s.hold).invals = s.invals := rfl
@[simp] theorem State.hold_hub (s : State) : (s.hold).hub = s.hub := rfl
@[simp] theorem State.hold_power (s : State) : (s.hold).power = s.power := rfl
@[simp] theorem State.hold_harvest (s : State) : (s.hold).harvest = s.harvest := rfl
@[simp] theorem State.hold_inputs (s : State) : (s.hold).inputs = s.inputs := rfl

/-! `State.count`. -/

@[simp] theorem State.count_gtc (s : State) (off n : Nat) : (s.count off n).gtc = s.gtc := rfl
@[simp] theorem State.count_skew (s : State) (off n : Nat) : (s.count off n).skew = s.skew := rfl
@[simp] theorem State.count_skewGoal (s : State) (off n : Nat) : (s.count off n).skewGoal = s.skewGoal := rfl
@[simp] theorem State.count_cycle (s : State) (off n : Nat) : (s.count off n).cycle = s.cycle := rfl
@[simp] theorem State.count_phase (s : State) (off n : Nat) : (s.count off n).phase = s.phase := rfl
@[simp] theorem State.count_worked (s : State) (off n : Nat) : (s.count off n).worked = s.worked := rfl
@[simp] theorem State.count_clk (s : State) (off n : Nat) : (s.count off n).clk = s.clk := rfl
@[simp] theorem State.count_fresh (s : State) (off n : Nat) : (s.count off n).fresh = s.fresh := rfl
@[simp] theorem State.count_nextId (s : State) (off n : Nat) : (s.count off n).nextId = s.nextId := rfl
@[simp] theorem State.count_cur (s : State) (off n : Nat) : (s.count off n).cur = s.cur := rfl
@[simp] theorem State.count_others (s : State) (off n : Nat) : (s.count off n).others = s.others := rfl
@[simp] theorem State.count_teams (s : State) (off n : Nat) : (s.count off n).teams = s.teams := rfl
@[simp] theorem State.count_grids (s : State) (off n : Nat) : (s.count off n).grids = s.grids := rfl
@[simp] theorem State.count_cores (s : State) (off n : Nat) : (s.count off n).cores = s.cores := rfl
@[simp] theorem State.count_clusters (s : State) (off n : Nat) : (s.count off n).clusters = s.clusters := rfl
@[simp] theorem State.count_tlb2 (s : State) (off n : Nat) : (s.count off n).tlb2 = s.tlb2 := rfl
@[simp] theorem State.count_ops (s : State) (off n : Nat) : (s.count off n).ops = s.ops := rfl
@[simp] theorem State.count_writes (s : State) (off n : Nat) : (s.count off n).writes = s.writes := rfl
@[simp] theorem State.count_mem (s : State) (off n : Nat) : (s.count off n).mem = s.mem := rfl
@[simp] theorem State.count_errs (s : State) (off n : Nat) : (s.count off n).errs = s.errs := rfl
@[simp] theorem State.count_leases (s : State) (off n : Nat) : (s.count off n).leases = s.leases := rfl
@[simp] theorem State.count_lastV (s : State) (off n : Nat) : (s.count off n).lastV = s.lastV := rfl
@[simp] theorem State.count_olds (s : State) (off n : Nat) : (s.count off n).olds = s.olds := rfl
@[simp] theorem State.count_staged (s : State) (off n : Nat) : (s.count off n).staged = s.staged := rfl
@[simp] theorem State.count_outStores (s : State) (off n : Nat) : (s.count off n).outStores = s.outStores := rfl
@[simp] theorem State.count_atsPages (s : State) (off n : Nat) : (s.count off n).atsPages = s.atsPages := rfl
@[simp] theorem State.count_priReqs (s : State) (off n : Nat) : (s.count off n).priReqs = s.priReqs := rfl
@[simp] theorem State.count_priRefused (s : State) (off n : Nat) : (s.count off n).priRefused = s.priRefused := rfl
@[simp] theorem State.count_priEngines (s : State) (off n : Nat) : (s.count off n).priEngines = s.priEngines := rfl
@[simp] theorem State.count_twe (s : State) (off n : Nat) : (s.count off n).twe = s.twe := rfl
@[simp] theorem State.count_pubs (s : State) (off n : Nat) : (s.count off n).pubs = s.pubs := rfl
@[simp] theorem State.count_turns (s : State) (off n : Nat) : (s.count off n).turns = s.turns := rfl
@[simp] theorem State.count_pkts (s : State) (off n : Nat) : (s.count off n).pkts = s.pkts := rfl
@[simp] theorem State.count_parts (s : State) (off n : Nat) : (s.count off n).parts = s.parts := rfl
@[simp] theorem State.count_vdevs (s : State) (off n : Nat) : (s.count off n).vdevs = s.vdevs := rfl
@[simp] theorem State.count_ports (s : State) (off n : Nat) : (s.count off n).ports = s.ports := rfl
@[simp] theorem State.count_tokens (s : State) (off n : Nat) : (s.count off n).tokens = s.tokens := rfl
@[simp] theorem State.count_invals (s : State) (off n : Nat) : (s.count off n).invals = s.invals := rfl
@[simp] theorem State.count_hub (s : State) (off n : Nat) : (s.count off n).hub = { s.hub with counters := sset s.hub.counters 0 off (sget s.hub.counters 0 off + BitVec.ofNat 64 n) } := rfl
@[simp] theorem State.count_power (s : State) (off n : Nat) : (s.count off n).power = s.power := rfl
@[simp] theorem State.count_harvest (s : State) (off n : Nat) : (s.count off n).harvest = s.harvest := rfl
@[simp] theorem State.count_inputs (s : State) (off n : Nat) : (s.count off n).inputs = s.inputs := rfl

/-! `State.later_snd`. -/

@[simp] theorem State.later_snd_gtc (s : State) : (s.later.2).gtc = s.gtc := rfl
@[simp] theorem State.later_snd_skew (s : State) : (s.later.2).skew = s.skew := rfl
@[simp] theorem State.later_snd_skewGoal (s : State) : (s.later.2).skewGoal = s.skewGoal := rfl
@[simp] theorem State.later_snd_cycle (s : State) : (s.later.2).cycle = s.cycle := rfl
@[simp] theorem State.later_snd_phase (s : State) : (s.later.2).phase = s.phase := rfl
@[simp] theorem State.later_snd_worked (s : State) : (s.later.2).worked = s.worked := rfl
@[simp] theorem State.later_snd_clk (s : State) : (s.later.2).clk = s.clk := rfl
@[simp] theorem State.later_snd_fresh (s : State) : (s.later.2).fresh = s.fresh + 1 := rfl
@[simp] theorem State.later_snd_nextId (s : State) : (s.later.2).nextId = s.nextId := rfl
@[simp] theorem State.later_snd_cur (s : State) : (s.later.2).cur = s.cur := rfl
@[simp] theorem State.later_snd_others (s : State) : (s.later.2).others = s.others := rfl
@[simp] theorem State.later_snd_teams (s : State) : (s.later.2).teams = s.teams := rfl
@[simp] theorem State.later_snd_grids (s : State) : (s.later.2).grids = s.grids := rfl
@[simp] theorem State.later_snd_cores (s : State) : (s.later.2).cores = s.cores := rfl
@[simp] theorem State.later_snd_clusters (s : State) : (s.later.2).clusters = s.clusters := rfl
@[simp] theorem State.later_snd_tlb2 (s : State) : (s.later.2).tlb2 = s.tlb2 := rfl
@[simp] theorem State.later_snd_ops (s : State) : (s.later.2).ops = s.ops := rfl
@[simp] theorem State.later_snd_writes (s : State) : (s.later.2).writes = s.writes := rfl
@[simp] theorem State.later_snd_mem (s : State) : (s.later.2).mem = s.mem := rfl
@[simp] theorem State.later_snd_errs (s : State) : (s.later.2).errs = s.errs := rfl
@[simp] theorem State.later_snd_leases (s : State) : (s.later.2).leases = s.leases := rfl
@[simp] theorem State.later_snd_lastV (s : State) : (s.later.2).lastV = s.lastV := rfl
@[simp] theorem State.later_snd_olds (s : State) : (s.later.2).olds = s.olds := rfl
@[simp] theorem State.later_snd_staged (s : State) : (s.later.2).staged = s.staged := rfl
@[simp] theorem State.later_snd_outStores (s : State) : (s.later.2).outStores = s.outStores := rfl
@[simp] theorem State.later_snd_atsPages (s : State) : (s.later.2).atsPages = s.atsPages := rfl
@[simp] theorem State.later_snd_priReqs (s : State) : (s.later.2).priReqs = s.priReqs := rfl
@[simp] theorem State.later_snd_priRefused (s : State) : (s.later.2).priRefused = s.priRefused := rfl
@[simp] theorem State.later_snd_priEngines (s : State) : (s.later.2).priEngines = s.priEngines := rfl
@[simp] theorem State.later_snd_twe (s : State) : (s.later.2).twe = s.twe := rfl
@[simp] theorem State.later_snd_pubs (s : State) : (s.later.2).pubs = s.pubs := rfl
@[simp] theorem State.later_snd_turns (s : State) : (s.later.2).turns = s.turns := rfl
@[simp] theorem State.later_snd_pkts (s : State) : (s.later.2).pkts = s.pkts := rfl
@[simp] theorem State.later_snd_parts (s : State) : (s.later.2).parts = s.parts := rfl
@[simp] theorem State.later_snd_vdevs (s : State) : (s.later.2).vdevs = s.vdevs := rfl
@[simp] theorem State.later_snd_ports (s : State) : (s.later.2).ports = s.ports := rfl
@[simp] theorem State.later_snd_tokens (s : State) : (s.later.2).tokens = s.tokens := rfl
@[simp] theorem State.later_snd_invals (s : State) : (s.later.2).invals = s.invals := rfl
@[simp] theorem State.later_snd_hub (s : State) : (s.later.2).hub = s.hub := rfl
@[simp] theorem State.later_snd_power (s : State) : (s.later.2).power = s.power := rfl
@[simp] theorem State.later_snd_harvest (s : State) : (s.later.2).harvest = s.harvest := rfl
@[simp] theorem State.later_snd_inputs (s : State) : (s.later.2).inputs = s.inputs := rfl

/-! `State.newId_snd`. -/

@[simp] theorem State.newId_snd_gtc (s : State) : (s.newId.2).gtc = s.gtc := rfl
@[simp] theorem State.newId_snd_skew (s : State) : (s.newId.2).skew = s.skew := rfl
@[simp] theorem State.newId_snd_skewGoal (s : State) : (s.newId.2).skewGoal = s.skewGoal := rfl
@[simp] theorem State.newId_snd_cycle (s : State) : (s.newId.2).cycle = s.cycle := rfl
@[simp] theorem State.newId_snd_phase (s : State) : (s.newId.2).phase = s.phase := rfl
@[simp] theorem State.newId_snd_worked (s : State) : (s.newId.2).worked = s.worked := rfl
@[simp] theorem State.newId_snd_clk (s : State) : (s.newId.2).clk = s.clk := rfl
@[simp] theorem State.newId_snd_fresh (s : State) : (s.newId.2).fresh = s.fresh := rfl
@[simp] theorem State.newId_snd_nextId (s : State) : (s.newId.2).nextId = s.nextId + 1 := rfl
@[simp] theorem State.newId_snd_cur (s : State) : (s.newId.2).cur = s.cur := rfl
@[simp] theorem State.newId_snd_others (s : State) : (s.newId.2).others = s.others := rfl
@[simp] theorem State.newId_snd_teams (s : State) : (s.newId.2).teams = s.teams := rfl
@[simp] theorem State.newId_snd_grids (s : State) : (s.newId.2).grids = s.grids := rfl
@[simp] theorem State.newId_snd_cores (s : State) : (s.newId.2).cores = s.cores := rfl
@[simp] theorem State.newId_snd_clusters (s : State) : (s.newId.2).clusters = s.clusters := rfl
@[simp] theorem State.newId_snd_tlb2 (s : State) : (s.newId.2).tlb2 = s.tlb2 := rfl
@[simp] theorem State.newId_snd_ops (s : State) : (s.newId.2).ops = s.ops := rfl
@[simp] theorem State.newId_snd_writes (s : State) : (s.newId.2).writes = s.writes := rfl
@[simp] theorem State.newId_snd_mem (s : State) : (s.newId.2).mem = s.mem := rfl
@[simp] theorem State.newId_snd_errs (s : State) : (s.newId.2).errs = s.errs := rfl
@[simp] theorem State.newId_snd_leases (s : State) : (s.newId.2).leases = s.leases := rfl
@[simp] theorem State.newId_snd_lastV (s : State) : (s.newId.2).lastV = s.lastV := rfl
@[simp] theorem State.newId_snd_olds (s : State) : (s.newId.2).olds = s.olds := rfl
@[simp] theorem State.newId_snd_staged (s : State) : (s.newId.2).staged = s.staged := rfl
@[simp] theorem State.newId_snd_outStores (s : State) : (s.newId.2).outStores = s.outStores := rfl
@[simp] theorem State.newId_snd_atsPages (s : State) : (s.newId.2).atsPages = s.atsPages := rfl
@[simp] theorem State.newId_snd_priReqs (s : State) : (s.newId.2).priReqs = s.priReqs := rfl
@[simp] theorem State.newId_snd_priRefused (s : State) : (s.newId.2).priRefused = s.priRefused := rfl
@[simp] theorem State.newId_snd_priEngines (s : State) : (s.newId.2).priEngines = s.priEngines := rfl
@[simp] theorem State.newId_snd_twe (s : State) : (s.newId.2).twe = s.twe := rfl
@[simp] theorem State.newId_snd_pubs (s : State) : (s.newId.2).pubs = s.pubs := rfl
@[simp] theorem State.newId_snd_turns (s : State) : (s.newId.2).turns = s.turns := rfl
@[simp] theorem State.newId_snd_pkts (s : State) : (s.newId.2).pkts = s.pkts := rfl
@[simp] theorem State.newId_snd_parts (s : State) : (s.newId.2).parts = s.parts := rfl
@[simp] theorem State.newId_snd_vdevs (s : State) : (s.newId.2).vdevs = s.vdevs := rfl
@[simp] theorem State.newId_snd_ports (s : State) : (s.newId.2).ports = s.ports := rfl
@[simp] theorem State.newId_snd_tokens (s : State) : (s.newId.2).tokens = s.tokens := rfl
@[simp] theorem State.newId_snd_invals (s : State) : (s.newId.2).invals = s.invals := rfl
@[simp] theorem State.newId_snd_hub (s : State) : (s.newId.2).hub = s.hub := rfl
@[simp] theorem State.newId_snd_power (s : State) : (s.newId.2).power = s.power := rfl
@[simp] theorem State.newId_snd_harvest (s : State) : (s.newId.2).harvest = s.harvest := rfl
@[simp] theorem State.newId_snd_inputs (s : State) : (s.newId.2).inputs = s.inputs := rfl

/-! `State.modTeam`. -/

@[simp] theorem State.modTeam_gtc (s : State) (id : Nat) (f : Team → Team) : (s.modTeam id f).gtc = s.gtc := rfl
@[simp] theorem State.modTeam_skew (s : State) (id : Nat) (f : Team → Team) : (s.modTeam id f).skew = s.skew := rfl
@[simp] theorem State.modTeam_skewGoal (s : State) (id : Nat) (f : Team → Team) : (s.modTeam id f).skewGoal = s.skewGoal := rfl
@[simp] theorem State.modTeam_cycle (s : State) (id : Nat) (f : Team → Team) : (s.modTeam id f).cycle = s.cycle := rfl
@[simp] theorem State.modTeam_phase (s : State) (id : Nat) (f : Team → Team) : (s.modTeam id f).phase = s.phase := rfl
@[simp] theorem State.modTeam_worked (s : State) (id : Nat) (f : Team → Team) : (s.modTeam id f).worked = s.worked := rfl
@[simp] theorem State.modTeam_clk (s : State) (id : Nat) (f : Team → Team) : (s.modTeam id f).clk = s.clk := rfl
@[simp] theorem State.modTeam_fresh (s : State) (id : Nat) (f : Team → Team) : (s.modTeam id f).fresh = s.fresh := rfl
@[simp] theorem State.modTeam_nextId (s : State) (id : Nat) (f : Team → Team) : (s.modTeam id f).nextId = s.nextId := rfl
@[simp] theorem State.modTeam_cur (s : State) (id : Nat) (f : Team → Team) : (s.modTeam id f).cur = s.cur := rfl
@[simp] theorem State.modTeam_others (s : State) (id : Nat) (f : Team → Team) : (s.modTeam id f).others = s.others := rfl
@[simp] theorem State.modTeam_teams (s : State) (id : Nat) (f : Team → Team) : (s.modTeam id f).teams = mapIf s.teams (·.id == id) f := rfl
@[simp] theorem State.modTeam_grids (s : State) (id : Nat) (f : Team → Team) : (s.modTeam id f).grids = s.grids := rfl
@[simp] theorem State.modTeam_cores (s : State) (id : Nat) (f : Team → Team) : (s.modTeam id f).cores = s.cores := rfl
@[simp] theorem State.modTeam_clusters (s : State) (id : Nat) (f : Team → Team) : (s.modTeam id f).clusters = s.clusters := rfl
@[simp] theorem State.modTeam_tlb2 (s : State) (id : Nat) (f : Team → Team) : (s.modTeam id f).tlb2 = s.tlb2 := rfl
@[simp] theorem State.modTeam_ops (s : State) (id : Nat) (f : Team → Team) : (s.modTeam id f).ops = s.ops := rfl
@[simp] theorem State.modTeam_writes (s : State) (id : Nat) (f : Team → Team) : (s.modTeam id f).writes = s.writes := rfl
@[simp] theorem State.modTeam_mem (s : State) (id : Nat) (f : Team → Team) : (s.modTeam id f).mem = s.mem := rfl
@[simp] theorem State.modTeam_errs (s : State) (id : Nat) (f : Team → Team) : (s.modTeam id f).errs = s.errs := rfl
@[simp] theorem State.modTeam_leases (s : State) (id : Nat) (f : Team → Team) : (s.modTeam id f).leases = s.leases := rfl
@[simp] theorem State.modTeam_lastV (s : State) (id : Nat) (f : Team → Team) : (s.modTeam id f).lastV = s.lastV := rfl
@[simp] theorem State.modTeam_olds (s : State) (id : Nat) (f : Team → Team) : (s.modTeam id f).olds = s.olds := rfl
@[simp] theorem State.modTeam_staged (s : State) (id : Nat) (f : Team → Team) : (s.modTeam id f).staged = s.staged := rfl
@[simp] theorem State.modTeam_outStores (s : State) (id : Nat) (f : Team → Team) : (s.modTeam id f).outStores = s.outStores := rfl
@[simp] theorem State.modTeam_atsPages (s : State) (id : Nat) (f : Team → Team) : (s.modTeam id f).atsPages = s.atsPages := rfl
@[simp] theorem State.modTeam_priReqs (s : State) (id : Nat) (f : Team → Team) : (s.modTeam id f).priReqs = s.priReqs := rfl
@[simp] theorem State.modTeam_priRefused (s : State) (id : Nat) (f : Team → Team) : (s.modTeam id f).priRefused = s.priRefused := rfl
@[simp] theorem State.modTeam_priEngines (s : State) (id : Nat) (f : Team → Team) : (s.modTeam id f).priEngines = s.priEngines := rfl
@[simp] theorem State.modTeam_twe (s : State) (id : Nat) (f : Team → Team) : (s.modTeam id f).twe = s.twe := rfl
@[simp] theorem State.modTeam_pubs (s : State) (id : Nat) (f : Team → Team) : (s.modTeam id f).pubs = s.pubs := rfl
@[simp] theorem State.modTeam_turns (s : State) (id : Nat) (f : Team → Team) : (s.modTeam id f).turns = s.turns := rfl
@[simp] theorem State.modTeam_pkts (s : State) (id : Nat) (f : Team → Team) : (s.modTeam id f).pkts = s.pkts := rfl
@[simp] theorem State.modTeam_parts (s : State) (id : Nat) (f : Team → Team) : (s.modTeam id f).parts = s.parts := rfl
@[simp] theorem State.modTeam_vdevs (s : State) (id : Nat) (f : Team → Team) : (s.modTeam id f).vdevs = s.vdevs := rfl
@[simp] theorem State.modTeam_ports (s : State) (id : Nat) (f : Team → Team) : (s.modTeam id f).ports = s.ports := rfl
@[simp] theorem State.modTeam_tokens (s : State) (id : Nat) (f : Team → Team) : (s.modTeam id f).tokens = s.tokens := rfl
@[simp] theorem State.modTeam_invals (s : State) (id : Nat) (f : Team → Team) : (s.modTeam id f).invals = s.invals := rfl
@[simp] theorem State.modTeam_hub (s : State) (id : Nat) (f : Team → Team) : (s.modTeam id f).hub = s.hub := rfl
@[simp] theorem State.modTeam_power (s : State) (id : Nat) (f : Team → Team) : (s.modTeam id f).power = s.power := rfl
@[simp] theorem State.modTeam_harvest (s : State) (id : Nat) (f : Team → Team) : (s.modTeam id f).harvest = s.harvest := rfl
@[simp] theorem State.modTeam_inputs (s : State) (id : Nat) (f : Team → Team) : (s.modTeam id f).inputs = s.inputs := rfl

/-! `State.modGrid`. -/

@[simp] theorem State.modGrid_gtc (s : State) (id : Nat) (f : Grid → Grid) : (s.modGrid id f).gtc = s.gtc := rfl
@[simp] theorem State.modGrid_skew (s : State) (id : Nat) (f : Grid → Grid) : (s.modGrid id f).skew = s.skew := rfl
@[simp] theorem State.modGrid_skewGoal (s : State) (id : Nat) (f : Grid → Grid) : (s.modGrid id f).skewGoal = s.skewGoal := rfl
@[simp] theorem State.modGrid_cycle (s : State) (id : Nat) (f : Grid → Grid) : (s.modGrid id f).cycle = s.cycle := rfl
@[simp] theorem State.modGrid_phase (s : State) (id : Nat) (f : Grid → Grid) : (s.modGrid id f).phase = s.phase := rfl
@[simp] theorem State.modGrid_worked (s : State) (id : Nat) (f : Grid → Grid) : (s.modGrid id f).worked = s.worked := rfl
@[simp] theorem State.modGrid_clk (s : State) (id : Nat) (f : Grid → Grid) : (s.modGrid id f).clk = s.clk := rfl
@[simp] theorem State.modGrid_fresh (s : State) (id : Nat) (f : Grid → Grid) : (s.modGrid id f).fresh = s.fresh := rfl
@[simp] theorem State.modGrid_nextId (s : State) (id : Nat) (f : Grid → Grid) : (s.modGrid id f).nextId = s.nextId := rfl
@[simp] theorem State.modGrid_cur (s : State) (id : Nat) (f : Grid → Grid) : (s.modGrid id f).cur = s.cur := rfl
@[simp] theorem State.modGrid_others (s : State) (id : Nat) (f : Grid → Grid) : (s.modGrid id f).others = s.others := rfl
@[simp] theorem State.modGrid_teams (s : State) (id : Nat) (f : Grid → Grid) : (s.modGrid id f).teams = s.teams := rfl
@[simp] theorem State.modGrid_grids (s : State) (id : Nat) (f : Grid → Grid) : (s.modGrid id f).grids = mapIf s.grids (·.id == id) f := rfl
@[simp] theorem State.modGrid_cores (s : State) (id : Nat) (f : Grid → Grid) : (s.modGrid id f).cores = s.cores := rfl
@[simp] theorem State.modGrid_clusters (s : State) (id : Nat) (f : Grid → Grid) : (s.modGrid id f).clusters = s.clusters := rfl
@[simp] theorem State.modGrid_tlb2 (s : State) (id : Nat) (f : Grid → Grid) : (s.modGrid id f).tlb2 = s.tlb2 := rfl
@[simp] theorem State.modGrid_ops (s : State) (id : Nat) (f : Grid → Grid) : (s.modGrid id f).ops = s.ops := rfl
@[simp] theorem State.modGrid_writes (s : State) (id : Nat) (f : Grid → Grid) : (s.modGrid id f).writes = s.writes := rfl
@[simp] theorem State.modGrid_mem (s : State) (id : Nat) (f : Grid → Grid) : (s.modGrid id f).mem = s.mem := rfl
@[simp] theorem State.modGrid_errs (s : State) (id : Nat) (f : Grid → Grid) : (s.modGrid id f).errs = s.errs := rfl
@[simp] theorem State.modGrid_leases (s : State) (id : Nat) (f : Grid → Grid) : (s.modGrid id f).leases = s.leases := rfl
@[simp] theorem State.modGrid_lastV (s : State) (id : Nat) (f : Grid → Grid) : (s.modGrid id f).lastV = s.lastV := rfl
@[simp] theorem State.modGrid_olds (s : State) (id : Nat) (f : Grid → Grid) : (s.modGrid id f).olds = s.olds := rfl
@[simp] theorem State.modGrid_staged (s : State) (id : Nat) (f : Grid → Grid) : (s.modGrid id f).staged = s.staged := rfl
@[simp] theorem State.modGrid_outStores (s : State) (id : Nat) (f : Grid → Grid) : (s.modGrid id f).outStores = s.outStores := rfl
@[simp] theorem State.modGrid_atsPages (s : State) (id : Nat) (f : Grid → Grid) : (s.modGrid id f).atsPages = s.atsPages := rfl
@[simp] theorem State.modGrid_priReqs (s : State) (id : Nat) (f : Grid → Grid) : (s.modGrid id f).priReqs = s.priReqs := rfl
@[simp] theorem State.modGrid_priRefused (s : State) (id : Nat) (f : Grid → Grid) : (s.modGrid id f).priRefused = s.priRefused := rfl
@[simp] theorem State.modGrid_priEngines (s : State) (id : Nat) (f : Grid → Grid) : (s.modGrid id f).priEngines = s.priEngines := rfl
@[simp] theorem State.modGrid_twe (s : State) (id : Nat) (f : Grid → Grid) : (s.modGrid id f).twe = s.twe := rfl
@[simp] theorem State.modGrid_pubs (s : State) (id : Nat) (f : Grid → Grid) : (s.modGrid id f).pubs = s.pubs := rfl
@[simp] theorem State.modGrid_turns (s : State) (id : Nat) (f : Grid → Grid) : (s.modGrid id f).turns = s.turns := rfl
@[simp] theorem State.modGrid_pkts (s : State) (id : Nat) (f : Grid → Grid) : (s.modGrid id f).pkts = s.pkts := rfl
@[simp] theorem State.modGrid_parts (s : State) (id : Nat) (f : Grid → Grid) : (s.modGrid id f).parts = s.parts := rfl
@[simp] theorem State.modGrid_vdevs (s : State) (id : Nat) (f : Grid → Grid) : (s.modGrid id f).vdevs = s.vdevs := rfl
@[simp] theorem State.modGrid_ports (s : State) (id : Nat) (f : Grid → Grid) : (s.modGrid id f).ports = s.ports := rfl
@[simp] theorem State.modGrid_tokens (s : State) (id : Nat) (f : Grid → Grid) : (s.modGrid id f).tokens = s.tokens := rfl
@[simp] theorem State.modGrid_invals (s : State) (id : Nat) (f : Grid → Grid) : (s.modGrid id f).invals = s.invals := rfl
@[simp] theorem State.modGrid_hub (s : State) (id : Nat) (f : Grid → Grid) : (s.modGrid id f).hub = s.hub := rfl
@[simp] theorem State.modGrid_power (s : State) (id : Nat) (f : Grid → Grid) : (s.modGrid id f).power = s.power := rfl
@[simp] theorem State.modGrid_harvest (s : State) (id : Nat) (f : Grid → Grid) : (s.modGrid id f).harvest = s.harvest := rfl
@[simp] theorem State.modGrid_inputs (s : State) (id : Nat) (f : Grid → Grid) : (s.modGrid id f).inputs = s.inputs := rfl

/-! `State.modOp`. -/

@[simp] theorem State.modOp_gtc (s : State) (id : Nat) (f : Op → Op) : (s.modOp id f).gtc = s.gtc := rfl
@[simp] theorem State.modOp_skew (s : State) (id : Nat) (f : Op → Op) : (s.modOp id f).skew = s.skew := rfl
@[simp] theorem State.modOp_skewGoal (s : State) (id : Nat) (f : Op → Op) : (s.modOp id f).skewGoal = s.skewGoal := rfl
@[simp] theorem State.modOp_cycle (s : State) (id : Nat) (f : Op → Op) : (s.modOp id f).cycle = s.cycle := rfl
@[simp] theorem State.modOp_phase (s : State) (id : Nat) (f : Op → Op) : (s.modOp id f).phase = s.phase := rfl
@[simp] theorem State.modOp_worked (s : State) (id : Nat) (f : Op → Op) : (s.modOp id f).worked = s.worked := rfl
@[simp] theorem State.modOp_clk (s : State) (id : Nat) (f : Op → Op) : (s.modOp id f).clk = s.clk := rfl
@[simp] theorem State.modOp_fresh (s : State) (id : Nat) (f : Op → Op) : (s.modOp id f).fresh = s.fresh := rfl
@[simp] theorem State.modOp_nextId (s : State) (id : Nat) (f : Op → Op) : (s.modOp id f).nextId = s.nextId := rfl
@[simp] theorem State.modOp_cur (s : State) (id : Nat) (f : Op → Op) : (s.modOp id f).cur = s.cur := rfl
@[simp] theorem State.modOp_others (s : State) (id : Nat) (f : Op → Op) : (s.modOp id f).others = s.others := rfl
@[simp] theorem State.modOp_teams (s : State) (id : Nat) (f : Op → Op) : (s.modOp id f).teams = s.teams := rfl
@[simp] theorem State.modOp_grids (s : State) (id : Nat) (f : Op → Op) : (s.modOp id f).grids = s.grids := rfl
@[simp] theorem State.modOp_cores (s : State) (id : Nat) (f : Op → Op) : (s.modOp id f).cores = s.cores := rfl
@[simp] theorem State.modOp_clusters (s : State) (id : Nat) (f : Op → Op) : (s.modOp id f).clusters = s.clusters := rfl
@[simp] theorem State.modOp_tlb2 (s : State) (id : Nat) (f : Op → Op) : (s.modOp id f).tlb2 = s.tlb2 := rfl
@[simp] theorem State.modOp_ops (s : State) (id : Nat) (f : Op → Op) : (s.modOp id f).ops = mapIf s.ops (·.id == id) f := rfl
@[simp] theorem State.modOp_writes (s : State) (id : Nat) (f : Op → Op) : (s.modOp id f).writes = s.writes := rfl
@[simp] theorem State.modOp_mem (s : State) (id : Nat) (f : Op → Op) : (s.modOp id f).mem = s.mem := rfl
@[simp] theorem State.modOp_errs (s : State) (id : Nat) (f : Op → Op) : (s.modOp id f).errs = s.errs := rfl
@[simp] theorem State.modOp_leases (s : State) (id : Nat) (f : Op → Op) : (s.modOp id f).leases = s.leases := rfl
@[simp] theorem State.modOp_lastV (s : State) (id : Nat) (f : Op → Op) : (s.modOp id f).lastV = s.lastV := rfl
@[simp] theorem State.modOp_olds (s : State) (id : Nat) (f : Op → Op) : (s.modOp id f).olds = s.olds := rfl
@[simp] theorem State.modOp_staged (s : State) (id : Nat) (f : Op → Op) : (s.modOp id f).staged = s.staged := rfl
@[simp] theorem State.modOp_outStores (s : State) (id : Nat) (f : Op → Op) : (s.modOp id f).outStores = s.outStores := rfl
@[simp] theorem State.modOp_atsPages (s : State) (id : Nat) (f : Op → Op) : (s.modOp id f).atsPages = s.atsPages := rfl
@[simp] theorem State.modOp_priReqs (s : State) (id : Nat) (f : Op → Op) : (s.modOp id f).priReqs = s.priReqs := rfl
@[simp] theorem State.modOp_priRefused (s : State) (id : Nat) (f : Op → Op) : (s.modOp id f).priRefused = s.priRefused := rfl
@[simp] theorem State.modOp_priEngines (s : State) (id : Nat) (f : Op → Op) : (s.modOp id f).priEngines = s.priEngines := rfl
@[simp] theorem State.modOp_twe (s : State) (id : Nat) (f : Op → Op) : (s.modOp id f).twe = s.twe := rfl
@[simp] theorem State.modOp_pubs (s : State) (id : Nat) (f : Op → Op) : (s.modOp id f).pubs = s.pubs := rfl
@[simp] theorem State.modOp_turns (s : State) (id : Nat) (f : Op → Op) : (s.modOp id f).turns = s.turns := rfl
@[simp] theorem State.modOp_pkts (s : State) (id : Nat) (f : Op → Op) : (s.modOp id f).pkts = s.pkts := rfl
@[simp] theorem State.modOp_parts (s : State) (id : Nat) (f : Op → Op) : (s.modOp id f).parts = s.parts := rfl
@[simp] theorem State.modOp_vdevs (s : State) (id : Nat) (f : Op → Op) : (s.modOp id f).vdevs = s.vdevs := rfl
@[simp] theorem State.modOp_ports (s : State) (id : Nat) (f : Op → Op) : (s.modOp id f).ports = s.ports := rfl
@[simp] theorem State.modOp_tokens (s : State) (id : Nat) (f : Op → Op) : (s.modOp id f).tokens = s.tokens := rfl
@[simp] theorem State.modOp_invals (s : State) (id : Nat) (f : Op → Op) : (s.modOp id f).invals = s.invals := rfl
@[simp] theorem State.modOp_hub (s : State) (id : Nat) (f : Op → Op) : (s.modOp id f).hub = s.hub := rfl
@[simp] theorem State.modOp_power (s : State) (id : Nat) (f : Op → Op) : (s.modOp id f).power = s.power := rfl
@[simp] theorem State.modOp_harvest (s : State) (id : Nat) (f : Op → Op) : (s.modOp id f).harvest = s.harvest := rfl
@[simp] theorem State.modOp_inputs (s : State) (id : Nat) (f : Op → Op) : (s.modOp id f).inputs = s.inputs := rfl

/-! `State.modPkt`. -/

@[simp] theorem State.modPkt_gtc (s : State) (id : Nat) (f : Pkt → Pkt) : (s.modPkt id f).gtc = s.gtc := rfl
@[simp] theorem State.modPkt_skew (s : State) (id : Nat) (f : Pkt → Pkt) : (s.modPkt id f).skew = s.skew := rfl
@[simp] theorem State.modPkt_skewGoal (s : State) (id : Nat) (f : Pkt → Pkt) : (s.modPkt id f).skewGoal = s.skewGoal := rfl
@[simp] theorem State.modPkt_cycle (s : State) (id : Nat) (f : Pkt → Pkt) : (s.modPkt id f).cycle = s.cycle := rfl
@[simp] theorem State.modPkt_phase (s : State) (id : Nat) (f : Pkt → Pkt) : (s.modPkt id f).phase = s.phase := rfl
@[simp] theorem State.modPkt_worked (s : State) (id : Nat) (f : Pkt → Pkt) : (s.modPkt id f).worked = s.worked := rfl
@[simp] theorem State.modPkt_clk (s : State) (id : Nat) (f : Pkt → Pkt) : (s.modPkt id f).clk = s.clk := rfl
@[simp] theorem State.modPkt_fresh (s : State) (id : Nat) (f : Pkt → Pkt) : (s.modPkt id f).fresh = s.fresh := rfl
@[simp] theorem State.modPkt_nextId (s : State) (id : Nat) (f : Pkt → Pkt) : (s.modPkt id f).nextId = s.nextId := rfl
@[simp] theorem State.modPkt_cur (s : State) (id : Nat) (f : Pkt → Pkt) : (s.modPkt id f).cur = s.cur := rfl
@[simp] theorem State.modPkt_others (s : State) (id : Nat) (f : Pkt → Pkt) : (s.modPkt id f).others = s.others := rfl
@[simp] theorem State.modPkt_teams (s : State) (id : Nat) (f : Pkt → Pkt) : (s.modPkt id f).teams = s.teams := rfl
@[simp] theorem State.modPkt_grids (s : State) (id : Nat) (f : Pkt → Pkt) : (s.modPkt id f).grids = s.grids := rfl
@[simp] theorem State.modPkt_cores (s : State) (id : Nat) (f : Pkt → Pkt) : (s.modPkt id f).cores = s.cores := rfl
@[simp] theorem State.modPkt_clusters (s : State) (id : Nat) (f : Pkt → Pkt) : (s.modPkt id f).clusters = s.clusters := rfl
@[simp] theorem State.modPkt_tlb2 (s : State) (id : Nat) (f : Pkt → Pkt) : (s.modPkt id f).tlb2 = s.tlb2 := rfl
@[simp] theorem State.modPkt_ops (s : State) (id : Nat) (f : Pkt → Pkt) : (s.modPkt id f).ops = s.ops := rfl
@[simp] theorem State.modPkt_writes (s : State) (id : Nat) (f : Pkt → Pkt) : (s.modPkt id f).writes = s.writes := rfl
@[simp] theorem State.modPkt_mem (s : State) (id : Nat) (f : Pkt → Pkt) : (s.modPkt id f).mem = s.mem := rfl
@[simp] theorem State.modPkt_errs (s : State) (id : Nat) (f : Pkt → Pkt) : (s.modPkt id f).errs = s.errs := rfl
@[simp] theorem State.modPkt_leases (s : State) (id : Nat) (f : Pkt → Pkt) : (s.modPkt id f).leases = s.leases := rfl
@[simp] theorem State.modPkt_lastV (s : State) (id : Nat) (f : Pkt → Pkt) : (s.modPkt id f).lastV = s.lastV := rfl
@[simp] theorem State.modPkt_olds (s : State) (id : Nat) (f : Pkt → Pkt) : (s.modPkt id f).olds = s.olds := rfl
@[simp] theorem State.modPkt_staged (s : State) (id : Nat) (f : Pkt → Pkt) : (s.modPkt id f).staged = s.staged := rfl
@[simp] theorem State.modPkt_outStores (s : State) (id : Nat) (f : Pkt → Pkt) : (s.modPkt id f).outStores = s.outStores := rfl
@[simp] theorem State.modPkt_atsPages (s : State) (id : Nat) (f : Pkt → Pkt) : (s.modPkt id f).atsPages = s.atsPages := rfl
@[simp] theorem State.modPkt_priReqs (s : State) (id : Nat) (f : Pkt → Pkt) : (s.modPkt id f).priReqs = s.priReqs := rfl
@[simp] theorem State.modPkt_priRefused (s : State) (id : Nat) (f : Pkt → Pkt) : (s.modPkt id f).priRefused = s.priRefused := rfl
@[simp] theorem State.modPkt_priEngines (s : State) (id : Nat) (f : Pkt → Pkt) : (s.modPkt id f).priEngines = s.priEngines := rfl
@[simp] theorem State.modPkt_twe (s : State) (id : Nat) (f : Pkt → Pkt) : (s.modPkt id f).twe = s.twe := rfl
@[simp] theorem State.modPkt_pubs (s : State) (id : Nat) (f : Pkt → Pkt) : (s.modPkt id f).pubs = s.pubs := rfl
@[simp] theorem State.modPkt_turns (s : State) (id : Nat) (f : Pkt → Pkt) : (s.modPkt id f).turns = s.turns := rfl
@[simp] theorem State.modPkt_pkts (s : State) (id : Nat) (f : Pkt → Pkt) : (s.modPkt id f).pkts = mapIf s.pkts (·.id == id) f := rfl
@[simp] theorem State.modPkt_parts (s : State) (id : Nat) (f : Pkt → Pkt) : (s.modPkt id f).parts = s.parts := rfl
@[simp] theorem State.modPkt_vdevs (s : State) (id : Nat) (f : Pkt → Pkt) : (s.modPkt id f).vdevs = s.vdevs := rfl
@[simp] theorem State.modPkt_ports (s : State) (id : Nat) (f : Pkt → Pkt) : (s.modPkt id f).ports = s.ports := rfl
@[simp] theorem State.modPkt_tokens (s : State) (id : Nat) (f : Pkt → Pkt) : (s.modPkt id f).tokens = s.tokens := rfl
@[simp] theorem State.modPkt_invals (s : State) (id : Nat) (f : Pkt → Pkt) : (s.modPkt id f).invals = s.invals := rfl
@[simp] theorem State.modPkt_hub (s : State) (id : Nat) (f : Pkt → Pkt) : (s.modPkt id f).hub = s.hub := rfl
@[simp] theorem State.modPkt_power (s : State) (id : Nat) (f : Pkt → Pkt) : (s.modPkt id f).power = s.power := rfl
@[simp] theorem State.modPkt_harvest (s : State) (id : Nat) (f : Pkt → Pkt) : (s.modPkt id f).harvest = s.harvest := rfl
@[simp] theorem State.modPkt_inputs (s : State) (id : Nat) (f : Pkt → Pkt) : (s.modPkt id f).inputs = s.inputs := rfl

/-! `State.modTwe`. -/

@[simp] theorem State.modTwe_gtc (s : State) (id : Nat) (f : TweCmd → TweCmd) : (s.modTwe id f).gtc = s.gtc := rfl
@[simp] theorem State.modTwe_skew (s : State) (id : Nat) (f : TweCmd → TweCmd) : (s.modTwe id f).skew = s.skew := rfl
@[simp] theorem State.modTwe_skewGoal (s : State) (id : Nat) (f : TweCmd → TweCmd) : (s.modTwe id f).skewGoal = s.skewGoal := rfl
@[simp] theorem State.modTwe_cycle (s : State) (id : Nat) (f : TweCmd → TweCmd) : (s.modTwe id f).cycle = s.cycle := rfl
@[simp] theorem State.modTwe_phase (s : State) (id : Nat) (f : TweCmd → TweCmd) : (s.modTwe id f).phase = s.phase := rfl
@[simp] theorem State.modTwe_worked (s : State) (id : Nat) (f : TweCmd → TweCmd) : (s.modTwe id f).worked = s.worked := rfl
@[simp] theorem State.modTwe_clk (s : State) (id : Nat) (f : TweCmd → TweCmd) : (s.modTwe id f).clk = s.clk := rfl
@[simp] theorem State.modTwe_fresh (s : State) (id : Nat) (f : TweCmd → TweCmd) : (s.modTwe id f).fresh = s.fresh := rfl
@[simp] theorem State.modTwe_nextId (s : State) (id : Nat) (f : TweCmd → TweCmd) : (s.modTwe id f).nextId = s.nextId := rfl
@[simp] theorem State.modTwe_cur (s : State) (id : Nat) (f : TweCmd → TweCmd) : (s.modTwe id f).cur = s.cur := rfl
@[simp] theorem State.modTwe_others (s : State) (id : Nat) (f : TweCmd → TweCmd) : (s.modTwe id f).others = s.others := rfl
@[simp] theorem State.modTwe_teams (s : State) (id : Nat) (f : TweCmd → TweCmd) : (s.modTwe id f).teams = s.teams := rfl
@[simp] theorem State.modTwe_grids (s : State) (id : Nat) (f : TweCmd → TweCmd) : (s.modTwe id f).grids = s.grids := rfl
@[simp] theorem State.modTwe_cores (s : State) (id : Nat) (f : TweCmd → TweCmd) : (s.modTwe id f).cores = s.cores := rfl
@[simp] theorem State.modTwe_clusters (s : State) (id : Nat) (f : TweCmd → TweCmd) : (s.modTwe id f).clusters = s.clusters := rfl
@[simp] theorem State.modTwe_tlb2 (s : State) (id : Nat) (f : TweCmd → TweCmd) : (s.modTwe id f).tlb2 = s.tlb2 := rfl
@[simp] theorem State.modTwe_ops (s : State) (id : Nat) (f : TweCmd → TweCmd) : (s.modTwe id f).ops = s.ops := rfl
@[simp] theorem State.modTwe_writes (s : State) (id : Nat) (f : TweCmd → TweCmd) : (s.modTwe id f).writes = s.writes := rfl
@[simp] theorem State.modTwe_mem (s : State) (id : Nat) (f : TweCmd → TweCmd) : (s.modTwe id f).mem = s.mem := rfl
@[simp] theorem State.modTwe_errs (s : State) (id : Nat) (f : TweCmd → TweCmd) : (s.modTwe id f).errs = s.errs := rfl
@[simp] theorem State.modTwe_leases (s : State) (id : Nat) (f : TweCmd → TweCmd) : (s.modTwe id f).leases = s.leases := rfl
@[simp] theorem State.modTwe_lastV (s : State) (id : Nat) (f : TweCmd → TweCmd) : (s.modTwe id f).lastV = s.lastV := rfl
@[simp] theorem State.modTwe_olds (s : State) (id : Nat) (f : TweCmd → TweCmd) : (s.modTwe id f).olds = s.olds := rfl
@[simp] theorem State.modTwe_staged (s : State) (id : Nat) (f : TweCmd → TweCmd) : (s.modTwe id f).staged = s.staged := rfl
@[simp] theorem State.modTwe_outStores (s : State) (id : Nat) (f : TweCmd → TweCmd) : (s.modTwe id f).outStores = s.outStores := rfl
@[simp] theorem State.modTwe_atsPages (s : State) (id : Nat) (f : TweCmd → TweCmd) : (s.modTwe id f).atsPages = s.atsPages := rfl
@[simp] theorem State.modTwe_priReqs (s : State) (id : Nat) (f : TweCmd → TweCmd) : (s.modTwe id f).priReqs = s.priReqs := rfl
@[simp] theorem State.modTwe_priRefused (s : State) (id : Nat) (f : TweCmd → TweCmd) : (s.modTwe id f).priRefused = s.priRefused := rfl
@[simp] theorem State.modTwe_priEngines (s : State) (id : Nat) (f : TweCmd → TweCmd) : (s.modTwe id f).priEngines = s.priEngines := rfl
@[simp] theorem State.modTwe_twe (s : State) (id : Nat) (f : TweCmd → TweCmd) : (s.modTwe id f).twe = mapIf s.twe (·.id == id) f := rfl
@[simp] theorem State.modTwe_pubs (s : State) (id : Nat) (f : TweCmd → TweCmd) : (s.modTwe id f).pubs = s.pubs := rfl
@[simp] theorem State.modTwe_turns (s : State) (id : Nat) (f : TweCmd → TweCmd) : (s.modTwe id f).turns = s.turns := rfl
@[simp] theorem State.modTwe_pkts (s : State) (id : Nat) (f : TweCmd → TweCmd) : (s.modTwe id f).pkts = s.pkts := rfl
@[simp] theorem State.modTwe_parts (s : State) (id : Nat) (f : TweCmd → TweCmd) : (s.modTwe id f).parts = s.parts := rfl
@[simp] theorem State.modTwe_vdevs (s : State) (id : Nat) (f : TweCmd → TweCmd) : (s.modTwe id f).vdevs = s.vdevs := rfl
@[simp] theorem State.modTwe_ports (s : State) (id : Nat) (f : TweCmd → TweCmd) : (s.modTwe id f).ports = s.ports := rfl
@[simp] theorem State.modTwe_tokens (s : State) (id : Nat) (f : TweCmd → TweCmd) : (s.modTwe id f).tokens = s.tokens := rfl
@[simp] theorem State.modTwe_invals (s : State) (id : Nat) (f : TweCmd → TweCmd) : (s.modTwe id f).invals = s.invals := rfl
@[simp] theorem State.modTwe_hub (s : State) (id : Nat) (f : TweCmd → TweCmd) : (s.modTwe id f).hub = s.hub := rfl
@[simp] theorem State.modTwe_power (s : State) (id : Nat) (f : TweCmd → TweCmd) : (s.modTwe id f).power = s.power := rfl
@[simp] theorem State.modTwe_harvest (s : State) (id : Nat) (f : TweCmd → TweCmd) : (s.modTwe id f).harvest = s.harvest := rfl
@[simp] theorem State.modTwe_inputs (s : State) (id : Nat) (f : TweCmd → TweCmd) : (s.modTwe id f).inputs = s.inputs := rfl

/-! `State.modCore`. -/

@[simp] theorem State.modCore_gtc (s : State) (n : Nat) (f : Core → Core) : (s.modCore n f).gtc = s.gtc := rfl
@[simp] theorem State.modCore_skew (s : State) (n : Nat) (f : Core → Core) : (s.modCore n f).skew = s.skew := rfl
@[simp] theorem State.modCore_skewGoal (s : State) (n : Nat) (f : Core → Core) : (s.modCore n f).skewGoal = s.skewGoal := rfl
@[simp] theorem State.modCore_cycle (s : State) (n : Nat) (f : Core → Core) : (s.modCore n f).cycle = s.cycle := rfl
@[simp] theorem State.modCore_phase (s : State) (n : Nat) (f : Core → Core) : (s.modCore n f).phase = s.phase := rfl
@[simp] theorem State.modCore_worked (s : State) (n : Nat) (f : Core → Core) : (s.modCore n f).worked = s.worked := rfl
@[simp] theorem State.modCore_clk (s : State) (n : Nat) (f : Core → Core) : (s.modCore n f).clk = s.clk := rfl
@[simp] theorem State.modCore_fresh (s : State) (n : Nat) (f : Core → Core) : (s.modCore n f).fresh = s.fresh := rfl
@[simp] theorem State.modCore_nextId (s : State) (n : Nat) (f : Core → Core) : (s.modCore n f).nextId = s.nextId := rfl
@[simp] theorem State.modCore_cur (s : State) (n : Nat) (f : Core → Core) : (s.modCore n f).cur = s.cur := rfl
@[simp] theorem State.modCore_others (s : State) (n : Nat) (f : Core → Core) : (s.modCore n f).others = s.others := rfl
@[simp] theorem State.modCore_teams (s : State) (n : Nat) (f : Core → Core) : (s.modCore n f).teams = s.teams := rfl
@[simp] theorem State.modCore_grids (s : State) (n : Nat) (f : Core → Core) : (s.modCore n f).grids = s.grids := rfl
@[simp] theorem State.modCore_cores (s : State) (n : Nat) (f : Core → Core) : (s.modCore n f).cores = sset s.cores Core.reset n (f (s.core n)) := rfl
@[simp] theorem State.modCore_clusters (s : State) (n : Nat) (f : Core → Core) : (s.modCore n f).clusters = s.clusters := rfl
@[simp] theorem State.modCore_tlb2 (s : State) (n : Nat) (f : Core → Core) : (s.modCore n f).tlb2 = s.tlb2 := rfl
@[simp] theorem State.modCore_ops (s : State) (n : Nat) (f : Core → Core) : (s.modCore n f).ops = s.ops := rfl
@[simp] theorem State.modCore_writes (s : State) (n : Nat) (f : Core → Core) : (s.modCore n f).writes = s.writes := rfl
@[simp] theorem State.modCore_mem (s : State) (n : Nat) (f : Core → Core) : (s.modCore n f).mem = s.mem := rfl
@[simp] theorem State.modCore_errs (s : State) (n : Nat) (f : Core → Core) : (s.modCore n f).errs = s.errs := rfl
@[simp] theorem State.modCore_leases (s : State) (n : Nat) (f : Core → Core) : (s.modCore n f).leases = s.leases := rfl
@[simp] theorem State.modCore_lastV (s : State) (n : Nat) (f : Core → Core) : (s.modCore n f).lastV = s.lastV := rfl
@[simp] theorem State.modCore_olds (s : State) (n : Nat) (f : Core → Core) : (s.modCore n f).olds = s.olds := rfl
@[simp] theorem State.modCore_staged (s : State) (n : Nat) (f : Core → Core) : (s.modCore n f).staged = s.staged := rfl
@[simp] theorem State.modCore_outStores (s : State) (n : Nat) (f : Core → Core) : (s.modCore n f).outStores = s.outStores := rfl
@[simp] theorem State.modCore_atsPages (s : State) (n : Nat) (f : Core → Core) : (s.modCore n f).atsPages = s.atsPages := rfl
@[simp] theorem State.modCore_priReqs (s : State) (n : Nat) (f : Core → Core) : (s.modCore n f).priReqs = s.priReqs := rfl
@[simp] theorem State.modCore_priRefused (s : State) (n : Nat) (f : Core → Core) : (s.modCore n f).priRefused = s.priRefused := rfl
@[simp] theorem State.modCore_priEngines (s : State) (n : Nat) (f : Core → Core) : (s.modCore n f).priEngines = s.priEngines := rfl
@[simp] theorem State.modCore_twe (s : State) (n : Nat) (f : Core → Core) : (s.modCore n f).twe = s.twe := rfl
@[simp] theorem State.modCore_pubs (s : State) (n : Nat) (f : Core → Core) : (s.modCore n f).pubs = s.pubs := rfl
@[simp] theorem State.modCore_turns (s : State) (n : Nat) (f : Core → Core) : (s.modCore n f).turns = s.turns := rfl
@[simp] theorem State.modCore_pkts (s : State) (n : Nat) (f : Core → Core) : (s.modCore n f).pkts = s.pkts := rfl
@[simp] theorem State.modCore_parts (s : State) (n : Nat) (f : Core → Core) : (s.modCore n f).parts = s.parts := rfl
@[simp] theorem State.modCore_vdevs (s : State) (n : Nat) (f : Core → Core) : (s.modCore n f).vdevs = s.vdevs := rfl
@[simp] theorem State.modCore_ports (s : State) (n : Nat) (f : Core → Core) : (s.modCore n f).ports = s.ports := rfl
@[simp] theorem State.modCore_tokens (s : State) (n : Nat) (f : Core → Core) : (s.modCore n f).tokens = s.tokens := rfl
@[simp] theorem State.modCore_invals (s : State) (n : Nat) (f : Core → Core) : (s.modCore n f).invals = s.invals := rfl
@[simp] theorem State.modCore_hub (s : State) (n : Nat) (f : Core → Core) : (s.modCore n f).hub = s.hub := rfl
@[simp] theorem State.modCore_power (s : State) (n : Nat) (f : Core → Core) : (s.modCore n f).power = s.power := rfl
@[simp] theorem State.modCore_harvest (s : State) (n : Nat) (f : Core → Core) : (s.modCore n f).harvest = s.harvest := rfl
@[simp] theorem State.modCore_inputs (s : State) (n : Nat) (f : Core → Core) : (s.modCore n f).inputs = s.inputs := rfl

/-! `State.modCluster`. -/

@[simp] theorem State.modCluster_gtc (s : State) (n : Nat) (f : Cluster → Cluster) : (s.modCluster n f).gtc = s.gtc := rfl
@[simp] theorem State.modCluster_skew (s : State) (n : Nat) (f : Cluster → Cluster) : (s.modCluster n f).skew = s.skew := rfl
@[simp] theorem State.modCluster_skewGoal (s : State) (n : Nat) (f : Cluster → Cluster) : (s.modCluster n f).skewGoal = s.skewGoal := rfl
@[simp] theorem State.modCluster_cycle (s : State) (n : Nat) (f : Cluster → Cluster) : (s.modCluster n f).cycle = s.cycle := rfl
@[simp] theorem State.modCluster_phase (s : State) (n : Nat) (f : Cluster → Cluster) : (s.modCluster n f).phase = s.phase := rfl
@[simp] theorem State.modCluster_worked (s : State) (n : Nat) (f : Cluster → Cluster) : (s.modCluster n f).worked = s.worked := rfl
@[simp] theorem State.modCluster_clk (s : State) (n : Nat) (f : Cluster → Cluster) : (s.modCluster n f).clk = s.clk := rfl
@[simp] theorem State.modCluster_fresh (s : State) (n : Nat) (f : Cluster → Cluster) : (s.modCluster n f).fresh = s.fresh := rfl
@[simp] theorem State.modCluster_nextId (s : State) (n : Nat) (f : Cluster → Cluster) : (s.modCluster n f).nextId = s.nextId := rfl
@[simp] theorem State.modCluster_cur (s : State) (n : Nat) (f : Cluster → Cluster) : (s.modCluster n f).cur = s.cur := rfl
@[simp] theorem State.modCluster_others (s : State) (n : Nat) (f : Cluster → Cluster) : (s.modCluster n f).others = s.others := rfl
@[simp] theorem State.modCluster_teams (s : State) (n : Nat) (f : Cluster → Cluster) : (s.modCluster n f).teams = s.teams := rfl
@[simp] theorem State.modCluster_grids (s : State) (n : Nat) (f : Cluster → Cluster) : (s.modCluster n f).grids = s.grids := rfl
@[simp] theorem State.modCluster_cores (s : State) (n : Nat) (f : Cluster → Cluster) : (s.modCluster n f).cores = s.cores := rfl
@[simp] theorem State.modCluster_clusters (s : State) (n : Nat) (f : Cluster → Cluster) : (s.modCluster n f).clusters = sset s.clusters Cluster.reset n (f (s.cluster n)) := rfl
@[simp] theorem State.modCluster_tlb2 (s : State) (n : Nat) (f : Cluster → Cluster) : (s.modCluster n f).tlb2 = s.tlb2 := rfl
@[simp] theorem State.modCluster_ops (s : State) (n : Nat) (f : Cluster → Cluster) : (s.modCluster n f).ops = s.ops := rfl
@[simp] theorem State.modCluster_writes (s : State) (n : Nat) (f : Cluster → Cluster) : (s.modCluster n f).writes = s.writes := rfl
@[simp] theorem State.modCluster_mem (s : State) (n : Nat) (f : Cluster → Cluster) : (s.modCluster n f).mem = s.mem := rfl
@[simp] theorem State.modCluster_errs (s : State) (n : Nat) (f : Cluster → Cluster) : (s.modCluster n f).errs = s.errs := rfl
@[simp] theorem State.modCluster_leases (s : State) (n : Nat) (f : Cluster → Cluster) : (s.modCluster n f).leases = s.leases := rfl
@[simp] theorem State.modCluster_lastV (s : State) (n : Nat) (f : Cluster → Cluster) : (s.modCluster n f).lastV = s.lastV := rfl
@[simp] theorem State.modCluster_olds (s : State) (n : Nat) (f : Cluster → Cluster) : (s.modCluster n f).olds = s.olds := rfl
@[simp] theorem State.modCluster_staged (s : State) (n : Nat) (f : Cluster → Cluster) : (s.modCluster n f).staged = s.staged := rfl
@[simp] theorem State.modCluster_outStores (s : State) (n : Nat) (f : Cluster → Cluster) : (s.modCluster n f).outStores = s.outStores := rfl
@[simp] theorem State.modCluster_atsPages (s : State) (n : Nat) (f : Cluster → Cluster) : (s.modCluster n f).atsPages = s.atsPages := rfl
@[simp] theorem State.modCluster_priReqs (s : State) (n : Nat) (f : Cluster → Cluster) : (s.modCluster n f).priReqs = s.priReqs := rfl
@[simp] theorem State.modCluster_priRefused (s : State) (n : Nat) (f : Cluster → Cluster) : (s.modCluster n f).priRefused = s.priRefused := rfl
@[simp] theorem State.modCluster_priEngines (s : State) (n : Nat) (f : Cluster → Cluster) : (s.modCluster n f).priEngines = s.priEngines := rfl
@[simp] theorem State.modCluster_twe (s : State) (n : Nat) (f : Cluster → Cluster) : (s.modCluster n f).twe = s.twe := rfl
@[simp] theorem State.modCluster_pubs (s : State) (n : Nat) (f : Cluster → Cluster) : (s.modCluster n f).pubs = s.pubs := rfl
@[simp] theorem State.modCluster_turns (s : State) (n : Nat) (f : Cluster → Cluster) : (s.modCluster n f).turns = s.turns := rfl
@[simp] theorem State.modCluster_pkts (s : State) (n : Nat) (f : Cluster → Cluster) : (s.modCluster n f).pkts = s.pkts := rfl
@[simp] theorem State.modCluster_parts (s : State) (n : Nat) (f : Cluster → Cluster) : (s.modCluster n f).parts = s.parts := rfl
@[simp] theorem State.modCluster_vdevs (s : State) (n : Nat) (f : Cluster → Cluster) : (s.modCluster n f).vdevs = s.vdevs := rfl
@[simp] theorem State.modCluster_ports (s : State) (n : Nat) (f : Cluster → Cluster) : (s.modCluster n f).ports = s.ports := rfl
@[simp] theorem State.modCluster_tokens (s : State) (n : Nat) (f : Cluster → Cluster) : (s.modCluster n f).tokens = s.tokens := rfl
@[simp] theorem State.modCluster_invals (s : State) (n : Nat) (f : Cluster → Cluster) : (s.modCluster n f).invals = s.invals := rfl
@[simp] theorem State.modCluster_hub (s : State) (n : Nat) (f : Cluster → Cluster) : (s.modCluster n f).hub = s.hub := rfl
@[simp] theorem State.modCluster_power (s : State) (n : Nat) (f : Cluster → Cluster) : (s.modCluster n f).power = s.power := rfl
@[simp] theorem State.modCluster_harvest (s : State) (n : Nat) (f : Cluster → Cluster) : (s.modCluster n f).harvest = s.harvest := rfl
@[simp] theorem State.modCluster_inputs (s : State) (n : Nat) (f : Cluster → Cluster) : (s.modCluster n f).inputs = s.inputs := rfl

/-! `State.modPart`. -/

@[simp] theorem State.modPart_gtc (s : State) (n : Nat) (f : Part → Part) : (s.modPart n f).gtc = s.gtc := rfl
@[simp] theorem State.modPart_skew (s : State) (n : Nat) (f : Part → Part) : (s.modPart n f).skew = s.skew := rfl
@[simp] theorem State.modPart_skewGoal (s : State) (n : Nat) (f : Part → Part) : (s.modPart n f).skewGoal = s.skewGoal := rfl
@[simp] theorem State.modPart_cycle (s : State) (n : Nat) (f : Part → Part) : (s.modPart n f).cycle = s.cycle := rfl
@[simp] theorem State.modPart_phase (s : State) (n : Nat) (f : Part → Part) : (s.modPart n f).phase = s.phase := rfl
@[simp] theorem State.modPart_worked (s : State) (n : Nat) (f : Part → Part) : (s.modPart n f).worked = s.worked := rfl
@[simp] theorem State.modPart_clk (s : State) (n : Nat) (f : Part → Part) : (s.modPart n f).clk = s.clk := rfl
@[simp] theorem State.modPart_fresh (s : State) (n : Nat) (f : Part → Part) : (s.modPart n f).fresh = s.fresh := rfl
@[simp] theorem State.modPart_nextId (s : State) (n : Nat) (f : Part → Part) : (s.modPart n f).nextId = s.nextId := rfl
@[simp] theorem State.modPart_cur (s : State) (n : Nat) (f : Part → Part) : (s.modPart n f).cur = s.cur := rfl
@[simp] theorem State.modPart_others (s : State) (n : Nat) (f : Part → Part) : (s.modPart n f).others = s.others := rfl
@[simp] theorem State.modPart_teams (s : State) (n : Nat) (f : Part → Part) : (s.modPart n f).teams = s.teams := rfl
@[simp] theorem State.modPart_grids (s : State) (n : Nat) (f : Part → Part) : (s.modPart n f).grids = s.grids := rfl
@[simp] theorem State.modPart_cores (s : State) (n : Nat) (f : Part → Part) : (s.modPart n f).cores = s.cores := rfl
@[simp] theorem State.modPart_clusters (s : State) (n : Nat) (f : Part → Part) : (s.modPart n f).clusters = s.clusters := rfl
@[simp] theorem State.modPart_tlb2 (s : State) (n : Nat) (f : Part → Part) : (s.modPart n f).tlb2 = s.tlb2 := rfl
@[simp] theorem State.modPart_ops (s : State) (n : Nat) (f : Part → Part) : (s.modPart n f).ops = s.ops := rfl
@[simp] theorem State.modPart_writes (s : State) (n : Nat) (f : Part → Part) : (s.modPart n f).writes = s.writes := rfl
@[simp] theorem State.modPart_mem (s : State) (n : Nat) (f : Part → Part) : (s.modPart n f).mem = s.mem := rfl
@[simp] theorem State.modPart_errs (s : State) (n : Nat) (f : Part → Part) : (s.modPart n f).errs = s.errs := rfl
@[simp] theorem State.modPart_leases (s : State) (n : Nat) (f : Part → Part) : (s.modPart n f).leases = s.leases := rfl
@[simp] theorem State.modPart_lastV (s : State) (n : Nat) (f : Part → Part) : (s.modPart n f).lastV = s.lastV := rfl
@[simp] theorem State.modPart_olds (s : State) (n : Nat) (f : Part → Part) : (s.modPart n f).olds = s.olds := rfl
@[simp] theorem State.modPart_staged (s : State) (n : Nat) (f : Part → Part) : (s.modPart n f).staged = s.staged := rfl
@[simp] theorem State.modPart_outStores (s : State) (n : Nat) (f : Part → Part) : (s.modPart n f).outStores = s.outStores := rfl
@[simp] theorem State.modPart_atsPages (s : State) (n : Nat) (f : Part → Part) : (s.modPart n f).atsPages = s.atsPages := rfl
@[simp] theorem State.modPart_priReqs (s : State) (n : Nat) (f : Part → Part) : (s.modPart n f).priReqs = s.priReqs := rfl
@[simp] theorem State.modPart_priRefused (s : State) (n : Nat) (f : Part → Part) : (s.modPart n f).priRefused = s.priRefused := rfl
@[simp] theorem State.modPart_priEngines (s : State) (n : Nat) (f : Part → Part) : (s.modPart n f).priEngines = s.priEngines := rfl
@[simp] theorem State.modPart_twe (s : State) (n : Nat) (f : Part → Part) : (s.modPart n f).twe = s.twe := rfl
@[simp] theorem State.modPart_pubs (s : State) (n : Nat) (f : Part → Part) : (s.modPart n f).pubs = s.pubs := rfl
@[simp] theorem State.modPart_turns (s : State) (n : Nat) (f : Part → Part) : (s.modPart n f).turns = s.turns := rfl
@[simp] theorem State.modPart_pkts (s : State) (n : Nat) (f : Part → Part) : (s.modPart n f).pkts = s.pkts := rfl
@[simp] theorem State.modPart_parts (s : State) (n : Nat) (f : Part → Part) : (s.modPart n f).parts = sset s.parts Part.reset n (f (s.part n)) := rfl
@[simp] theorem State.modPart_vdevs (s : State) (n : Nat) (f : Part → Part) : (s.modPart n f).vdevs = s.vdevs := rfl
@[simp] theorem State.modPart_ports (s : State) (n : Nat) (f : Part → Part) : (s.modPart n f).ports = s.ports := rfl
@[simp] theorem State.modPart_tokens (s : State) (n : Nat) (f : Part → Part) : (s.modPart n f).tokens = s.tokens := rfl
@[simp] theorem State.modPart_invals (s : State) (n : Nat) (f : Part → Part) : (s.modPart n f).invals = s.invals := rfl
@[simp] theorem State.modPart_hub (s : State) (n : Nat) (f : Part → Part) : (s.modPart n f).hub = s.hub := rfl
@[simp] theorem State.modPart_power (s : State) (n : Nat) (f : Part → Part) : (s.modPart n f).power = s.power := rfl
@[simp] theorem State.modPart_harvest (s : State) (n : Nat) (f : Part → Part) : (s.modPart n f).harvest = s.harvest := rfl
@[simp] theorem State.modPart_inputs (s : State) (n : Nat) (f : Part → Part) : (s.modPart n f).inputs = s.inputs := rfl

/-! `State.modVDev`. -/

@[simp] theorem State.modVDev_gtc (s : State) (n : Nat) (f : VDev → VDev) : (s.modVDev n f).gtc = s.gtc := rfl
@[simp] theorem State.modVDev_skew (s : State) (n : Nat) (f : VDev → VDev) : (s.modVDev n f).skew = s.skew := rfl
@[simp] theorem State.modVDev_skewGoal (s : State) (n : Nat) (f : VDev → VDev) : (s.modVDev n f).skewGoal = s.skewGoal := rfl
@[simp] theorem State.modVDev_cycle (s : State) (n : Nat) (f : VDev → VDev) : (s.modVDev n f).cycle = s.cycle := rfl
@[simp] theorem State.modVDev_phase (s : State) (n : Nat) (f : VDev → VDev) : (s.modVDev n f).phase = s.phase := rfl
@[simp] theorem State.modVDev_worked (s : State) (n : Nat) (f : VDev → VDev) : (s.modVDev n f).worked = s.worked := rfl
@[simp] theorem State.modVDev_clk (s : State) (n : Nat) (f : VDev → VDev) : (s.modVDev n f).clk = s.clk := rfl
@[simp] theorem State.modVDev_fresh (s : State) (n : Nat) (f : VDev → VDev) : (s.modVDev n f).fresh = s.fresh := rfl
@[simp] theorem State.modVDev_nextId (s : State) (n : Nat) (f : VDev → VDev) : (s.modVDev n f).nextId = s.nextId := rfl
@[simp] theorem State.modVDev_cur (s : State) (n : Nat) (f : VDev → VDev) : (s.modVDev n f).cur = s.cur := rfl
@[simp] theorem State.modVDev_others (s : State) (n : Nat) (f : VDev → VDev) : (s.modVDev n f).others = s.others := rfl
@[simp] theorem State.modVDev_teams (s : State) (n : Nat) (f : VDev → VDev) : (s.modVDev n f).teams = s.teams := rfl
@[simp] theorem State.modVDev_grids (s : State) (n : Nat) (f : VDev → VDev) : (s.modVDev n f).grids = s.grids := rfl
@[simp] theorem State.modVDev_cores (s : State) (n : Nat) (f : VDev → VDev) : (s.modVDev n f).cores = s.cores := rfl
@[simp] theorem State.modVDev_clusters (s : State) (n : Nat) (f : VDev → VDev) : (s.modVDev n f).clusters = s.clusters := rfl
@[simp] theorem State.modVDev_tlb2 (s : State) (n : Nat) (f : VDev → VDev) : (s.modVDev n f).tlb2 = s.tlb2 := rfl
@[simp] theorem State.modVDev_ops (s : State) (n : Nat) (f : VDev → VDev) : (s.modVDev n f).ops = s.ops := rfl
@[simp] theorem State.modVDev_writes (s : State) (n : Nat) (f : VDev → VDev) : (s.modVDev n f).writes = s.writes := rfl
@[simp] theorem State.modVDev_mem (s : State) (n : Nat) (f : VDev → VDev) : (s.modVDev n f).mem = s.mem := rfl
@[simp] theorem State.modVDev_errs (s : State) (n : Nat) (f : VDev → VDev) : (s.modVDev n f).errs = s.errs := rfl
@[simp] theorem State.modVDev_leases (s : State) (n : Nat) (f : VDev → VDev) : (s.modVDev n f).leases = s.leases := rfl
@[simp] theorem State.modVDev_lastV (s : State) (n : Nat) (f : VDev → VDev) : (s.modVDev n f).lastV = s.lastV := rfl
@[simp] theorem State.modVDev_olds (s : State) (n : Nat) (f : VDev → VDev) : (s.modVDev n f).olds = s.olds := rfl
@[simp] theorem State.modVDev_staged (s : State) (n : Nat) (f : VDev → VDev) : (s.modVDev n f).staged = s.staged := rfl
@[simp] theorem State.modVDev_outStores (s : State) (n : Nat) (f : VDev → VDev) : (s.modVDev n f).outStores = s.outStores := rfl
@[simp] theorem State.modVDev_atsPages (s : State) (n : Nat) (f : VDev → VDev) : (s.modVDev n f).atsPages = s.atsPages := rfl
@[simp] theorem State.modVDev_priReqs (s : State) (n : Nat) (f : VDev → VDev) : (s.modVDev n f).priReqs = s.priReqs := rfl
@[simp] theorem State.modVDev_priRefused (s : State) (n : Nat) (f : VDev → VDev) : (s.modVDev n f).priRefused = s.priRefused := rfl
@[simp] theorem State.modVDev_priEngines (s : State) (n : Nat) (f : VDev → VDev) : (s.modVDev n f).priEngines = s.priEngines := rfl
@[simp] theorem State.modVDev_twe (s : State) (n : Nat) (f : VDev → VDev) : (s.modVDev n f).twe = s.twe := rfl
@[simp] theorem State.modVDev_pubs (s : State) (n : Nat) (f : VDev → VDev) : (s.modVDev n f).pubs = s.pubs := rfl
@[simp] theorem State.modVDev_turns (s : State) (n : Nat) (f : VDev → VDev) : (s.modVDev n f).turns = s.turns := rfl
@[simp] theorem State.modVDev_pkts (s : State) (n : Nat) (f : VDev → VDev) : (s.modVDev n f).pkts = s.pkts := rfl
@[simp] theorem State.modVDev_parts (s : State) (n : Nat) (f : VDev → VDev) : (s.modVDev n f).parts = s.parts := rfl
@[simp] theorem State.modVDev_vdevs (s : State) (n : Nat) (f : VDev → VDev) : (s.modVDev n f).vdevs = sset s.vdevs VDev.reset n (f (s.vdev n)) := rfl
@[simp] theorem State.modVDev_ports (s : State) (n : Nat) (f : VDev → VDev) : (s.modVDev n f).ports = s.ports := rfl
@[simp] theorem State.modVDev_tokens (s : State) (n : Nat) (f : VDev → VDev) : (s.modVDev n f).tokens = s.tokens := rfl
@[simp] theorem State.modVDev_invals (s : State) (n : Nat) (f : VDev → VDev) : (s.modVDev n f).invals = s.invals := rfl
@[simp] theorem State.modVDev_hub (s : State) (n : Nat) (f : VDev → VDev) : (s.modVDev n f).hub = s.hub := rfl
@[simp] theorem State.modVDev_power (s : State) (n : Nat) (f : VDev → VDev) : (s.modVDev n f).power = s.power := rfl
@[simp] theorem State.modVDev_harvest (s : State) (n : Nat) (f : VDev → VDev) : (s.modVDev n f).harvest = s.harvest := rfl
@[simp] theorem State.modVDev_inputs (s : State) (n : Nat) (f : VDev → VDev) : (s.modVDev n f).inputs = s.inputs := rfl

/-! `State.modPort`. -/

@[simp] theorem State.modPort_gtc (s : State) (n : Nat) (f : Port → Port) : (s.modPort n f).gtc = s.gtc := rfl
@[simp] theorem State.modPort_skew (s : State) (n : Nat) (f : Port → Port) : (s.modPort n f).skew = s.skew := rfl
@[simp] theorem State.modPort_skewGoal (s : State) (n : Nat) (f : Port → Port) : (s.modPort n f).skewGoal = s.skewGoal := rfl
@[simp] theorem State.modPort_cycle (s : State) (n : Nat) (f : Port → Port) : (s.modPort n f).cycle = s.cycle := rfl
@[simp] theorem State.modPort_phase (s : State) (n : Nat) (f : Port → Port) : (s.modPort n f).phase = s.phase := rfl
@[simp] theorem State.modPort_worked (s : State) (n : Nat) (f : Port → Port) : (s.modPort n f).worked = s.worked := rfl
@[simp] theorem State.modPort_clk (s : State) (n : Nat) (f : Port → Port) : (s.modPort n f).clk = s.clk := rfl
@[simp] theorem State.modPort_fresh (s : State) (n : Nat) (f : Port → Port) : (s.modPort n f).fresh = s.fresh := rfl
@[simp] theorem State.modPort_nextId (s : State) (n : Nat) (f : Port → Port) : (s.modPort n f).nextId = s.nextId := rfl
@[simp] theorem State.modPort_cur (s : State) (n : Nat) (f : Port → Port) : (s.modPort n f).cur = s.cur := rfl
@[simp] theorem State.modPort_others (s : State) (n : Nat) (f : Port → Port) : (s.modPort n f).others = s.others := rfl
@[simp] theorem State.modPort_teams (s : State) (n : Nat) (f : Port → Port) : (s.modPort n f).teams = s.teams := rfl
@[simp] theorem State.modPort_grids (s : State) (n : Nat) (f : Port → Port) : (s.modPort n f).grids = s.grids := rfl
@[simp] theorem State.modPort_cores (s : State) (n : Nat) (f : Port → Port) : (s.modPort n f).cores = s.cores := rfl
@[simp] theorem State.modPort_clusters (s : State) (n : Nat) (f : Port → Port) : (s.modPort n f).clusters = s.clusters := rfl
@[simp] theorem State.modPort_tlb2 (s : State) (n : Nat) (f : Port → Port) : (s.modPort n f).tlb2 = s.tlb2 := rfl
@[simp] theorem State.modPort_ops (s : State) (n : Nat) (f : Port → Port) : (s.modPort n f).ops = s.ops := rfl
@[simp] theorem State.modPort_writes (s : State) (n : Nat) (f : Port → Port) : (s.modPort n f).writes = s.writes := rfl
@[simp] theorem State.modPort_mem (s : State) (n : Nat) (f : Port → Port) : (s.modPort n f).mem = s.mem := rfl
@[simp] theorem State.modPort_errs (s : State) (n : Nat) (f : Port → Port) : (s.modPort n f).errs = s.errs := rfl
@[simp] theorem State.modPort_leases (s : State) (n : Nat) (f : Port → Port) : (s.modPort n f).leases = s.leases := rfl
@[simp] theorem State.modPort_lastV (s : State) (n : Nat) (f : Port → Port) : (s.modPort n f).lastV = s.lastV := rfl
@[simp] theorem State.modPort_olds (s : State) (n : Nat) (f : Port → Port) : (s.modPort n f).olds = s.olds := rfl
@[simp] theorem State.modPort_staged (s : State) (n : Nat) (f : Port → Port) : (s.modPort n f).staged = s.staged := rfl
@[simp] theorem State.modPort_outStores (s : State) (n : Nat) (f : Port → Port) : (s.modPort n f).outStores = s.outStores := rfl
@[simp] theorem State.modPort_atsPages (s : State) (n : Nat) (f : Port → Port) : (s.modPort n f).atsPages = s.atsPages := rfl
@[simp] theorem State.modPort_priReqs (s : State) (n : Nat) (f : Port → Port) : (s.modPort n f).priReqs = s.priReqs := rfl
@[simp] theorem State.modPort_priRefused (s : State) (n : Nat) (f : Port → Port) : (s.modPort n f).priRefused = s.priRefused := rfl
@[simp] theorem State.modPort_priEngines (s : State) (n : Nat) (f : Port → Port) : (s.modPort n f).priEngines = s.priEngines := rfl
@[simp] theorem State.modPort_twe (s : State) (n : Nat) (f : Port → Port) : (s.modPort n f).twe = s.twe := rfl
@[simp] theorem State.modPort_pubs (s : State) (n : Nat) (f : Port → Port) : (s.modPort n f).pubs = s.pubs := rfl
@[simp] theorem State.modPort_turns (s : State) (n : Nat) (f : Port → Port) : (s.modPort n f).turns = s.turns := rfl
@[simp] theorem State.modPort_pkts (s : State) (n : Nat) (f : Port → Port) : (s.modPort n f).pkts = s.pkts := rfl
@[simp] theorem State.modPort_parts (s : State) (n : Nat) (f : Port → Port) : (s.modPort n f).parts = s.parts := rfl
@[simp] theorem State.modPort_vdevs (s : State) (n : Nat) (f : Port → Port) : (s.modPort n f).vdevs = s.vdevs := rfl
@[simp] theorem State.modPort_ports (s : State) (n : Nat) (f : Port → Port) : (s.modPort n f).ports = sset s.ports Port.reset n (f (s.port n)) := rfl
@[simp] theorem State.modPort_tokens (s : State) (n : Nat) (f : Port → Port) : (s.modPort n f).tokens = s.tokens := rfl
@[simp] theorem State.modPort_invals (s : State) (n : Nat) (f : Port → Port) : (s.modPort n f).invals = s.invals := rfl
@[simp] theorem State.modPort_hub (s : State) (n : Nat) (f : Port → Port) : (s.modPort n f).hub = s.hub := rfl
@[simp] theorem State.modPort_power (s : State) (n : Nat) (f : Port → Port) : (s.modPort n f).power = s.power := rfl
@[simp] theorem State.modPort_harvest (s : State) (n : Nat) (f : Port → Port) : (s.modPort n f).harvest = s.harvest := rfl
@[simp] theorem State.modPort_inputs (s : State) (n : Nat) (f : Port → Port) : (s.modPort n f).inputs = s.inputs := rfl

/-! `State.pushOp`. -/

@[simp] theorem State.pushOp_gtc (s : State) (o : Op) : (s.pushOp o).gtc = s.gtc := rfl
@[simp] theorem State.pushOp_skew (s : State) (o : Op) : (s.pushOp o).skew = s.skew := rfl
@[simp] theorem State.pushOp_skewGoal (s : State) (o : Op) : (s.pushOp o).skewGoal = s.skewGoal := rfl
@[simp] theorem State.pushOp_cycle (s : State) (o : Op) : (s.pushOp o).cycle = s.cycle := rfl
@[simp] theorem State.pushOp_phase (s : State) (o : Op) : (s.pushOp o).phase = s.phase := rfl
@[simp] theorem State.pushOp_worked (s : State) (o : Op) : (s.pushOp o).worked = s.worked := rfl
@[simp] theorem State.pushOp_clk (s : State) (o : Op) : (s.pushOp o).clk = s.clk := rfl
@[simp] theorem State.pushOp_fresh (s : State) (o : Op) : (s.pushOp o).fresh = s.fresh + 1 := rfl
@[simp] theorem State.pushOp_nextId (s : State) (o : Op) : (s.pushOp o).nextId = s.nextId + 1 := rfl
@[simp] theorem State.pushOp_cur (s : State) (o : Op) : (s.pushOp o).cur = s.cur := rfl
@[simp] theorem State.pushOp_others (s : State) (o : Op) : (s.pushOp o).others = s.others := rfl
@[simp] theorem State.pushOp_teams (s : State) (o : Op) : (s.pushOp o).teams = s.teams := rfl
@[simp] theorem State.pushOp_grids (s : State) (o : Op) : (s.pushOp o).grids = s.grids := rfl
@[simp] theorem State.pushOp_cores (s : State) (o : Op) : (s.pushOp o).cores = s.cores := rfl
@[simp] theorem State.pushOp_clusters (s : State) (o : Op) : (s.pushOp o).clusters = s.clusters := rfl
@[simp] theorem State.pushOp_tlb2 (s : State) (o : Op) : (s.pushOp o).tlb2 = s.tlb2 := rfl
@[simp] theorem State.pushOp_ops (s : State) (o : Op) : (s.pushOp o).ops = s.ops ++ [o] := rfl
@[simp] theorem State.pushOp_writes (s : State) (o : Op) : (s.pushOp o).writes = s.writes := rfl
@[simp] theorem State.pushOp_mem (s : State) (o : Op) : (s.pushOp o).mem = s.mem := rfl
@[simp] theorem State.pushOp_errs (s : State) (o : Op) : (s.pushOp o).errs = s.errs := rfl
@[simp] theorem State.pushOp_leases (s : State) (o : Op) : (s.pushOp o).leases = s.leases := rfl
@[simp] theorem State.pushOp_lastV (s : State) (o : Op) : (s.pushOp o).lastV = s.lastV := rfl
@[simp] theorem State.pushOp_olds (s : State) (o : Op) : (s.pushOp o).olds = s.olds := rfl
@[simp] theorem State.pushOp_staged (s : State) (o : Op) : (s.pushOp o).staged = s.staged := rfl
@[simp] theorem State.pushOp_outStores (s : State) (o : Op) : (s.pushOp o).outStores = s.outStores := rfl
@[simp] theorem State.pushOp_atsPages (s : State) (o : Op) : (s.pushOp o).atsPages = s.atsPages := rfl
@[simp] theorem State.pushOp_priReqs (s : State) (o : Op) : (s.pushOp o).priReqs = s.priReqs := rfl
@[simp] theorem State.pushOp_priRefused (s : State) (o : Op) : (s.pushOp o).priRefused = s.priRefused := rfl
@[simp] theorem State.pushOp_priEngines (s : State) (o : Op) : (s.pushOp o).priEngines = s.priEngines := rfl
@[simp] theorem State.pushOp_twe (s : State) (o : Op) : (s.pushOp o).twe = s.twe := rfl
@[simp] theorem State.pushOp_pubs (s : State) (o : Op) : (s.pushOp o).pubs = s.pubs := rfl
@[simp] theorem State.pushOp_turns (s : State) (o : Op) : (s.pushOp o).turns = s.turns := rfl
@[simp] theorem State.pushOp_pkts (s : State) (o : Op) : (s.pushOp o).pkts = s.pkts := rfl
@[simp] theorem State.pushOp_parts (s : State) (o : Op) : (s.pushOp o).parts = s.parts := rfl
@[simp] theorem State.pushOp_vdevs (s : State) (o : Op) : (s.pushOp o).vdevs = s.vdevs := rfl
@[simp] theorem State.pushOp_ports (s : State) (o : Op) : (s.pushOp o).ports = s.ports := rfl
@[simp] theorem State.pushOp_tokens (s : State) (o : Op) : (s.pushOp o).tokens = s.tokens := rfl
@[simp] theorem State.pushOp_invals (s : State) (o : Op) : (s.pushOp o).invals = s.invals := rfl
@[simp] theorem State.pushOp_hub (s : State) (o : Op) : (s.pushOp o).hub = s.hub := rfl
@[simp] theorem State.pushOp_power (s : State) (o : Op) : (s.pushOp o).power = s.power := rfl
@[simp] theorem State.pushOp_harvest (s : State) (o : Op) : (s.pushOp o).harvest = s.harvest := rfl
@[simp] theorem State.pushOp_inputs (s : State) (o : Op) : (s.pushOp o).inputs = s.inputs := rfl

/-! `State.setGroup`. -/

@[simp] theorem State.setGroup_gtc (s : State) (g : Group) : (s.setGroup g).gtc = s.gtc := by
  unfold State.setGroup; split <;> rfl
@[simp] theorem State.setGroup_skew (s : State) (g : Group) : (s.setGroup g).skew = s.skew := by
  unfold State.setGroup; split <;> rfl
@[simp] theorem State.setGroup_skewGoal (s : State) (g : Group) : (s.setGroup g).skewGoal = s.skewGoal := by
  unfold State.setGroup; split <;> rfl
@[simp] theorem State.setGroup_cycle (s : State) (g : Group) : (s.setGroup g).cycle = s.cycle := by
  unfold State.setGroup; split <;> rfl
@[simp] theorem State.setGroup_phase (s : State) (g : Group) : (s.setGroup g).phase = s.phase := by
  unfold State.setGroup; split <;> rfl
@[simp] theorem State.setGroup_worked (s : State) (g : Group) : (s.setGroup g).worked = s.worked := by
  unfold State.setGroup; split <;> rfl
@[simp] theorem State.setGroup_clk (s : State) (g : Group) : (s.setGroup g).clk = s.clk := by
  unfold State.setGroup; split <;> rfl
@[simp] theorem State.setGroup_fresh (s : State) (g : Group) : (s.setGroup g).fresh = s.fresh := by
  unfold State.setGroup; split <;> rfl
@[simp] theorem State.setGroup_nextId (s : State) (g : Group) : (s.setGroup g).nextId = s.nextId := by
  unfold State.setGroup; split <;> rfl
@[simp] theorem State.setGroup_teams (s : State) (g : Group) : (s.setGroup g).teams = s.teams := by
  unfold State.setGroup; split <;> rfl
@[simp] theorem State.setGroup_grids (s : State) (g : Group) : (s.setGroup g).grids = s.grids := by
  unfold State.setGroup; split <;> rfl
@[simp] theorem State.setGroup_cores (s : State) (g : Group) : (s.setGroup g).cores = s.cores := by
  unfold State.setGroup; split <;> rfl
@[simp] theorem State.setGroup_clusters (s : State) (g : Group) : (s.setGroup g).clusters = s.clusters := by
  unfold State.setGroup; split <;> rfl
@[simp] theorem State.setGroup_tlb2 (s : State) (g : Group) : (s.setGroup g).tlb2 = s.tlb2 := by
  unfold State.setGroup; split <;> rfl
@[simp] theorem State.setGroup_ops (s : State) (g : Group) : (s.setGroup g).ops = s.ops := by
  unfold State.setGroup; split <;> rfl
@[simp] theorem State.setGroup_writes (s : State) (g : Group) : (s.setGroup g).writes = s.writes := by
  unfold State.setGroup; split <;> rfl
@[simp] theorem State.setGroup_mem (s : State) (g : Group) : (s.setGroup g).mem = s.mem := by
  unfold State.setGroup; split <;> rfl
@[simp] theorem State.setGroup_errs (s : State) (g : Group) : (s.setGroup g).errs = s.errs := by
  unfold State.setGroup; split <;> rfl
@[simp] theorem State.setGroup_leases (s : State) (g : Group) : (s.setGroup g).leases = s.leases := by
  unfold State.setGroup; split <;> rfl
@[simp] theorem State.setGroup_lastV (s : State) (g : Group) : (s.setGroup g).lastV = s.lastV := by
  unfold State.setGroup; split <;> rfl
@[simp] theorem State.setGroup_olds (s : State) (g : Group) : (s.setGroup g).olds = s.olds := by
  unfold State.setGroup; split <;> rfl
@[simp] theorem State.setGroup_staged (s : State) (g : Group) : (s.setGroup g).staged = s.staged := by
  unfold State.setGroup; split <;> rfl
@[simp] theorem State.setGroup_outStores (s : State) (g : Group) : (s.setGroup g).outStores = s.outStores := by
  unfold State.setGroup; split <;> rfl
@[simp] theorem State.setGroup_atsPages (s : State) (g : Group) : (s.setGroup g).atsPages = s.atsPages := by
  unfold State.setGroup; split <;> rfl
@[simp] theorem State.setGroup_priReqs (s : State) (g : Group) : (s.setGroup g).priReqs = s.priReqs := by
  unfold State.setGroup; split <;> rfl
@[simp] theorem State.setGroup_priRefused (s : State) (g : Group) : (s.setGroup g).priRefused = s.priRefused := by
  unfold State.setGroup; split <;> rfl
@[simp] theorem State.setGroup_priEngines (s : State) (g : Group) : (s.setGroup g).priEngines = s.priEngines := by
  unfold State.setGroup; split <;> rfl
@[simp] theorem State.setGroup_twe (s : State) (g : Group) : (s.setGroup g).twe = s.twe := by
  unfold State.setGroup; split <;> rfl
@[simp] theorem State.setGroup_pubs (s : State) (g : Group) : (s.setGroup g).pubs = s.pubs := by
  unfold State.setGroup; split <;> rfl
@[simp] theorem State.setGroup_turns (s : State) (g : Group) : (s.setGroup g).turns = s.turns := by
  unfold State.setGroup; split <;> rfl
@[simp] theorem State.setGroup_pkts (s : State) (g : Group) : (s.setGroup g).pkts = s.pkts := by
  unfold State.setGroup; split <;> rfl
@[simp] theorem State.setGroup_parts (s : State) (g : Group) : (s.setGroup g).parts = s.parts := by
  unfold State.setGroup; split <;> rfl
@[simp] theorem State.setGroup_vdevs (s : State) (g : Group) : (s.setGroup g).vdevs = s.vdevs := by
  unfold State.setGroup; split <;> rfl
@[simp] theorem State.setGroup_ports (s : State) (g : Group) : (s.setGroup g).ports = s.ports := by
  unfold State.setGroup; split <;> rfl
@[simp] theorem State.setGroup_tokens (s : State) (g : Group) : (s.setGroup g).tokens = s.tokens := by
  unfold State.setGroup; split <;> rfl
@[simp] theorem State.setGroup_invals (s : State) (g : Group) : (s.setGroup g).invals = s.invals := by
  unfold State.setGroup; split <;> rfl
@[simp] theorem State.setGroup_hub (s : State) (g : Group) : (s.setGroup g).hub = s.hub := by
  unfold State.setGroup; split <;> rfl
@[simp] theorem State.setGroup_power (s : State) (g : Group) : (s.setGroup g).power = s.power := by
  unfold State.setGroup; split <;> rfl
@[simp] theorem State.setGroup_harvest (s : State) (g : Group) : (s.setGroup g).harvest = s.harvest := by
  unfold State.setGroup; split <;> rfl
@[simp] theorem State.setGroup_inputs (s : State) (g : Group) : (s.setGroup g).inputs = s.inputs := by
  unfold State.setGroup; split <;> rfl

/-! `State.modGroup`. -/

@[simp] theorem State.modGroup_gtc (s : State) (gid : Nat) (f : Group → Group) : (s.modGroup gid f).gtc = s.gtc := by
  unfold State.modGroup; split <;> rfl
@[simp] theorem State.modGroup_skew (s : State) (gid : Nat) (f : Group → Group) : (s.modGroup gid f).skew = s.skew := by
  unfold State.modGroup; split <;> rfl
@[simp] theorem State.modGroup_skewGoal (s : State) (gid : Nat) (f : Group → Group) : (s.modGroup gid f).skewGoal = s.skewGoal := by
  unfold State.modGroup; split <;> rfl
@[simp] theorem State.modGroup_cycle (s : State) (gid : Nat) (f : Group → Group) : (s.modGroup gid f).cycle = s.cycle := by
  unfold State.modGroup; split <;> rfl
@[simp] theorem State.modGroup_phase (s : State) (gid : Nat) (f : Group → Group) : (s.modGroup gid f).phase = s.phase := by
  unfold State.modGroup; split <;> rfl
@[simp] theorem State.modGroup_worked (s : State) (gid : Nat) (f : Group → Group) : (s.modGroup gid f).worked = s.worked := by
  unfold State.modGroup; split <;> rfl
@[simp] theorem State.modGroup_clk (s : State) (gid : Nat) (f : Group → Group) : (s.modGroup gid f).clk = s.clk := by
  unfold State.modGroup; split <;> rfl
@[simp] theorem State.modGroup_fresh (s : State) (gid : Nat) (f : Group → Group) : (s.modGroup gid f).fresh = s.fresh := by
  unfold State.modGroup; split <;> rfl
@[simp] theorem State.modGroup_nextId (s : State) (gid : Nat) (f : Group → Group) : (s.modGroup gid f).nextId = s.nextId := by
  unfold State.modGroup; split <;> rfl
@[simp] theorem State.modGroup_teams (s : State) (gid : Nat) (f : Group → Group) : (s.modGroup gid f).teams = s.teams := by
  unfold State.modGroup; split <;> rfl
@[simp] theorem State.modGroup_grids (s : State) (gid : Nat) (f : Group → Group) : (s.modGroup gid f).grids = s.grids := by
  unfold State.modGroup; split <;> rfl
@[simp] theorem State.modGroup_cores (s : State) (gid : Nat) (f : Group → Group) : (s.modGroup gid f).cores = s.cores := by
  unfold State.modGroup; split <;> rfl
@[simp] theorem State.modGroup_clusters (s : State) (gid : Nat) (f : Group → Group) : (s.modGroup gid f).clusters = s.clusters := by
  unfold State.modGroup; split <;> rfl
@[simp] theorem State.modGroup_tlb2 (s : State) (gid : Nat) (f : Group → Group) : (s.modGroup gid f).tlb2 = s.tlb2 := by
  unfold State.modGroup; split <;> rfl
@[simp] theorem State.modGroup_ops (s : State) (gid : Nat) (f : Group → Group) : (s.modGroup gid f).ops = s.ops := by
  unfold State.modGroup; split <;> rfl
@[simp] theorem State.modGroup_writes (s : State) (gid : Nat) (f : Group → Group) : (s.modGroup gid f).writes = s.writes := by
  unfold State.modGroup; split <;> rfl
@[simp] theorem State.modGroup_mem (s : State) (gid : Nat) (f : Group → Group) : (s.modGroup gid f).mem = s.mem := by
  unfold State.modGroup; split <;> rfl
@[simp] theorem State.modGroup_errs (s : State) (gid : Nat) (f : Group → Group) : (s.modGroup gid f).errs = s.errs := by
  unfold State.modGroup; split <;> rfl
@[simp] theorem State.modGroup_leases (s : State) (gid : Nat) (f : Group → Group) : (s.modGroup gid f).leases = s.leases := by
  unfold State.modGroup; split <;> rfl
@[simp] theorem State.modGroup_lastV (s : State) (gid : Nat) (f : Group → Group) : (s.modGroup gid f).lastV = s.lastV := by
  unfold State.modGroup; split <;> rfl
@[simp] theorem State.modGroup_olds (s : State) (gid : Nat) (f : Group → Group) : (s.modGroup gid f).olds = s.olds := by
  unfold State.modGroup; split <;> rfl
@[simp] theorem State.modGroup_staged (s : State) (gid : Nat) (f : Group → Group) : (s.modGroup gid f).staged = s.staged := by
  unfold State.modGroup; split <;> rfl
@[simp] theorem State.modGroup_outStores (s : State) (gid : Nat) (f : Group → Group) : (s.modGroup gid f).outStores = s.outStores := by
  unfold State.modGroup; split <;> rfl
@[simp] theorem State.modGroup_atsPages (s : State) (gid : Nat) (f : Group → Group) : (s.modGroup gid f).atsPages = s.atsPages := by
  unfold State.modGroup; split <;> rfl
@[simp] theorem State.modGroup_priReqs (s : State) (gid : Nat) (f : Group → Group) : (s.modGroup gid f).priReqs = s.priReqs := by
  unfold State.modGroup; split <;> rfl
@[simp] theorem State.modGroup_priRefused (s : State) (gid : Nat) (f : Group → Group) : (s.modGroup gid f).priRefused = s.priRefused := by
  unfold State.modGroup; split <;> rfl
@[simp] theorem State.modGroup_priEngines (s : State) (gid : Nat) (f : Group → Group) : (s.modGroup gid f).priEngines = s.priEngines := by
  unfold State.modGroup; split <;> rfl
@[simp] theorem State.modGroup_twe (s : State) (gid : Nat) (f : Group → Group) : (s.modGroup gid f).twe = s.twe := by
  unfold State.modGroup; split <;> rfl
@[simp] theorem State.modGroup_pubs (s : State) (gid : Nat) (f : Group → Group) : (s.modGroup gid f).pubs = s.pubs := by
  unfold State.modGroup; split <;> rfl
@[simp] theorem State.modGroup_turns (s : State) (gid : Nat) (f : Group → Group) : (s.modGroup gid f).turns = s.turns := by
  unfold State.modGroup; split <;> rfl
@[simp] theorem State.modGroup_pkts (s : State) (gid : Nat) (f : Group → Group) : (s.modGroup gid f).pkts = s.pkts := by
  unfold State.modGroup; split <;> rfl
@[simp] theorem State.modGroup_parts (s : State) (gid : Nat) (f : Group → Group) : (s.modGroup gid f).parts = s.parts := by
  unfold State.modGroup; split <;> rfl
@[simp] theorem State.modGroup_vdevs (s : State) (gid : Nat) (f : Group → Group) : (s.modGroup gid f).vdevs = s.vdevs := by
  unfold State.modGroup; split <;> rfl
@[simp] theorem State.modGroup_ports (s : State) (gid : Nat) (f : Group → Group) : (s.modGroup gid f).ports = s.ports := by
  unfold State.modGroup; split <;> rfl
@[simp] theorem State.modGroup_tokens (s : State) (gid : Nat) (f : Group → Group) : (s.modGroup gid f).tokens = s.tokens := by
  unfold State.modGroup; split <;> rfl
@[simp] theorem State.modGroup_invals (s : State) (gid : Nat) (f : Group → Group) : (s.modGroup gid f).invals = s.invals := by
  unfold State.modGroup; split <;> rfl
@[simp] theorem State.modGroup_hub (s : State) (gid : Nat) (f : Group → Group) : (s.modGroup gid f).hub = s.hub := by
  unfold State.modGroup; split <;> rfl
@[simp] theorem State.modGroup_power (s : State) (gid : Nat) (f : Group → Group) : (s.modGroup gid f).power = s.power := by
  unfold State.modGroup; split <;> rfl
@[simp] theorem State.modGroup_harvest (s : State) (gid : Nat) (f : Group → Group) : (s.modGroup gid f).harvest = s.harvest := by
  unfold State.modGroup; split <;> rfl
@[simp] theorem State.modGroup_inputs (s : State) (gid : Nat) (f : Group → Group) : (s.modGroup gid f).inputs = s.inputs := by
  unfold State.modGroup; split <;> rfl

/-! `State.signal`. -/

@[simp] theorem State.signal_gtc (s : State) (fn vec : Nat) : (s.signal fn vec).gtc = s.gtc := by
  simp only [State.signal]; split <;> rfl
@[simp] theorem State.signal_skew (s : State) (fn vec : Nat) : (s.signal fn vec).skew = s.skew := by
  simp only [State.signal]; split <;> rfl
@[simp] theorem State.signal_skewGoal (s : State) (fn vec : Nat) : (s.signal fn vec).skewGoal = s.skewGoal := by
  simp only [State.signal]; split <;> rfl
@[simp] theorem State.signal_cycle (s : State) (fn vec : Nat) : (s.signal fn vec).cycle = s.cycle := by
  simp only [State.signal]; split <;> rfl
@[simp] theorem State.signal_phase (s : State) (fn vec : Nat) : (s.signal fn vec).phase = s.phase := by
  simp only [State.signal]; split <;> rfl
@[simp] theorem State.signal_worked (s : State) (fn vec : Nat) : (s.signal fn vec).worked = s.worked := by
  simp only [State.signal]; split <;> rfl
@[simp] theorem State.signal_clk (s : State) (fn vec : Nat) : (s.signal fn vec).clk = s.clk := by
  simp only [State.signal]; split <;> rfl
@[simp] theorem State.signal_fresh (s : State) (fn vec : Nat) : (s.signal fn vec).fresh = s.fresh := by
  simp only [State.signal]; split <;> rfl
@[simp] theorem State.signal_nextId (s : State) (fn vec : Nat) : (s.signal fn vec).nextId = s.nextId := by
  simp only [State.signal]; split <;> rfl
@[simp] theorem State.signal_cur (s : State) (fn vec : Nat) : (s.signal fn vec).cur = s.cur := by
  simp only [State.signal]; split <;> rfl
@[simp] theorem State.signal_others (s : State) (fn vec : Nat) : (s.signal fn vec).others = s.others := by
  simp only [State.signal]; split <;> rfl
@[simp] theorem State.signal_teams (s : State) (fn vec : Nat) : (s.signal fn vec).teams = s.teams := by
  simp only [State.signal]; split <;> rfl
@[simp] theorem State.signal_grids (s : State) (fn vec : Nat) : (s.signal fn vec).grids = s.grids := by
  simp only [State.signal]; split <;> rfl
@[simp] theorem State.signal_cores (s : State) (fn vec : Nat) : (s.signal fn vec).cores = s.cores := by
  simp only [State.signal]; split <;> rfl
@[simp] theorem State.signal_clusters (s : State) (fn vec : Nat) : (s.signal fn vec).clusters = s.clusters := by
  simp only [State.signal]; split <;> rfl
@[simp] theorem State.signal_tlb2 (s : State) (fn vec : Nat) : (s.signal fn vec).tlb2 = s.tlb2 := by
  simp only [State.signal]; split <;> rfl
@[simp] theorem State.signal_ops (s : State) (fn vec : Nat) : (s.signal fn vec).ops = s.ops := by
  simp only [State.signal]; split <;> rfl
@[simp] theorem State.signal_writes (s : State) (fn vec : Nat) : (s.signal fn vec).writes = s.writes := by
  simp only [State.signal]; split <;> rfl
@[simp] theorem State.signal_mem (s : State) (fn vec : Nat) : (s.signal fn vec).mem = s.mem := by
  simp only [State.signal]; split <;> rfl
@[simp] theorem State.signal_errs (s : State) (fn vec : Nat) : (s.signal fn vec).errs = s.errs := by
  simp only [State.signal]; split <;> rfl
@[simp] theorem State.signal_leases (s : State) (fn vec : Nat) : (s.signal fn vec).leases = s.leases := by
  simp only [State.signal]; split <;> rfl
@[simp] theorem State.signal_lastV (s : State) (fn vec : Nat) : (s.signal fn vec).lastV = s.lastV := by
  simp only [State.signal]; split <;> rfl
@[simp] theorem State.signal_olds (s : State) (fn vec : Nat) : (s.signal fn vec).olds = s.olds := by
  simp only [State.signal]; split <;> rfl
@[simp] theorem State.signal_staged (s : State) (fn vec : Nat) : (s.signal fn vec).staged = s.staged := by
  simp only [State.signal]; split <;> rfl
@[simp] theorem State.signal_outStores (s : State) (fn vec : Nat) : (s.signal fn vec).outStores = s.outStores := by
  simp only [State.signal]; split <;> rfl
@[simp] theorem State.signal_atsPages (s : State) (fn vec : Nat) : (s.signal fn vec).atsPages = s.atsPages := by
  simp only [State.signal]; split <;> rfl
@[simp] theorem State.signal_priReqs (s : State) (fn vec : Nat) : (s.signal fn vec).priReqs = s.priReqs := by
  simp only [State.signal]; split <;> rfl
@[simp] theorem State.signal_priRefused (s : State) (fn vec : Nat) : (s.signal fn vec).priRefused = s.priRefused := by
  simp only [State.signal]; split <;> rfl
@[simp] theorem State.signal_priEngines (s : State) (fn vec : Nat) : (s.signal fn vec).priEngines = s.priEngines := by
  simp only [State.signal]; split <;> rfl
@[simp] theorem State.signal_twe (s : State) (fn vec : Nat) : (s.signal fn vec).twe = s.twe := by
  simp only [State.signal]; split <;> rfl
@[simp] theorem State.signal_pubs (s : State) (fn vec : Nat) : (s.signal fn vec).pubs = s.pubs := by
  simp only [State.signal]; split <;> rfl
@[simp] theorem State.signal_turns (s : State) (fn vec : Nat) : (s.signal fn vec).turns = s.turns := by
  simp only [State.signal]; split <;> rfl
@[simp] theorem State.signal_pkts (s : State) (fn vec : Nat) : (s.signal fn vec).pkts = s.pkts := by
  simp only [State.signal]; split <;> rfl
@[simp] theorem State.signal_parts (s : State) (fn vec : Nat) : (s.signal fn vec).parts = s.parts := by
  simp only [State.signal]; split <;> rfl
@[simp] theorem State.signal_vdevs (s : State) (fn vec : Nat) : (s.signal fn vec).vdevs = s.vdevs := by
  simp only [State.signal]; split <;> rfl
@[simp] theorem State.signal_ports (s : State) (fn vec : Nat) : (s.signal fn vec).ports = s.ports := by
  simp only [State.signal]; split <;> rfl
@[simp] theorem State.signal_tokens (s : State) (fn vec : Nat) : (s.signal fn vec).tokens = s.tokens := by
  simp only [State.signal]; split <;> rfl
@[simp] theorem State.signal_invals (s : State) (fn vec : Nat) : (s.signal fn vec).invals = s.invals := by
  simp only [State.signal]; split <;> rfl
@[simp] theorem State.signal_power (s : State) (fn vec : Nat) : (s.signal fn vec).power = s.power := by
  simp only [State.signal]; split <;> rfl
@[simp] theorem State.signal_harvest (s : State) (fn vec : Nat) : (s.signal fn vec).harvest = s.harvest := by
  simp only [State.signal]; split <;> rfl
@[simp] theorem State.signal_inputs (s : State) (fn vec : Nat) : (s.signal fn vec).inputs = s.inputs := by
  simp only [State.signal]; split <;> rfl

/-! `State.focus`. -/

@[simp] theorem State.focus_gtc (s : State) (gid : Nat) : (s.focus gid).gtc = s.gtc := by
  unfold State.focus; split; · rfl
  split <;> rfl
@[simp] theorem State.focus_skew (s : State) (gid : Nat) : (s.focus gid).skew = s.skew := by
  unfold State.focus; split; · rfl
  split <;> rfl
@[simp] theorem State.focus_skewGoal (s : State) (gid : Nat) : (s.focus gid).skewGoal = s.skewGoal := by
  unfold State.focus; split; · rfl
  split <;> rfl
@[simp] theorem State.focus_cycle (s : State) (gid : Nat) : (s.focus gid).cycle = s.cycle := by
  unfold State.focus; split; · rfl
  split <;> rfl
@[simp] theorem State.focus_phase (s : State) (gid : Nat) : (s.focus gid).phase = s.phase := by
  unfold State.focus; split; · rfl
  split <;> rfl
@[simp] theorem State.focus_worked (s : State) (gid : Nat) : (s.focus gid).worked = s.worked := by
  unfold State.focus; split; · rfl
  split <;> rfl
@[simp] theorem State.focus_clk (s : State) (gid : Nat) : (s.focus gid).clk = s.clk := by
  unfold State.focus; split; · rfl
  split <;> rfl
@[simp] theorem State.focus_fresh (s : State) (gid : Nat) : (s.focus gid).fresh = s.fresh := by
  unfold State.focus; split; · rfl
  split <;> rfl
@[simp] theorem State.focus_nextId (s : State) (gid : Nat) : (s.focus gid).nextId = s.nextId := by
  unfold State.focus; split; · rfl
  split <;> rfl
@[simp] theorem State.focus_teams (s : State) (gid : Nat) : (s.focus gid).teams = s.teams := by
  unfold State.focus; split; · rfl
  split <;> rfl
@[simp] theorem State.focus_grids (s : State) (gid : Nat) : (s.focus gid).grids = s.grids := by
  unfold State.focus; split; · rfl
  split <;> rfl
@[simp] theorem State.focus_cores (s : State) (gid : Nat) : (s.focus gid).cores = s.cores := by
  unfold State.focus; split; · rfl
  split <;> rfl
@[simp] theorem State.focus_clusters (s : State) (gid : Nat) : (s.focus gid).clusters = s.clusters := by
  unfold State.focus; split; · rfl
  split <;> rfl
@[simp] theorem State.focus_tlb2 (s : State) (gid : Nat) : (s.focus gid).tlb2 = s.tlb2 := by
  unfold State.focus; split; · rfl
  split <;> rfl
@[simp] theorem State.focus_ops (s : State) (gid : Nat) : (s.focus gid).ops = s.ops := by
  unfold State.focus; split; · rfl
  split <;> rfl
@[simp] theorem State.focus_writes (s : State) (gid : Nat) : (s.focus gid).writes = s.writes := by
  unfold State.focus; split; · rfl
  split <;> rfl
@[simp] theorem State.focus_mem (s : State) (gid : Nat) : (s.focus gid).mem = s.mem := by
  unfold State.focus; split; · rfl
  split <;> rfl
@[simp] theorem State.focus_errs (s : State) (gid : Nat) : (s.focus gid).errs = s.errs := by
  unfold State.focus; split; · rfl
  split <;> rfl
@[simp] theorem State.focus_leases (s : State) (gid : Nat) : (s.focus gid).leases = s.leases := by
  unfold State.focus; split; · rfl
  split <;> rfl
@[simp] theorem State.focus_lastV (s : State) (gid : Nat) : (s.focus gid).lastV = s.lastV := by
  unfold State.focus; split; · rfl
  split <;> rfl
@[simp] theorem State.focus_olds (s : State) (gid : Nat) : (s.focus gid).olds = s.olds := by
  unfold State.focus; split; · rfl
  split <;> rfl
@[simp] theorem State.focus_staged (s : State) (gid : Nat) : (s.focus gid).staged = s.staged := by
  unfold State.focus; split; · rfl
  split <;> rfl
@[simp] theorem State.focus_outStores (s : State) (gid : Nat) : (s.focus gid).outStores = s.outStores := by
  unfold State.focus; split; · rfl
  split <;> rfl
@[simp] theorem State.focus_atsPages (s : State) (gid : Nat) : (s.focus gid).atsPages = s.atsPages := by
  unfold State.focus; split; · rfl
  split <;> rfl
@[simp] theorem State.focus_priReqs (s : State) (gid : Nat) : (s.focus gid).priReqs = s.priReqs := by
  unfold State.focus; split; · rfl
  split <;> rfl
@[simp] theorem State.focus_priRefused (s : State) (gid : Nat) : (s.focus gid).priRefused = s.priRefused := by
  unfold State.focus; split; · rfl
  split <;> rfl
@[simp] theorem State.focus_priEngines (s : State) (gid : Nat) : (s.focus gid).priEngines = s.priEngines := by
  unfold State.focus; split; · rfl
  split <;> rfl
@[simp] theorem State.focus_twe (s : State) (gid : Nat) : (s.focus gid).twe = s.twe := by
  unfold State.focus; split; · rfl
  split <;> rfl
@[simp] theorem State.focus_pubs (s : State) (gid : Nat) : (s.focus gid).pubs = s.pubs := by
  unfold State.focus; split; · rfl
  split <;> rfl
@[simp] theorem State.focus_turns (s : State) (gid : Nat) : (s.focus gid).turns = s.turns := by
  unfold State.focus; split; · rfl
  split <;> rfl
@[simp] theorem State.focus_pkts (s : State) (gid : Nat) : (s.focus gid).pkts = s.pkts := by
  unfold State.focus; split; · rfl
  split <;> rfl
@[simp] theorem State.focus_parts (s : State) (gid : Nat) : (s.focus gid).parts = s.parts := by
  unfold State.focus; split; · rfl
  split <;> rfl
@[simp] theorem State.focus_vdevs (s : State) (gid : Nat) : (s.focus gid).vdevs = s.vdevs := by
  unfold State.focus; split; · rfl
  split <;> rfl
@[simp] theorem State.focus_ports (s : State) (gid : Nat) : (s.focus gid).ports = s.ports := by
  unfold State.focus; split; · rfl
  split <;> rfl
@[simp] theorem State.focus_tokens (s : State) (gid : Nat) : (s.focus gid).tokens = s.tokens := by
  unfold State.focus; split; · rfl
  split <;> rfl
@[simp] theorem State.focus_invals (s : State) (gid : Nat) : (s.focus gid).invals = s.invals := by
  unfold State.focus; split; · rfl
  split <;> rfl
@[simp] theorem State.focus_hub (s : State) (gid : Nat) : (s.focus gid).hub = s.hub := by
  unfold State.focus; split; · rfl
  split <;> rfl
@[simp] theorem State.focus_power (s : State) (gid : Nat) : (s.focus gid).power = s.power := by
  unfold State.focus; split; · rfl
  split <;> rfl
@[simp] theorem State.focus_harvest (s : State) (gid : Nat) : (s.focus gid).harvest = s.harvest := by
  unfold State.focus; split; · rfl
  split <;> rfl
@[simp] theorem State.focus_inputs (s : State) (gid : Nat) : (s.focus gid).inputs = s.inputs := by
  unfold State.focus; split; · rfl
  split <;> rfl

/-! `State.modReq`. -/

@[simp] theorem State.modReq_gtc (s : State) (id : Nat) (f : MxReq → MxReq) : (s.modReq id f).gtc = s.gtc := by
  unfold State.modReq; split <;> rfl
@[simp] theorem State.modReq_skew (s : State) (id : Nat) (f : MxReq → MxReq) : (s.modReq id f).skew = s.skew := by
  unfold State.modReq; split <;> rfl
@[simp] theorem State.modReq_skewGoal (s : State) (id : Nat) (f : MxReq → MxReq) : (s.modReq id f).skewGoal = s.skewGoal := by
  unfold State.modReq; split <;> rfl
@[simp] theorem State.modReq_cycle (s : State) (id : Nat) (f : MxReq → MxReq) : (s.modReq id f).cycle = s.cycle := by
  unfold State.modReq; split <;> rfl
@[simp] theorem State.modReq_phase (s : State) (id : Nat) (f : MxReq → MxReq) : (s.modReq id f).phase = s.phase := by
  unfold State.modReq; split <;> rfl
@[simp] theorem State.modReq_worked (s : State) (id : Nat) (f : MxReq → MxReq) : (s.modReq id f).worked = s.worked := by
  unfold State.modReq; split <;> rfl
@[simp] theorem State.modReq_clk (s : State) (id : Nat) (f : MxReq → MxReq) : (s.modReq id f).clk = s.clk := by
  unfold State.modReq; split <;> rfl
@[simp] theorem State.modReq_fresh (s : State) (id : Nat) (f : MxReq → MxReq) : (s.modReq id f).fresh = s.fresh := by
  unfold State.modReq; split <;> rfl
@[simp] theorem State.modReq_nextId (s : State) (id : Nat) (f : MxReq → MxReq) : (s.modReq id f).nextId = s.nextId := by
  unfold State.modReq; split <;> rfl
@[simp] theorem State.modReq_cur (s : State) (id : Nat) (f : MxReq → MxReq) : (s.modReq id f).cur = s.cur := by
  unfold State.modReq; split <;> rfl
@[simp] theorem State.modReq_others (s : State) (id : Nat) (f : MxReq → MxReq) : (s.modReq id f).others = s.others := by
  unfold State.modReq; split <;> rfl
@[simp] theorem State.modReq_teams (s : State) (id : Nat) (f : MxReq → MxReq) : (s.modReq id f).teams = s.teams := by
  unfold State.modReq; split <;> rfl
@[simp] theorem State.modReq_grids (s : State) (id : Nat) (f : MxReq → MxReq) : (s.modReq id f).grids = s.grids := by
  unfold State.modReq; split <;> rfl
@[simp] theorem State.modReq_cores (s : State) (id : Nat) (f : MxReq → MxReq) : (s.modReq id f).cores = s.cores := by
  unfold State.modReq; split <;> rfl
@[simp] theorem State.modReq_tlb2 (s : State) (id : Nat) (f : MxReq → MxReq) : (s.modReq id f).tlb2 = s.tlb2 := by
  unfold State.modReq; split <;> rfl
@[simp] theorem State.modReq_ops (s : State) (id : Nat) (f : MxReq → MxReq) : (s.modReq id f).ops = s.ops := by
  unfold State.modReq; split <;> rfl
@[simp] theorem State.modReq_writes (s : State) (id : Nat) (f : MxReq → MxReq) : (s.modReq id f).writes = s.writes := by
  unfold State.modReq; split <;> rfl
@[simp] theorem State.modReq_mem (s : State) (id : Nat) (f : MxReq → MxReq) : (s.modReq id f).mem = s.mem := by
  unfold State.modReq; split <;> rfl
@[simp] theorem State.modReq_errs (s : State) (id : Nat) (f : MxReq → MxReq) : (s.modReq id f).errs = s.errs := by
  unfold State.modReq; split <;> rfl
@[simp] theorem State.modReq_leases (s : State) (id : Nat) (f : MxReq → MxReq) : (s.modReq id f).leases = s.leases := by
  unfold State.modReq; split <;> rfl
@[simp] theorem State.modReq_lastV (s : State) (id : Nat) (f : MxReq → MxReq) : (s.modReq id f).lastV = s.lastV := by
  unfold State.modReq; split <;> rfl
@[simp] theorem State.modReq_olds (s : State) (id : Nat) (f : MxReq → MxReq) : (s.modReq id f).olds = s.olds := by
  unfold State.modReq; split <;> rfl
@[simp] theorem State.modReq_staged (s : State) (id : Nat) (f : MxReq → MxReq) : (s.modReq id f).staged = s.staged := by
  unfold State.modReq; split <;> rfl
@[simp] theorem State.modReq_outStores (s : State) (id : Nat) (f : MxReq → MxReq) : (s.modReq id f).outStores = s.outStores := by
  unfold State.modReq; split <;> rfl
@[simp] theorem State.modReq_atsPages (s : State) (id : Nat) (f : MxReq → MxReq) : (s.modReq id f).atsPages = s.atsPages := by
  unfold State.modReq; split <;> rfl
@[simp] theorem State.modReq_priReqs (s : State) (id : Nat) (f : MxReq → MxReq) : (s.modReq id f).priReqs = s.priReqs := by
  unfold State.modReq; split <;> rfl
@[simp] theorem State.modReq_priRefused (s : State) (id : Nat) (f : MxReq → MxReq) : (s.modReq id f).priRefused = s.priRefused := by
  unfold State.modReq; split <;> rfl
@[simp] theorem State.modReq_priEngines (s : State) (id : Nat) (f : MxReq → MxReq) : (s.modReq id f).priEngines = s.priEngines := by
  unfold State.modReq; split <;> rfl
@[simp] theorem State.modReq_twe (s : State) (id : Nat) (f : MxReq → MxReq) : (s.modReq id f).twe = s.twe := by
  unfold State.modReq; split <;> rfl
@[simp] theorem State.modReq_pubs (s : State) (id : Nat) (f : MxReq → MxReq) : (s.modReq id f).pubs = s.pubs := by
  unfold State.modReq; split <;> rfl
@[simp] theorem State.modReq_turns (s : State) (id : Nat) (f : MxReq → MxReq) : (s.modReq id f).turns = s.turns := by
  unfold State.modReq; split <;> rfl
@[simp] theorem State.modReq_pkts (s : State) (id : Nat) (f : MxReq → MxReq) : (s.modReq id f).pkts = s.pkts := by
  unfold State.modReq; split <;> rfl
@[simp] theorem State.modReq_parts (s : State) (id : Nat) (f : MxReq → MxReq) : (s.modReq id f).parts = s.parts := by
  unfold State.modReq; split <;> rfl
@[simp] theorem State.modReq_vdevs (s : State) (id : Nat) (f : MxReq → MxReq) : (s.modReq id f).vdevs = s.vdevs := by
  unfold State.modReq; split <;> rfl
@[simp] theorem State.modReq_ports (s : State) (id : Nat) (f : MxReq → MxReq) : (s.modReq id f).ports = s.ports := by
  unfold State.modReq; split <;> rfl
@[simp] theorem State.modReq_tokens (s : State) (id : Nat) (f : MxReq → MxReq) : (s.modReq id f).tokens = s.tokens := by
  unfold State.modReq; split <;> rfl
@[simp] theorem State.modReq_invals (s : State) (id : Nat) (f : MxReq → MxReq) : (s.modReq id f).invals = s.invals := by
  unfold State.modReq; split <;> rfl
@[simp] theorem State.modReq_hub (s : State) (id : Nat) (f : MxReq → MxReq) : (s.modReq id f).hub = s.hub := by
  unfold State.modReq; split <;> rfl
@[simp] theorem State.modReq_power (s : State) (id : Nat) (f : MxReq → MxReq) : (s.modReq id f).power = s.power := by
  unfold State.modReq; split <;> rfl
@[simp] theorem State.modReq_harvest (s : State) (id : Nat) (f : MxReq → MxReq) : (s.modReq id f).harvest = s.harvest := by
  unfold State.modReq; split <;> rfl
@[simp] theorem State.modReq_inputs (s : State) (id : Nat) (f : MxReq → MxReq) : (s.modReq id f).inputs = s.inputs := by
  unfold State.modReq; split <;> rfl

/-! `Group.writeS`. -/

@[simp] theorem Group.writeS_gid (g : Group) (n : BitVec 6) (v : Word64) : (g.writeS n v).gid = g.gid := by
  unfold Group.writeS; split <;> rfl
@[simp] theorem Group.writeS_live (g : Group) (n : BitVec 6) (v : Word64) : (g.writeS n v).live = g.live := by
  unfold Group.writeS; split <;> rfl
@[simp] theorem Group.writeS_team (g : Group) (n : BitVec 6) (v : Word64) : (g.writeS n v).team = g.team := by
  unfold Group.writeS; split <;> rfl
@[simp] theorem Group.writeS_grid (g : Group) (n : BitVec 6) (v : Word64) : (g.writeS n v).grid = g.grid := by
  unfold Group.writeS; split <;> rfl
@[simp] theorem Group.writeS_vf (g : Group) (n : BitVec 6) (v : Word64) : (g.writeS n v).vf = g.vf := by
  unfold Group.writeS; split <;> rfl
@[simp] theorem Group.writeS_core (g : Group) (n : BitVec 6) (v : Word64) : (g.writeS n v).core = g.core := by
  unfold Group.writeS; split <;> rfl
@[simp] theorem Group.writeS_slot (g : Group) (n : BitVec 6) (v : Word64) : (g.writeS n v).slot = g.slot := by
  unfold Group.writeS; split <;> rfl
@[simp] theorem Group.writeS_gidx (g : Group) (n : BitVec 6) (v : Word64) : (g.writeS n v).gidx = g.gidx := by
  unfold Group.writeS; split <;> rfl
@[simp] theorem Group.writeS_role (g : Group) (n : BitVec 6) (v : Word64) : (g.writeS n v).role = g.role := by
  unfold Group.writeS; split <;> rfl
@[simp] theorem Group.writeS_width (g : Group) (n : BitVec 6) (v : Word64) : (g.writeS n v).width = g.width := by
  unfold Group.writeS; split <;> rfl
@[simp] theorem Group.writeS_alloc (g : Group) (n : BitVec 6) (v : Word64) : (g.writeS n v).alloc = g.alloc := by
  unfold Group.writeS; split <;> rfl
@[simp] theorem Group.writeS_s (g : Group) (n : BitVec 6) (v : Word64) : (g.writeS n v).s = if n = 0 then g.s else sset g.s 0 n.toNat v := by
  unfold Group.writeS; split <;> rfl
@[simp] theorem Group.writeS_k (g : Group) (n : BitVec 6) (v : Word64) : (g.writeS n v).k = g.k := by
  unfold Group.writeS; split <;> rfl
@[simp] theorem Group.writeS_kc (g : Group) (n : BitVec 6) (v : Word64) : (g.writeS n v).kc = g.kc := by
  unfold Group.writeS; split <;> rfl
@[simp] theorem Group.writeS_klog (g : Group) (n : BitVec 6) (v : Word64) : (g.writeS n v).klog = g.klog := by
  unfold Group.writeS; split <;> rfl
@[simp] theorem Group.writeS_pc (g : Group) (n : BitVec 6) (v : Word64) : (g.writeS n v).pc = g.pc := by
  unfold Group.writeS; split <;> rfl
@[simp] theorem Group.writeS_gctl (g : Group) (n : BitVec 6) (v : Word64) : (g.writeS n v).gctl = g.gctl := by
  unfold Group.writeS; split <;> rfl
@[simp] theorem Group.writeS_gstat (g : Group) (n : BitVec 6) (v : Word64) : (g.writeS n v).gstat = g.gstat := by
  unfold Group.writeS; split <;> rfl
@[simp] theorem Group.writeS_febound (g : Group) (n : BitVec 6) (v : Word64) : (g.writeS n v).febound = g.febound := by
  unfold Group.writeS; split <;> rfl
@[simp] theorem Group.writeS_lease (g : Group) (n : BitVec 6) (v : Word64) : (g.writeS n v).lease = g.lease := by
  unfold Group.writeS; split <;> rfl
@[simp] theorem Group.writeS_acqfloor (g : Group) (n : BitVec 6) (v : Word64) : (g.writeS n v).acqfloor = g.acqfloor := by
  unfold Group.writeS; split <;> rfl
@[simp] theorem Group.writeS_lcb (g : Group) (n : BitVec 6) (v : Word64) : (g.writeS n v).lcb = g.lcb := by
  unfold Group.writeS; split <;> rfl
@[simp] theorem Group.writeS_scb (g : Group) (n : BitVec 6) (v : Word64) : (g.writeS n v).scb = g.scb := by
  unfold Group.writeS; split <;> rfl
@[simp] theorem Group.writeS_swords (g : Group) (n : BitVec 6) (v : Word64) : (g.writeS n v).swords = g.swords := by
  unfold Group.writeS; split <;> rfl
@[simp] theorem Group.writeS_lwords (g : Group) (n : BitVec 6) (v : Word64) : (g.writeS n v).lwords = g.lwords := by
  unfold Group.writeS; split <;> rfl
@[simp] theorem Group.writeS_v (g : Group) (n : BitVec 6) (v : Word64) : (g.writeS n v).v = g.v := by
  unfold Group.writeS; split <;> rfl
@[simp] theorem Group.writeS_orf (g : Group) (n : BitVec 6) (v : Word64) : (g.writeS n v).orf = g.orf := by
  unfold Group.writeS; split <;> rfl
@[simp] theorem Group.writeS_lrf (g : Group) (n : BitVec 6) (v : Word64) : (g.writeS n v).lrf = g.lrf := by
  unfold Group.writeS; split <;> rfl
@[simp] theorem Group.writeS_late (g : Group) (n : BitVec 6) (v : Word64) : (g.writeS n v).late = g.late := by
  unfold Group.writeS; split <;> rfl
@[simp] theorem Group.writeS_lstat (g : Group) (n : BitVec 6) (v : Word64) : (g.writeS n v).lstat = g.lstat := by
  unfold Group.writeS; split <;> rfl
@[simp] theorem Group.writeS_proms (g : Group) (n : BitVec 6) (v : Word64) : (g.writeS n v).proms = g.proms := by
  unfold Group.writeS; split <;> rfl
@[simp] theorem Group.writeS_queue (g : Group) (n : BitVec 6) (v : Word64) : (g.writeS n v).queue = g.queue := by
  unfold Group.writeS; split <;> rfl
@[simp] theorem Group.writeS_runs (g : Group) (n : BitVec 6) (v : Word64) : (g.writeS n v).runs = g.runs := by
  unfold Group.writeS; split <;> rfl
@[simp] theorem Group.writeS_out (g : Group) (n : BitVec 6) (v : Word64) : (g.writeS n v).out = g.out := by
  unfold Group.writeS; split <;> rfl
@[simp] theorem Group.writeS_hd (g : Group) (n : BitVec 6) (v : Word64) : (g.writeS n v).hd = g.hd := by
  unfold Group.writeS; split <;> rfl
@[simp] theorem Group.writeS_hs (g : Group) (n : BitVec 6) (v : Word64) : (g.writeS n v).hs = g.hs := by
  unfold Group.writeS; split <;> rfl
@[simp] theorem Group.writeS_h1 (g : Group) (n : BitVec 6) (v : Word64) : (g.writeS n v).h1 = g.h1 := by
  unfold Group.writeS; split <;> rfl
@[simp] theorem Group.writeS_h2 (g : Group) (n : BitVec 6) (v : Word64) : (g.writeS n v).h2 = g.h2 := by
  unfold Group.writeS; split <;> rfl
@[simp] theorem Group.writeS_h3 (g : Group) (n : BitVec 6) (v : Word64) : (g.writeS n v).h3 = g.h3 := by
  unfold Group.writeS; split <;> rfl
@[simp] theorem Group.writeS_stamp0 (g : Group) (n : BitVec 6) (v : Word64) : (g.writeS n v).stamp0 = g.stamp0 := by
  unfold Group.writeS; split <;> rfl
@[simp] theorem Group.writeS_stamp1 (g : Group) (n : BitVec 6) (v : Word64) : (g.writeS n v).stamp1 = g.stamp1 := by
  unfold Group.writeS; split <;> rfl
@[simp] theorem Group.writeS_stamp2 (g : Group) (n : BitVec 6) (v : Word64) : (g.writeS n v).stamp2 = g.stamp2 := by
  unfold Group.writeS; split <;> rfl
@[simp] theorem Group.writeS_stamp3 (g : Group) (n : BitVec 6) (v : Word64) : (g.writeS n v).stamp3 = g.stamp3 := by
  unfold Group.writeS; split <;> rfl
@[simp] theorem Group.writeS_stall (g : Group) (n : BitVec 6) (v : Word64) : (g.writeS n v).stall = g.stall := by
  unfold Group.writeS; split <;> rfl
@[simp] theorem Group.writeS_sready (g : Group) (n : BitVec 6) (v : Word64) : (g.writeS n v).sready = g.sready := by
  unfold Group.writeS; split <;> rfl
@[simp] theorem Group.writeS_sboard (g : Group) (n : BitVec 6) (v : Word64) : (g.writeS n v).sboard = g.sboard := by
  unfold Group.writeS; split <;> rfl
@[simp] theorem Group.writeS_fault (g : Group) (n : BitVec 6) (v : Word64) : (g.writeS n v).fault = g.fault := by
  unfold Group.writeS; split <;> rfl
@[simp] theorem Group.writeS_heldFaults (g : Group) (n : BitVec 6) (v : Word64) : (g.writeS n v).heldFaults = g.heldFaults := by
  unfold Group.writeS; split <;> rfl
@[simp] theorem Group.writeS_preempt (g : Group) (n : BitVec 6) (v : Word64) : (g.writeS n v).preempt = g.preempt := by
  unfold Group.writeS; split <;> rfl
@[simp] theorem Group.writeS_nextStart (g : Group) (n : BitVec 6) (v : Word64) : (g.writeS n v).nextStart = g.nextStart := by
  unfold Group.writeS; split <;> rfl
@[simp] theorem Group.writeS_seqNext (g : Group) (n : BitVec 6) (v : Word64) : (g.writeS n v).seqNext = g.seqNext := by
  unfold Group.writeS; split <;> rfl
@[simp] theorem Group.writeS_pos (g : Group) (n : BitVec 6) (v : Word64) : (g.writeS n v).pos = g.pos := by
  unfold Group.writeS; split <;> rfl
@[simp] theorem Group.writeS_task (g : Group) (n : BitVec 6) (v : Word64) : (g.writeS n v).task = g.task := by
  unfold Group.writeS; split <;> rfl
@[simp] theorem Group.writeS_stretch (g : Group) (n : BitVec 6) (v : Word64) : (g.writeS n v).stretch = g.stretch := by
  unfold Group.writeS; split <;> rfl
@[simp] theorem Group.writeS_steals (g : Group) (n : BitVec 6) (v : Word64) : (g.writeS n v).steals = g.steals := by
  unfold Group.writeS; split <;> rfl
@[simp] theorem Group.writeS_launch (g : Group) (n : BitVec 6) (v : Word64) : (g.writeS n v).launch = g.launch := by
  unfold Group.writeS; split <;> rfl
@[simp] theorem Group.writeS_detPend (g : Group) (n : BitVec 6) (v : Word64) : (g.writeS n v).detPend = g.detPend := by
  unfold Group.writeS; split <;> rfl
@[simp] theorem Group.writeS_abandoned (g : Group) (n : BitVec 6) (v : Word64) : (g.writeS n v).abandoned = g.abandoned := by
  unfold Group.writeS; split <;> rfl

/-! `Group.writeK`. -/

@[simp] theorem Group.writeK_gid (g : Group) (n : BitVec 4) (v : Word64) : (g.writeK n v).gid = g.gid := rfl
@[simp] theorem Group.writeK_live (g : Group) (n : BitVec 4) (v : Word64) : (g.writeK n v).live = g.live := rfl
@[simp] theorem Group.writeK_team (g : Group) (n : BitVec 4) (v : Word64) : (g.writeK n v).team = g.team := rfl
@[simp] theorem Group.writeK_grid (g : Group) (n : BitVec 4) (v : Word64) : (g.writeK n v).grid = g.grid := rfl
@[simp] theorem Group.writeK_vf (g : Group) (n : BitVec 4) (v : Word64) : (g.writeK n v).vf = g.vf := rfl
@[simp] theorem Group.writeK_core (g : Group) (n : BitVec 4) (v : Word64) : (g.writeK n v).core = g.core := rfl
@[simp] theorem Group.writeK_slot (g : Group) (n : BitVec 4) (v : Word64) : (g.writeK n v).slot = g.slot := rfl
@[simp] theorem Group.writeK_gidx (g : Group) (n : BitVec 4) (v : Word64) : (g.writeK n v).gidx = g.gidx := rfl
@[simp] theorem Group.writeK_role (g : Group) (n : BitVec 4) (v : Word64) : (g.writeK n v).role = g.role := rfl
@[simp] theorem Group.writeK_width (g : Group) (n : BitVec 4) (v : Word64) : (g.writeK n v).width = g.width := rfl
@[simp] theorem Group.writeK_alloc (g : Group) (n : BitVec 4) (v : Word64) : (g.writeK n v).alloc = g.alloc := rfl
@[simp] theorem Group.writeK_s (g : Group) (n : BitVec 4) (v : Word64) : (g.writeK n v).s = g.s := rfl
@[simp] theorem Group.writeK_k (g : Group) (n : BitVec 4) (v : Word64) : (g.writeK n v).k = sset g.k 0 n.toNat v := rfl
@[simp] theorem Group.writeK_kc (g : Group) (n : BitVec 4) (v : Word64) : (g.writeK n v).kc = sset g.kc 0 n.toNat v := rfl
@[simp] theorem Group.writeK_klog (g : Group) (n : BitVec 4) (v : Word64) : (g.writeK n v).klog = g.klog := rfl
@[simp] theorem Group.writeK_pc (g : Group) (n : BitVec 4) (v : Word64) : (g.writeK n v).pc = g.pc := rfl
@[simp] theorem Group.writeK_gctl (g : Group) (n : BitVec 4) (v : Word64) : (g.writeK n v).gctl = g.gctl := rfl
@[simp] theorem Group.writeK_gstat (g : Group) (n : BitVec 4) (v : Word64) : (g.writeK n v).gstat = g.gstat := rfl
@[simp] theorem Group.writeK_febound (g : Group) (n : BitVec 4) (v : Word64) : (g.writeK n v).febound = g.febound := rfl
@[simp] theorem Group.writeK_lease (g : Group) (n : BitVec 4) (v : Word64) : (g.writeK n v).lease = g.lease := rfl
@[simp] theorem Group.writeK_acqfloor (g : Group) (n : BitVec 4) (v : Word64) : (g.writeK n v).acqfloor = g.acqfloor := rfl
@[simp] theorem Group.writeK_lcb (g : Group) (n : BitVec 4) (v : Word64) : (g.writeK n v).lcb = g.lcb := rfl
@[simp] theorem Group.writeK_scb (g : Group) (n : BitVec 4) (v : Word64) : (g.writeK n v).scb = g.scb := rfl
@[simp] theorem Group.writeK_swords (g : Group) (n : BitVec 4) (v : Word64) : (g.writeK n v).swords = g.swords := rfl
@[simp] theorem Group.writeK_lwords (g : Group) (n : BitVec 4) (v : Word64) : (g.writeK n v).lwords = g.lwords := rfl
@[simp] theorem Group.writeK_v (g : Group) (n : BitVec 4) (v : Word64) : (g.writeK n v).v = g.v := rfl
@[simp] theorem Group.writeK_orf (g : Group) (n : BitVec 4) (v : Word64) : (g.writeK n v).orf = g.orf := rfl
@[simp] theorem Group.writeK_lrf (g : Group) (n : BitVec 4) (v : Word64) : (g.writeK n v).lrf = g.lrf := rfl
@[simp] theorem Group.writeK_late (g : Group) (n : BitVec 4) (v : Word64) : (g.writeK n v).late = g.late := rfl
@[simp] theorem Group.writeK_lstat (g : Group) (n : BitVec 4) (v : Word64) : (g.writeK n v).lstat = g.lstat := rfl
@[simp] theorem Group.writeK_proms (g : Group) (n : BitVec 4) (v : Word64) : (g.writeK n v).proms = g.proms := rfl
@[simp] theorem Group.writeK_queue (g : Group) (n : BitVec 4) (v : Word64) : (g.writeK n v).queue = g.queue := rfl
@[simp] theorem Group.writeK_runs (g : Group) (n : BitVec 4) (v : Word64) : (g.writeK n v).runs = g.runs := rfl
@[simp] theorem Group.writeK_out (g : Group) (n : BitVec 4) (v : Word64) : (g.writeK n v).out = g.out := rfl
@[simp] theorem Group.writeK_hd (g : Group) (n : BitVec 4) (v : Word64) : (g.writeK n v).hd = g.hd := rfl
@[simp] theorem Group.writeK_hs (g : Group) (n : BitVec 4) (v : Word64) : (g.writeK n v).hs = g.hs := rfl
@[simp] theorem Group.writeK_h1 (g : Group) (n : BitVec 4) (v : Word64) : (g.writeK n v).h1 = g.h1 := rfl
@[simp] theorem Group.writeK_h2 (g : Group) (n : BitVec 4) (v : Word64) : (g.writeK n v).h2 = g.h2 := rfl
@[simp] theorem Group.writeK_h3 (g : Group) (n : BitVec 4) (v : Word64) : (g.writeK n v).h3 = g.h3 := rfl
@[simp] theorem Group.writeK_stamp0 (g : Group) (n : BitVec 4) (v : Word64) : (g.writeK n v).stamp0 = g.stamp0 := rfl
@[simp] theorem Group.writeK_stamp1 (g : Group) (n : BitVec 4) (v : Word64) : (g.writeK n v).stamp1 = g.stamp1 := rfl
@[simp] theorem Group.writeK_stamp2 (g : Group) (n : BitVec 4) (v : Word64) : (g.writeK n v).stamp2 = g.stamp2 := rfl
@[simp] theorem Group.writeK_stamp3 (g : Group) (n : BitVec 4) (v : Word64) : (g.writeK n v).stamp3 = g.stamp3 := rfl
@[simp] theorem Group.writeK_stall (g : Group) (n : BitVec 4) (v : Word64) : (g.writeK n v).stall = g.stall := rfl
@[simp] theorem Group.writeK_sready (g : Group) (n : BitVec 4) (v : Word64) : (g.writeK n v).sready = g.sready := rfl
@[simp] theorem Group.writeK_sboard (g : Group) (n : BitVec 4) (v : Word64) : (g.writeK n v).sboard = g.sboard := rfl
@[simp] theorem Group.writeK_fault (g : Group) (n : BitVec 4) (v : Word64) : (g.writeK n v).fault = g.fault := rfl
@[simp] theorem Group.writeK_heldFaults (g : Group) (n : BitVec 4) (v : Word64) : (g.writeK n v).heldFaults = g.heldFaults := rfl
@[simp] theorem Group.writeK_preempt (g : Group) (n : BitVec 4) (v : Word64) : (g.writeK n v).preempt = g.preempt := rfl
@[simp] theorem Group.writeK_nextStart (g : Group) (n : BitVec 4) (v : Word64) : (g.writeK n v).nextStart = g.nextStart := rfl
@[simp] theorem Group.writeK_seqNext (g : Group) (n : BitVec 4) (v : Word64) : (g.writeK n v).seqNext = g.seqNext := rfl
@[simp] theorem Group.writeK_pos (g : Group) (n : BitVec 4) (v : Word64) : (g.writeK n v).pos = g.pos := rfl
@[simp] theorem Group.writeK_task (g : Group) (n : BitVec 4) (v : Word64) : (g.writeK n v).task = g.task := rfl
@[simp] theorem Group.writeK_stretch (g : Group) (n : BitVec 4) (v : Word64) : (g.writeK n v).stretch = g.stretch := rfl
@[simp] theorem Group.writeK_steals (g : Group) (n : BitVec 4) (v : Word64) : (g.writeK n v).steals = g.steals := rfl
@[simp] theorem Group.writeK_launch (g : Group) (n : BitVec 4) (v : Word64) : (g.writeK n v).launch = g.launch := rfl
@[simp] theorem Group.writeK_detPend (g : Group) (n : BitVec 4) (v : Word64) : (g.writeK n v).detPend = g.detPend := rfl
@[simp] theorem Group.writeK_abandoned (g : Group) (n : BitVec 4) (v : Word64) : (g.writeK n v).abandoned = g.abandoned := rfl

/-! `Group.advance`. -/

@[simp] theorem Group.advance_gid (g : Group) : (g.advance).gid = g.gid := rfl
@[simp] theorem Group.advance_live (g : Group) : (g.advance).live = g.live := rfl
@[simp] theorem Group.advance_team (g : Group) : (g.advance).team = g.team := rfl
@[simp] theorem Group.advance_grid (g : Group) : (g.advance).grid = g.grid := rfl
@[simp] theorem Group.advance_vf (g : Group) : (g.advance).vf = g.vf := rfl
@[simp] theorem Group.advance_core (g : Group) : (g.advance).core = g.core := rfl
@[simp] theorem Group.advance_slot (g : Group) : (g.advance).slot = g.slot := rfl
@[simp] theorem Group.advance_gidx (g : Group) : (g.advance).gidx = g.gidx := rfl
@[simp] theorem Group.advance_role (g : Group) : (g.advance).role = g.role := rfl
@[simp] theorem Group.advance_width (g : Group) : (g.advance).width = g.width := rfl
@[simp] theorem Group.advance_alloc (g : Group) : (g.advance).alloc = g.alloc := rfl
@[simp] theorem Group.advance_s (g : Group) : (g.advance).s = g.s := rfl
@[simp] theorem Group.advance_k (g : Group) : (g.advance).k = g.k := rfl
@[simp] theorem Group.advance_kc (g : Group) : (g.advance).kc = g.kc := rfl
@[simp] theorem Group.advance_klog (g : Group) : (g.advance).klog = g.klog := rfl
@[simp] theorem Group.advance_pc (g : Group) : (g.advance).pc = g.pc + 1 := rfl
@[simp] theorem Group.advance_gctl (g : Group) : (g.advance).gctl = g.gctl := rfl
@[simp] theorem Group.advance_gstat (g : Group) : (g.advance).gstat = g.gstat := rfl
@[simp] theorem Group.advance_febound (g : Group) : (g.advance).febound = g.febound := rfl
@[simp] theorem Group.advance_lease (g : Group) : (g.advance).lease = g.lease := rfl
@[simp] theorem Group.advance_acqfloor (g : Group) : (g.advance).acqfloor = g.acqfloor := rfl
@[simp] theorem Group.advance_lcb (g : Group) : (g.advance).lcb = g.lcb := rfl
@[simp] theorem Group.advance_scb (g : Group) : (g.advance).scb = g.scb := rfl
@[simp] theorem Group.advance_swords (g : Group) : (g.advance).swords = g.swords := rfl
@[simp] theorem Group.advance_lwords (g : Group) : (g.advance).lwords = g.lwords := rfl
@[simp] theorem Group.advance_v (g : Group) : (g.advance).v = g.v := rfl
@[simp] theorem Group.advance_orf (g : Group) : (g.advance).orf = g.orf := rfl
@[simp] theorem Group.advance_lrf (g : Group) : (g.advance).lrf = g.lrf := rfl
@[simp] theorem Group.advance_late (g : Group) : (g.advance).late = g.late := rfl
@[simp] theorem Group.advance_lstat (g : Group) : (g.advance).lstat = g.lstat := rfl
@[simp] theorem Group.advance_proms (g : Group) : (g.advance).proms = g.proms := rfl
@[simp] theorem Group.advance_queue (g : Group) : (g.advance).queue = g.queue := rfl
@[simp] theorem Group.advance_runs (g : Group) : (g.advance).runs = g.runs := rfl
@[simp] theorem Group.advance_out (g : Group) : (g.advance).out = g.out := rfl
@[simp] theorem Group.advance_hd (g : Group) : (g.advance).hd = g.hd := rfl
@[simp] theorem Group.advance_hs (g : Group) : (g.advance).hs = g.hs := rfl
@[simp] theorem Group.advance_h1 (g : Group) : (g.advance).h1 = g.h1 := rfl
@[simp] theorem Group.advance_h2 (g : Group) : (g.advance).h2 = g.h2 := rfl
@[simp] theorem Group.advance_h3 (g : Group) : (g.advance).h3 = g.h3 := rfl
@[simp] theorem Group.advance_stamp0 (g : Group) : (g.advance).stamp0 = g.stamp0 := rfl
@[simp] theorem Group.advance_stamp1 (g : Group) : (g.advance).stamp1 = g.stamp1 := rfl
@[simp] theorem Group.advance_stamp2 (g : Group) : (g.advance).stamp2 = g.stamp2 := rfl
@[simp] theorem Group.advance_stamp3 (g : Group) : (g.advance).stamp3 = g.stamp3 := rfl
@[simp] theorem Group.advance_stall (g : Group) : (g.advance).stall = g.stall := rfl
@[simp] theorem Group.advance_sready (g : Group) : (g.advance).sready = g.sready := rfl
@[simp] theorem Group.advance_sboard (g : Group) : (g.advance).sboard = g.sboard := rfl
@[simp] theorem Group.advance_fault (g : Group) : (g.advance).fault = g.fault := rfl
@[simp] theorem Group.advance_heldFaults (g : Group) : (g.advance).heldFaults = g.heldFaults := rfl
@[simp] theorem Group.advance_preempt (g : Group) : (g.advance).preempt = g.preempt := rfl
@[simp] theorem Group.advance_nextStart (g : Group) : (g.advance).nextStart = g.nextStart := rfl
@[simp] theorem Group.advance_seqNext (g : Group) : (g.advance).seqNext = g.seqNext := rfl
@[simp] theorem Group.advance_pos (g : Group) : (g.advance).pos = g.pos := rfl
@[simp] theorem Group.advance_task (g : Group) : (g.advance).task = g.task := rfl
@[simp] theorem Group.advance_stretch (g : Group) : (g.advance).stretch = g.stretch := rfl
@[simp] theorem Group.advance_steals (g : Group) : (g.advance).steals = g.steals := rfl
@[simp] theorem Group.advance_launch (g : Group) : (g.advance).launch = g.launch := rfl
@[simp] theorem Group.advance_detPend (g : Group) : (g.advance).detPend = g.detPend := rfl
@[simp] theorem Group.advance_abandoned (g : Group) : (g.advance).abandoned = g.abandoned := rfl

/-! `Group.next`. -/

@[simp] theorem Group.next_gid (g : Group) (cycle : Nat) : (g.next cycle).gid = g.gid := rfl
@[simp] theorem Group.next_live (g : Group) (cycle : Nat) : (g.next cycle).live = g.live := rfl
@[simp] theorem Group.next_team (g : Group) (cycle : Nat) : (g.next cycle).team = g.team := rfl
@[simp] theorem Group.next_grid (g : Group) (cycle : Nat) : (g.next cycle).grid = g.grid := rfl
@[simp] theorem Group.next_vf (g : Group) (cycle : Nat) : (g.next cycle).vf = g.vf := rfl
@[simp] theorem Group.next_core (g : Group) (cycle : Nat) : (g.next cycle).core = g.core := rfl
@[simp] theorem Group.next_slot (g : Group) (cycle : Nat) : (g.next cycle).slot = g.slot := rfl
@[simp] theorem Group.next_gidx (g : Group) (cycle : Nat) : (g.next cycle).gidx = g.gidx := rfl
@[simp] theorem Group.next_role (g : Group) (cycle : Nat) : (g.next cycle).role = g.role := rfl
@[simp] theorem Group.next_width (g : Group) (cycle : Nat) : (g.next cycle).width = g.width := rfl
@[simp] theorem Group.next_alloc (g : Group) (cycle : Nat) : (g.next cycle).alloc = g.alloc := rfl
@[simp] theorem Group.next_s (g : Group) (cycle : Nat) : (g.next cycle).s = g.s := rfl
@[simp] theorem Group.next_k (g : Group) (cycle : Nat) : (g.next cycle).k = g.k := rfl
@[simp] theorem Group.next_kc (g : Group) (cycle : Nat) : (g.next cycle).kc = g.kc := rfl
@[simp] theorem Group.next_klog (g : Group) (cycle : Nat) : (g.next cycle).klog = g.klog := rfl
@[simp] theorem Group.next_pc (g : Group) (cycle : Nat) : (g.next cycle).pc = g.pc + 1 := rfl
@[simp] theorem Group.next_gctl (g : Group) (cycle : Nat) : (g.next cycle).gctl = g.gctl := rfl
@[simp] theorem Group.next_gstat (g : Group) (cycle : Nat) : (g.next cycle).gstat = g.gstat := rfl
@[simp] theorem Group.next_febound (g : Group) (cycle : Nat) : (g.next cycle).febound = g.febound := rfl
@[simp] theorem Group.next_lease (g : Group) (cycle : Nat) : (g.next cycle).lease = g.lease := rfl
@[simp] theorem Group.next_acqfloor (g : Group) (cycle : Nat) : (g.next cycle).acqfloor = g.acqfloor := rfl
@[simp] theorem Group.next_lcb (g : Group) (cycle : Nat) : (g.next cycle).lcb = g.lcb := rfl
@[simp] theorem Group.next_scb (g : Group) (cycle : Nat) : (g.next cycle).scb = g.scb := rfl
@[simp] theorem Group.next_swords (g : Group) (cycle : Nat) : (g.next cycle).swords = g.swords := rfl
@[simp] theorem Group.next_lwords (g : Group) (cycle : Nat) : (g.next cycle).lwords = g.lwords := rfl
@[simp] theorem Group.next_v (g : Group) (cycle : Nat) : (g.next cycle).v = g.v := rfl
@[simp] theorem Group.next_orf (g : Group) (cycle : Nat) : (g.next cycle).orf = g.orf := rfl
@[simp] theorem Group.next_lrf (g : Group) (cycle : Nat) : (g.next cycle).lrf = g.lrf := rfl
@[simp] theorem Group.next_late (g : Group) (cycle : Nat) : (g.next cycle).late = g.late := rfl
@[simp] theorem Group.next_lstat (g : Group) (cycle : Nat) : (g.next cycle).lstat = g.lstat := rfl
@[simp] theorem Group.next_proms (g : Group) (cycle : Nat) : (g.next cycle).proms = g.proms := rfl
@[simp] theorem Group.next_queue (g : Group) (cycle : Nat) : (g.next cycle).queue = g.queue := rfl
@[simp] theorem Group.next_runs (g : Group) (cycle : Nat) : (g.next cycle).runs = g.runs := rfl
@[simp] theorem Group.next_out (g : Group) (cycle : Nat) : (g.next cycle).out = g.out := rfl
@[simp] theorem Group.next_hd (g : Group) (cycle : Nat) : (g.next cycle).hd = g.hd := rfl
@[simp] theorem Group.next_hs (g : Group) (cycle : Nat) : (g.next cycle).hs = g.hs := rfl
@[simp] theorem Group.next_h1 (g : Group) (cycle : Nat) : (g.next cycle).h1 = g.h1 := rfl
@[simp] theorem Group.next_h2 (g : Group) (cycle : Nat) : (g.next cycle).h2 = g.h2 := rfl
@[simp] theorem Group.next_h3 (g : Group) (cycle : Nat) : (g.next cycle).h3 = g.h3 := rfl
@[simp] theorem Group.next_stamp0 (g : Group) (cycle : Nat) : (g.next cycle).stamp0 = g.stamp0 := rfl
@[simp] theorem Group.next_stamp1 (g : Group) (cycle : Nat) : (g.next cycle).stamp1 = g.stamp1 := rfl
@[simp] theorem Group.next_stamp2 (g : Group) (cycle : Nat) : (g.next cycle).stamp2 = g.stamp2 := rfl
@[simp] theorem Group.next_stamp3 (g : Group) (cycle : Nat) : (g.next cycle).stamp3 = g.stamp3 := rfl
@[simp] theorem Group.next_stall (g : Group) (cycle : Nat) : (g.next cycle).stall = g.stall := rfl
@[simp] theorem Group.next_sready (g : Group) (cycle : Nat) : (g.next cycle).sready = cycle + 1 := rfl
@[simp] theorem Group.next_sboard (g : Group) (cycle : Nat) : (g.next cycle).sboard = g.sboard := rfl
@[simp] theorem Group.next_fault (g : Group) (cycle : Nat) : (g.next cycle).fault = g.fault := rfl
@[simp] theorem Group.next_heldFaults (g : Group) (cycle : Nat) : (g.next cycle).heldFaults = g.heldFaults := rfl
@[simp] theorem Group.next_preempt (g : Group) (cycle : Nat) : (g.next cycle).preempt = g.preempt := rfl
@[simp] theorem Group.next_nextStart (g : Group) (cycle : Nat) : (g.next cycle).nextStart = g.nextStart := rfl
@[simp] theorem Group.next_seqNext (g : Group) (cycle : Nat) : (g.next cycle).seqNext = g.seqNext := rfl
@[simp] theorem Group.next_pos (g : Group) (cycle : Nat) : (g.next cycle).pos = g.pos := rfl
@[simp] theorem Group.next_task (g : Group) (cycle : Nat) : (g.next cycle).task = g.task := rfl
@[simp] theorem Group.next_stretch (g : Group) (cycle : Nat) : (g.next cycle).stretch = g.stretch := rfl
@[simp] theorem Group.next_steals (g : Group) (cycle : Nat) : (g.next cycle).steals = g.steals := rfl
@[simp] theorem Group.next_launch (g : Group) (cycle : Nat) : (g.next cycle).launch = g.launch := rfl
@[simp] theorem Group.next_detPend (g : Group) (cycle : Nat) : (g.next cycle).detPend = g.detPend := rfl
@[simp] theorem Group.next_abandoned (g : Group) (cycle : Nat) : (g.next cycle).abandoned = g.abandoned := rfl

/-! `Group.later`. -/

@[simp] theorem Group.later_gid (g : Group) (cycle : Nat) : (g.later cycle).gid = g.gid := rfl
@[simp] theorem Group.later_live (g : Group) (cycle : Nat) : (g.later cycle).live = g.live := rfl
@[simp] theorem Group.later_team (g : Group) (cycle : Nat) : (g.later cycle).team = g.team := rfl
@[simp] theorem Group.later_grid (g : Group) (cycle : Nat) : (g.later cycle).grid = g.grid := rfl
@[simp] theorem Group.later_vf (g : Group) (cycle : Nat) : (g.later cycle).vf = g.vf := rfl
@[simp] theorem Group.later_core (g : Group) (cycle : Nat) : (g.later cycle).core = g.core := rfl
@[simp] theorem Group.later_slot (g : Group) (cycle : Nat) : (g.later cycle).slot = g.slot := rfl
@[simp] theorem Group.later_gidx (g : Group) (cycle : Nat) : (g.later cycle).gidx = g.gidx := rfl
@[simp] theorem Group.later_role (g : Group) (cycle : Nat) : (g.later cycle).role = g.role := rfl
@[simp] theorem Group.later_width (g : Group) (cycle : Nat) : (g.later cycle).width = g.width := rfl
@[simp] theorem Group.later_alloc (g : Group) (cycle : Nat) : (g.later cycle).alloc = g.alloc := rfl
@[simp] theorem Group.later_s (g : Group) (cycle : Nat) : (g.later cycle).s = g.s := rfl
@[simp] theorem Group.later_k (g : Group) (cycle : Nat) : (g.later cycle).k = g.k := rfl
@[simp] theorem Group.later_kc (g : Group) (cycle : Nat) : (g.later cycle).kc = g.kc := rfl
@[simp] theorem Group.later_klog (g : Group) (cycle : Nat) : (g.later cycle).klog = g.klog := rfl
@[simp] theorem Group.later_pc (g : Group) (cycle : Nat) : (g.later cycle).pc = g.pc := rfl
@[simp] theorem Group.later_gctl (g : Group) (cycle : Nat) : (g.later cycle).gctl = g.gctl := rfl
@[simp] theorem Group.later_gstat (g : Group) (cycle : Nat) : (g.later cycle).gstat = g.gstat := rfl
@[simp] theorem Group.later_febound (g : Group) (cycle : Nat) : (g.later cycle).febound = g.febound := rfl
@[simp] theorem Group.later_lease (g : Group) (cycle : Nat) : (g.later cycle).lease = g.lease := rfl
@[simp] theorem Group.later_acqfloor (g : Group) (cycle : Nat) : (g.later cycle).acqfloor = g.acqfloor := rfl
@[simp] theorem Group.later_lcb (g : Group) (cycle : Nat) : (g.later cycle).lcb = g.lcb := rfl
@[simp] theorem Group.later_scb (g : Group) (cycle : Nat) : (g.later cycle).scb = g.scb := rfl
@[simp] theorem Group.later_swords (g : Group) (cycle : Nat) : (g.later cycle).swords = g.swords := rfl
@[simp] theorem Group.later_lwords (g : Group) (cycle : Nat) : (g.later cycle).lwords = g.lwords := rfl
@[simp] theorem Group.later_v (g : Group) (cycle : Nat) : (g.later cycle).v = g.v := rfl
@[simp] theorem Group.later_orf (g : Group) (cycle : Nat) : (g.later cycle).orf = g.orf := rfl
@[simp] theorem Group.later_lrf (g : Group) (cycle : Nat) : (g.later cycle).lrf = g.lrf := rfl
@[simp] theorem Group.later_late (g : Group) (cycle : Nat) : (g.later cycle).late = g.late := rfl
@[simp] theorem Group.later_lstat (g : Group) (cycle : Nat) : (g.later cycle).lstat = g.lstat := rfl
@[simp] theorem Group.later_proms (g : Group) (cycle : Nat) : (g.later cycle).proms = g.proms := rfl
@[simp] theorem Group.later_queue (g : Group) (cycle : Nat) : (g.later cycle).queue = g.queue := rfl
@[simp] theorem Group.later_runs (g : Group) (cycle : Nat) : (g.later cycle).runs = g.runs := rfl
@[simp] theorem Group.later_out (g : Group) (cycle : Nat) : (g.later cycle).out = g.out := rfl
@[simp] theorem Group.later_hd (g : Group) (cycle : Nat) : (g.later cycle).hd = g.hd := rfl
@[simp] theorem Group.later_hs (g : Group) (cycle : Nat) : (g.later cycle).hs = g.hs := rfl
@[simp] theorem Group.later_h1 (g : Group) (cycle : Nat) : (g.later cycle).h1 = g.h1 := rfl
@[simp] theorem Group.later_h2 (g : Group) (cycle : Nat) : (g.later cycle).h2 = g.h2 := rfl
@[simp] theorem Group.later_h3 (g : Group) (cycle : Nat) : (g.later cycle).h3 = g.h3 := rfl
@[simp] theorem Group.later_stamp0 (g : Group) (cycle : Nat) : (g.later cycle).stamp0 = g.stamp0 := rfl
@[simp] theorem Group.later_stamp1 (g : Group) (cycle : Nat) : (g.later cycle).stamp1 = g.stamp1 := rfl
@[simp] theorem Group.later_stamp2 (g : Group) (cycle : Nat) : (g.later cycle).stamp2 = g.stamp2 := rfl
@[simp] theorem Group.later_stamp3 (g : Group) (cycle : Nat) : (g.later cycle).stamp3 = g.stamp3 := rfl
@[simp] theorem Group.later_stall (g : Group) (cycle : Nat) : (g.later cycle).stall = g.stall := rfl
@[simp] theorem Group.later_sready (g : Group) (cycle : Nat) : (g.later cycle).sready = max g.sready (cycle + 1) := rfl
@[simp] theorem Group.later_sboard (g : Group) (cycle : Nat) : (g.later cycle).sboard = g.sboard := rfl
@[simp] theorem Group.later_fault (g : Group) (cycle : Nat) : (g.later cycle).fault = g.fault := rfl
@[simp] theorem Group.later_heldFaults (g : Group) (cycle : Nat) : (g.later cycle).heldFaults = g.heldFaults := rfl
@[simp] theorem Group.later_preempt (g : Group) (cycle : Nat) : (g.later cycle).preempt = g.preempt := rfl
@[simp] theorem Group.later_nextStart (g : Group) (cycle : Nat) : (g.later cycle).nextStart = g.nextStart := rfl
@[simp] theorem Group.later_seqNext (g : Group) (cycle : Nat) : (g.later cycle).seqNext = g.seqNext := rfl
@[simp] theorem Group.later_pos (g : Group) (cycle : Nat) : (g.later cycle).pos = g.pos := rfl
@[simp] theorem Group.later_task (g : Group) (cycle : Nat) : (g.later cycle).task = g.task := rfl
@[simp] theorem Group.later_stretch (g : Group) (cycle : Nat) : (g.later cycle).stretch = g.stretch := rfl
@[simp] theorem Group.later_steals (g : Group) (cycle : Nat) : (g.later cycle).steals = g.steals := rfl
@[simp] theorem Group.later_launch (g : Group) (cycle : Nat) : (g.later cycle).launch = g.launch := rfl
@[simp] theorem Group.later_detPend (g : Group) (cycle : Nat) : (g.later cycle).detPend = g.detPend := rfl
@[simp] theorem Group.later_abandoned (g : Group) (cycle : Nat) : (g.later cycle).abandoned = g.abandoned := rfl

/-! `Group.result`. -/

@[simp] theorem Group.result_gid (g : Group) (cycle : Nat) (d : BitVec 6) (v : Word64) (lat : Nat) : (g.result cycle d v lat).gid = g.gid := by
  unfold Group.result Group.next Group.writeS; split <;> rfl
@[simp] theorem Group.result_live (g : Group) (cycle : Nat) (d : BitVec 6) (v : Word64) (lat : Nat) : (g.result cycle d v lat).live = g.live := by
  unfold Group.result Group.next Group.writeS; split <;> rfl
@[simp] theorem Group.result_team (g : Group) (cycle : Nat) (d : BitVec 6) (v : Word64) (lat : Nat) : (g.result cycle d v lat).team = g.team := by
  unfold Group.result Group.next Group.writeS; split <;> rfl
@[simp] theorem Group.result_grid (g : Group) (cycle : Nat) (d : BitVec 6) (v : Word64) (lat : Nat) : (g.result cycle d v lat).grid = g.grid := by
  unfold Group.result Group.next Group.writeS; split <;> rfl
@[simp] theorem Group.result_vf (g : Group) (cycle : Nat) (d : BitVec 6) (v : Word64) (lat : Nat) : (g.result cycle d v lat).vf = g.vf := by
  unfold Group.result Group.next Group.writeS; split <;> rfl
@[simp] theorem Group.result_core (g : Group) (cycle : Nat) (d : BitVec 6) (v : Word64) (lat : Nat) : (g.result cycle d v lat).core = g.core := by
  unfold Group.result Group.next Group.writeS; split <;> rfl
@[simp] theorem Group.result_slot (g : Group) (cycle : Nat) (d : BitVec 6) (v : Word64) (lat : Nat) : (g.result cycle d v lat).slot = g.slot := by
  unfold Group.result Group.next Group.writeS; split <;> rfl
@[simp] theorem Group.result_gidx (g : Group) (cycle : Nat) (d : BitVec 6) (v : Word64) (lat : Nat) : (g.result cycle d v lat).gidx = g.gidx := by
  unfold Group.result Group.next Group.writeS; split <;> rfl
@[simp] theorem Group.result_role (g : Group) (cycle : Nat) (d : BitVec 6) (v : Word64) (lat : Nat) : (g.result cycle d v lat).role = g.role := by
  unfold Group.result Group.next Group.writeS; split <;> rfl
@[simp] theorem Group.result_width (g : Group) (cycle : Nat) (d : BitVec 6) (v : Word64) (lat : Nat) : (g.result cycle d v lat).width = g.width := by
  unfold Group.result Group.next Group.writeS; split <;> rfl
@[simp] theorem Group.result_alloc (g : Group) (cycle : Nat) (d : BitVec 6) (v : Word64) (lat : Nat) : (g.result cycle d v lat).alloc = g.alloc := by
  unfold Group.result Group.next Group.writeS; split <;> rfl
@[simp] theorem Group.result_s (g : Group) (cycle : Nat) (d : BitVec 6) (v : Word64) (lat : Nat) : (g.result cycle d v lat).s = if d = 0 then g.s else sset g.s 0 d.toNat v := by
  unfold Group.result Group.next Group.writeS; split <;> rfl
@[simp] theorem Group.result_k (g : Group) (cycle : Nat) (d : BitVec 6) (v : Word64) (lat : Nat) : (g.result cycle d v lat).k = g.k := by
  unfold Group.result Group.next Group.writeS; split <;> rfl
@[simp] theorem Group.result_kc (g : Group) (cycle : Nat) (d : BitVec 6) (v : Word64) (lat : Nat) : (g.result cycle d v lat).kc = g.kc := by
  unfold Group.result Group.next Group.writeS; split <;> rfl
@[simp] theorem Group.result_klog (g : Group) (cycle : Nat) (d : BitVec 6) (v : Word64) (lat : Nat) : (g.result cycle d v lat).klog = g.klog := by
  unfold Group.result Group.next Group.writeS; split <;> rfl
@[simp] theorem Group.result_pc (g : Group) (cycle : Nat) (d : BitVec 6) (v : Word64) (lat : Nat) : (g.result cycle d v lat).pc = g.pc + 1 := by
  unfold Group.result Group.next Group.writeS; split <;> rfl
@[simp] theorem Group.result_gctl (g : Group) (cycle : Nat) (d : BitVec 6) (v : Word64) (lat : Nat) : (g.result cycle d v lat).gctl = g.gctl := by
  unfold Group.result Group.next Group.writeS; split <;> rfl
@[simp] theorem Group.result_gstat (g : Group) (cycle : Nat) (d : BitVec 6) (v : Word64) (lat : Nat) : (g.result cycle d v lat).gstat = g.gstat := by
  unfold Group.result Group.next Group.writeS; split <;> rfl
@[simp] theorem Group.result_febound (g : Group) (cycle : Nat) (d : BitVec 6) (v : Word64) (lat : Nat) : (g.result cycle d v lat).febound = g.febound := by
  unfold Group.result Group.next Group.writeS; split <;> rfl
@[simp] theorem Group.result_lease (g : Group) (cycle : Nat) (d : BitVec 6) (v : Word64) (lat : Nat) : (g.result cycle d v lat).lease = g.lease := by
  unfold Group.result Group.next Group.writeS; split <;> rfl
@[simp] theorem Group.result_acqfloor (g : Group) (cycle : Nat) (d : BitVec 6) (v : Word64) (lat : Nat) : (g.result cycle d v lat).acqfloor = g.acqfloor := by
  unfold Group.result Group.next Group.writeS; split <;> rfl
@[simp] theorem Group.result_lcb (g : Group) (cycle : Nat) (d : BitVec 6) (v : Word64) (lat : Nat) : (g.result cycle d v lat).lcb = g.lcb := by
  unfold Group.result Group.next Group.writeS; split <;> rfl
@[simp] theorem Group.result_scb (g : Group) (cycle : Nat) (d : BitVec 6) (v : Word64) (lat : Nat) : (g.result cycle d v lat).scb = g.scb := by
  unfold Group.result Group.next Group.writeS; split <;> rfl
@[simp] theorem Group.result_swords (g : Group) (cycle : Nat) (d : BitVec 6) (v : Word64) (lat : Nat) : (g.result cycle d v lat).swords = g.swords := by
  unfold Group.result Group.next Group.writeS; split <;> rfl
@[simp] theorem Group.result_lwords (g : Group) (cycle : Nat) (d : BitVec 6) (v : Word64) (lat : Nat) : (g.result cycle d v lat).lwords = g.lwords := by
  unfold Group.result Group.next Group.writeS; split <;> rfl
@[simp] theorem Group.result_v (g : Group) (cycle : Nat) (d : BitVec 6) (v : Word64) (lat : Nat) : (g.result cycle d v lat).v = g.v := by
  unfold Group.result Group.next Group.writeS; split <;> rfl
@[simp] theorem Group.result_orf (g : Group) (cycle : Nat) (d : BitVec 6) (v : Word64) (lat : Nat) : (g.result cycle d v lat).orf = g.orf := by
  unfold Group.result Group.next Group.writeS; split <;> rfl
@[simp] theorem Group.result_lrf (g : Group) (cycle : Nat) (d : BitVec 6) (v : Word64) (lat : Nat) : (g.result cycle d v lat).lrf = g.lrf := by
  unfold Group.result Group.next Group.writeS; split <;> rfl
@[simp] theorem Group.result_late (g : Group) (cycle : Nat) (d : BitVec 6) (v : Word64) (lat : Nat) : (g.result cycle d v lat).late = g.late := by
  unfold Group.result Group.next Group.writeS; split <;> rfl
@[simp] theorem Group.result_lstat (g : Group) (cycle : Nat) (d : BitVec 6) (v : Word64) (lat : Nat) : (g.result cycle d v lat).lstat = g.lstat := by
  unfold Group.result Group.next Group.writeS; split <;> rfl
@[simp] theorem Group.result_proms (g : Group) (cycle : Nat) (d : BitVec 6) (v : Word64) (lat : Nat) : (g.result cycle d v lat).proms = g.proms := by
  unfold Group.result Group.next Group.writeS; split <;> rfl
@[simp] theorem Group.result_queue (g : Group) (cycle : Nat) (d : BitVec 6) (v : Word64) (lat : Nat) : (g.result cycle d v lat).queue = g.queue := by
  unfold Group.result Group.next Group.writeS; split <;> rfl
@[simp] theorem Group.result_runs (g : Group) (cycle : Nat) (d : BitVec 6) (v : Word64) (lat : Nat) : (g.result cycle d v lat).runs = g.runs := by
  unfold Group.result Group.next Group.writeS; split <;> rfl
@[simp] theorem Group.result_out (g : Group) (cycle : Nat) (d : BitVec 6) (v : Word64) (lat : Nat) : (g.result cycle d v lat).out = g.out := by
  unfold Group.result Group.next Group.writeS; split <;> rfl
@[simp] theorem Group.result_hd (g : Group) (cycle : Nat) (d : BitVec 6) (v : Word64) (lat : Nat) : (g.result cycle d v lat).hd = g.hd := by
  unfold Group.result Group.next Group.writeS; split <;> rfl
@[simp] theorem Group.result_hs (g : Group) (cycle : Nat) (d : BitVec 6) (v : Word64) (lat : Nat) : (g.result cycle d v lat).hs = g.hs := by
  unfold Group.result Group.next Group.writeS; split <;> rfl
@[simp] theorem Group.result_h1 (g : Group) (cycle : Nat) (d : BitVec 6) (v : Word64) (lat : Nat) : (g.result cycle d v lat).h1 = g.h1 := by
  unfold Group.result Group.next Group.writeS; split <;> rfl
@[simp] theorem Group.result_h2 (g : Group) (cycle : Nat) (d : BitVec 6) (v : Word64) (lat : Nat) : (g.result cycle d v lat).h2 = g.h2 := by
  unfold Group.result Group.next Group.writeS; split <;> rfl
@[simp] theorem Group.result_h3 (g : Group) (cycle : Nat) (d : BitVec 6) (v : Word64) (lat : Nat) : (g.result cycle d v lat).h3 = g.h3 := by
  unfold Group.result Group.next Group.writeS; split <;> rfl
@[simp] theorem Group.result_stamp0 (g : Group) (cycle : Nat) (d : BitVec 6) (v : Word64) (lat : Nat) : (g.result cycle d v lat).stamp0 = g.stamp0 := by
  unfold Group.result Group.next Group.writeS; split <;> rfl
@[simp] theorem Group.result_stamp1 (g : Group) (cycle : Nat) (d : BitVec 6) (v : Word64) (lat : Nat) : (g.result cycle d v lat).stamp1 = g.stamp1 := by
  unfold Group.result Group.next Group.writeS; split <;> rfl
@[simp] theorem Group.result_stamp2 (g : Group) (cycle : Nat) (d : BitVec 6) (v : Word64) (lat : Nat) : (g.result cycle d v lat).stamp2 = g.stamp2 := by
  unfold Group.result Group.next Group.writeS; split <;> rfl
@[simp] theorem Group.result_stamp3 (g : Group) (cycle : Nat) (d : BitVec 6) (v : Word64) (lat : Nat) : (g.result cycle d v lat).stamp3 = g.stamp3 := by
  unfold Group.result Group.next Group.writeS; split <;> rfl
@[simp] theorem Group.result_stall (g : Group) (cycle : Nat) (d : BitVec 6) (v : Word64) (lat : Nat) : (g.result cycle d v lat).stall = g.stall := by
  unfold Group.result Group.next Group.writeS; split <;> rfl
@[simp] theorem Group.result_sready (g : Group) (cycle : Nat) (d : BitVec 6) (v : Word64) (lat : Nat) : (g.result cycle d v lat).sready = cycle + 1 := by
  unfold Group.result Group.next Group.writeS; split <;> rfl
@[simp] theorem Group.result_sboard (g : Group) (cycle : Nat) (d : BitVec 6) (v : Word64) (lat : Nat) : (g.result cycle d v lat).sboard = if d = 0 then g.sboard else sset g.sboard 0 d.toNat (cycle + lat) := by
  unfold Group.result Group.next Group.writeS; split <;> rfl
@[simp] theorem Group.result_fault (g : Group) (cycle : Nat) (d : BitVec 6) (v : Word64) (lat : Nat) : (g.result cycle d v lat).fault = g.fault := by
  unfold Group.result Group.next Group.writeS; split <;> rfl
@[simp] theorem Group.result_heldFaults (g : Group) (cycle : Nat) (d : BitVec 6) (v : Word64) (lat : Nat) : (g.result cycle d v lat).heldFaults = g.heldFaults := by
  unfold Group.result Group.next Group.writeS; split <;> rfl
@[simp] theorem Group.result_preempt (g : Group) (cycle : Nat) (d : BitVec 6) (v : Word64) (lat : Nat) : (g.result cycle d v lat).preempt = g.preempt := by
  unfold Group.result Group.next Group.writeS; split <;> rfl
@[simp] theorem Group.result_nextStart (g : Group) (cycle : Nat) (d : BitVec 6) (v : Word64) (lat : Nat) : (g.result cycle d v lat).nextStart = g.nextStart := by
  unfold Group.result Group.next Group.writeS; split <;> rfl
@[simp] theorem Group.result_seqNext (g : Group) (cycle : Nat) (d : BitVec 6) (v : Word64) (lat : Nat) : (g.result cycle d v lat).seqNext = g.seqNext := by
  unfold Group.result Group.next Group.writeS; split <;> rfl
@[simp] theorem Group.result_pos (g : Group) (cycle : Nat) (d : BitVec 6) (v : Word64) (lat : Nat) : (g.result cycle d v lat).pos = g.pos := by
  unfold Group.result Group.next Group.writeS; split <;> rfl
@[simp] theorem Group.result_task (g : Group) (cycle : Nat) (d : BitVec 6) (v : Word64) (lat : Nat) : (g.result cycle d v lat).task = g.task := by
  unfold Group.result Group.next Group.writeS; split <;> rfl
@[simp] theorem Group.result_stretch (g : Group) (cycle : Nat) (d : BitVec 6) (v : Word64) (lat : Nat) : (g.result cycle d v lat).stretch = g.stretch := by
  unfold Group.result Group.next Group.writeS; split <;> rfl
@[simp] theorem Group.result_steals (g : Group) (cycle : Nat) (d : BitVec 6) (v : Word64) (lat : Nat) : (g.result cycle d v lat).steals = g.steals := by
  unfold Group.result Group.next Group.writeS; split <;> rfl
@[simp] theorem Group.result_launch (g : Group) (cycle : Nat) (d : BitVec 6) (v : Word64) (lat : Nat) : (g.result cycle d v lat).launch = g.launch := by
  unfold Group.result Group.next Group.writeS; split <;> rfl
@[simp] theorem Group.result_detPend (g : Group) (cycle : Nat) (d : BitVec 6) (v : Word64) (lat : Nat) : (g.result cycle d v lat).detPend = g.detPend := by
  unfold Group.result Group.next Group.writeS; split <;> rfl
@[simp] theorem Group.result_abandoned (g : Group) (cycle : Nat) (d : BitVec 6) (v : Word64) (lat : Nat) : (g.result cycle d v lat).abandoned = g.abandoned := by
  unfold Group.result Group.next Group.writeS; split <;> rfl

/-! `Group.setLast`. -/

@[simp] theorem Group.setLast_gid (g : Group) (c : Code) : (g.setLast c).gid = g.gid := rfl
@[simp] theorem Group.setLast_live (g : Group) (c : Code) : (g.setLast c).live = g.live := rfl
@[simp] theorem Group.setLast_team (g : Group) (c : Code) : (g.setLast c).team = g.team := rfl
@[simp] theorem Group.setLast_grid (g : Group) (c : Code) : (g.setLast c).grid = g.grid := rfl
@[simp] theorem Group.setLast_vf (g : Group) (c : Code) : (g.setLast c).vf = g.vf := rfl
@[simp] theorem Group.setLast_core (g : Group) (c : Code) : (g.setLast c).core = g.core := rfl
@[simp] theorem Group.setLast_slot (g : Group) (c : Code) : (g.setLast c).slot = g.slot := rfl
@[simp] theorem Group.setLast_gidx (g : Group) (c : Code) : (g.setLast c).gidx = g.gidx := rfl
@[simp] theorem Group.setLast_role (g : Group) (c : Code) : (g.setLast c).role = g.role := rfl
@[simp] theorem Group.setLast_width (g : Group) (c : Code) : (g.setLast c).width = g.width := rfl
@[simp] theorem Group.setLast_alloc (g : Group) (c : Code) : (g.setLast c).alloc = g.alloc := rfl
@[simp] theorem Group.setLast_s (g : Group) (c : Code) : (g.setLast c).s = g.s := rfl
@[simp] theorem Group.setLast_k (g : Group) (c : Code) : (g.setLast c).k = g.k := rfl
@[simp] theorem Group.setLast_kc (g : Group) (c : Code) : (g.setLast c).kc = g.kc := rfl
@[simp] theorem Group.setLast_klog (g : Group) (c : Code) : (g.setLast c).klog = g.klog := rfl
@[simp] theorem Group.setLast_pc (g : Group) (c : Code) : (g.setLast c).pc = g.pc := rfl
@[simp] theorem Group.setLast_gctl (g : Group) (c : Code) : (g.setLast c).gctl = g.gctl := rfl
@[simp] theorem Group.setLast_gstat (g : Group) (c : Code) : (g.setLast c).gstat = (g.gstat &&& ~~~0xFF80) ||| BitVec.ofNat 64 (c.num * 256 + 128) := rfl
@[simp] theorem Group.setLast_febound (g : Group) (c : Code) : (g.setLast c).febound = g.febound := rfl
@[simp] theorem Group.setLast_lease (g : Group) (c : Code) : (g.setLast c).lease = g.lease := rfl
@[simp] theorem Group.setLast_acqfloor (g : Group) (c : Code) : (g.setLast c).acqfloor = g.acqfloor := rfl
@[simp] theorem Group.setLast_lcb (g : Group) (c : Code) : (g.setLast c).lcb = g.lcb := rfl
@[simp] theorem Group.setLast_scb (g : Group) (c : Code) : (g.setLast c).scb = g.scb := rfl
@[simp] theorem Group.setLast_swords (g : Group) (c : Code) : (g.setLast c).swords = g.swords := rfl
@[simp] theorem Group.setLast_lwords (g : Group) (c : Code) : (g.setLast c).lwords = g.lwords := rfl
@[simp] theorem Group.setLast_v (g : Group) (c : Code) : (g.setLast c).v = g.v := rfl
@[simp] theorem Group.setLast_orf (g : Group) (c : Code) : (g.setLast c).orf = g.orf := rfl
@[simp] theorem Group.setLast_lrf (g : Group) (c : Code) : (g.setLast c).lrf = g.lrf := rfl
@[simp] theorem Group.setLast_late (g : Group) (c : Code) : (g.setLast c).late = g.late := rfl
@[simp] theorem Group.setLast_lstat (g : Group) (c : Code) : (g.setLast c).lstat = g.lstat := rfl
@[simp] theorem Group.setLast_proms (g : Group) (c : Code) : (g.setLast c).proms = g.proms := rfl
@[simp] theorem Group.setLast_queue (g : Group) (c : Code) : (g.setLast c).queue = g.queue := rfl
@[simp] theorem Group.setLast_runs (g : Group) (c : Code) : (g.setLast c).runs = g.runs := rfl
@[simp] theorem Group.setLast_out (g : Group) (c : Code) : (g.setLast c).out = g.out := rfl
@[simp] theorem Group.setLast_hd (g : Group) (c : Code) : (g.setLast c).hd = g.hd := rfl
@[simp] theorem Group.setLast_hs (g : Group) (c : Code) : (g.setLast c).hs = g.hs := rfl
@[simp] theorem Group.setLast_h1 (g : Group) (c : Code) : (g.setLast c).h1 = g.h1 := rfl
@[simp] theorem Group.setLast_h2 (g : Group) (c : Code) : (g.setLast c).h2 = g.h2 := rfl
@[simp] theorem Group.setLast_h3 (g : Group) (c : Code) : (g.setLast c).h3 = g.h3 := rfl
@[simp] theorem Group.setLast_stamp0 (g : Group) (c : Code) : (g.setLast c).stamp0 = g.stamp0 := rfl
@[simp] theorem Group.setLast_stamp1 (g : Group) (c : Code) : (g.setLast c).stamp1 = g.stamp1 := rfl
@[simp] theorem Group.setLast_stamp2 (g : Group) (c : Code) : (g.setLast c).stamp2 = g.stamp2 := rfl
@[simp] theorem Group.setLast_stamp3 (g : Group) (c : Code) : (g.setLast c).stamp3 = g.stamp3 := rfl
@[simp] theorem Group.setLast_stall (g : Group) (c : Code) : (g.setLast c).stall = g.stall := rfl
@[simp] theorem Group.setLast_sready (g : Group) (c : Code) : (g.setLast c).sready = g.sready := rfl
@[simp] theorem Group.setLast_sboard (g : Group) (c : Code) : (g.setLast c).sboard = g.sboard := rfl
@[simp] theorem Group.setLast_fault (g : Group) (c : Code) : (g.setLast c).fault = g.fault := rfl
@[simp] theorem Group.setLast_heldFaults (g : Group) (c : Code) : (g.setLast c).heldFaults = g.heldFaults := rfl
@[simp] theorem Group.setLast_preempt (g : Group) (c : Code) : (g.setLast c).preempt = g.preempt := rfl
@[simp] theorem Group.setLast_nextStart (g : Group) (c : Code) : (g.setLast c).nextStart = g.nextStart := rfl
@[simp] theorem Group.setLast_seqNext (g : Group) (c : Code) : (g.setLast c).seqNext = g.seqNext := rfl
@[simp] theorem Group.setLast_pos (g : Group) (c : Code) : (g.setLast c).pos = g.pos := rfl
@[simp] theorem Group.setLast_task (g : Group) (c : Code) : (g.setLast c).task = g.task := rfl
@[simp] theorem Group.setLast_stretch (g : Group) (c : Code) : (g.setLast c).stretch = g.stretch := rfl
@[simp] theorem Group.setLast_steals (g : Group) (c : Code) : (g.setLast c).steals = g.steals := rfl
@[simp] theorem Group.setLast_launch (g : Group) (c : Code) : (g.setLast c).launch = g.launch := rfl
@[simp] theorem Group.setLast_detPend (g : Group) (c : Code) : (g.setLast c).detPend = g.detPend := rfl
@[simp] theorem Group.setLast_abandoned (g : Group) (c : Code) : (g.setLast c).abandoned = g.abandoned := rfl

/-! `Group.split`. -/

@[simp] theorem Group.split_gid (g : Group) (seq : Nat) : (g.split seq).gid = g.gid := rfl
@[simp] theorem Group.split_live (g : Group) (seq : Nat) : (g.split seq).live = g.live := rfl
@[simp] theorem Group.split_team (g : Group) (seq : Nat) : (g.split seq).team = g.team := rfl
@[simp] theorem Group.split_grid (g : Group) (seq : Nat) : (g.split seq).grid = g.grid := rfl
@[simp] theorem Group.split_vf (g : Group) (seq : Nat) : (g.split seq).vf = g.vf := rfl
@[simp] theorem Group.split_core (g : Group) (seq : Nat) : (g.split seq).core = g.core := rfl
@[simp] theorem Group.split_slot (g : Group) (seq : Nat) : (g.split seq).slot = g.slot := rfl
@[simp] theorem Group.split_gidx (g : Group) (seq : Nat) : (g.split seq).gidx = g.gidx := rfl
@[simp] theorem Group.split_role (g : Group) (seq : Nat) : (g.split seq).role = g.role := rfl
@[simp] theorem Group.split_width (g : Group) (seq : Nat) : (g.split seq).width = g.width := rfl
@[simp] theorem Group.split_alloc (g : Group) (seq : Nat) : (g.split seq).alloc = g.alloc := rfl
@[simp] theorem Group.split_s (g : Group) (seq : Nat) : (g.split seq).s = g.s := rfl
@[simp] theorem Group.split_k (g : Group) (seq : Nat) : (g.split seq).k = g.k := rfl
@[simp] theorem Group.split_kc (g : Group) (seq : Nat) : (g.split seq).kc = g.kc := rfl
@[simp] theorem Group.split_klog (g : Group) (seq : Nat) : (g.split seq).klog = g.klog := rfl
@[simp] theorem Group.split_pc (g : Group) (seq : Nat) : (g.split seq).pc = g.pc := rfl
@[simp] theorem Group.split_gctl (g : Group) (seq : Nat) : (g.split seq).gctl = g.gctl := rfl
@[simp] theorem Group.split_gstat (g : Group) (seq : Nat) : (g.split seq).gstat = g.gstat := rfl
@[simp] theorem Group.split_febound (g : Group) (seq : Nat) : (g.split seq).febound = g.febound := rfl
@[simp] theorem Group.split_lease (g : Group) (seq : Nat) : (g.split seq).lease = g.lease := rfl
@[simp] theorem Group.split_acqfloor (g : Group) (seq : Nat) : (g.split seq).acqfloor = g.acqfloor := rfl
@[simp] theorem Group.split_lcb (g : Group) (seq : Nat) : (g.split seq).lcb = g.lcb := rfl
@[simp] theorem Group.split_scb (g : Group) (seq : Nat) : (g.split seq).scb = g.scb := rfl
@[simp] theorem Group.split_swords (g : Group) (seq : Nat) : (g.split seq).swords = g.swords := rfl
@[simp] theorem Group.split_lwords (g : Group) (seq : Nat) : (g.split seq).lwords = g.lwords := rfl
@[simp] theorem Group.split_v (g : Group) (seq : Nat) : (g.split seq).v = g.v := rfl
@[simp] theorem Group.split_orf (g : Group) (seq : Nat) : (g.split seq).orf = g.orf := rfl
@[simp] theorem Group.split_lrf (g : Group) (seq : Nat) : (g.split seq).lrf = g.lrf := rfl
@[simp] theorem Group.split_late (g : Group) (seq : Nat) : (g.split seq).late = g.late := rfl
@[simp] theorem Group.split_lstat (g : Group) (seq : Nat) : (g.split seq).lstat = g.lstat := rfl
@[simp] theorem Group.split_proms (g : Group) (seq : Nat) : (g.split seq).proms = g.proms := rfl
@[simp] theorem Group.split_queue (g : Group) (seq : Nat) : (g.split seq).queue = g.queue := rfl
@[simp] theorem Group.split_runs (g : Group) (seq : Nat) : (g.split seq).runs = mapIf g.runs (·.seq == seq) (fun r => { r with stream := (g.gid, 0) }) := rfl
@[simp] theorem Group.split_out (g : Group) (seq : Nat) : (g.split seq).out = g.out := rfl
@[simp] theorem Group.split_hd (g : Group) (seq : Nat) : (g.split seq).hd = g.hd := rfl
@[simp] theorem Group.split_hs (g : Group) (seq : Nat) : (g.split seq).hs = g.hs := rfl
@[simp] theorem Group.split_h1 (g : Group) (seq : Nat) : (g.split seq).h1 = g.h1 := rfl
@[simp] theorem Group.split_h2 (g : Group) (seq : Nat) : (g.split seq).h2 = g.h2 := rfl
@[simp] theorem Group.split_h3 (g : Group) (seq : Nat) : (g.split seq).h3 = g.h3 := rfl
@[simp] theorem Group.split_stamp0 (g : Group) (seq : Nat) : (g.split seq).stamp0 = g.stamp0 := rfl
@[simp] theorem Group.split_stamp1 (g : Group) (seq : Nat) : (g.split seq).stamp1 = g.stamp1 := rfl
@[simp] theorem Group.split_stamp2 (g : Group) (seq : Nat) : (g.split seq).stamp2 = g.stamp2 := rfl
@[simp] theorem Group.split_stamp3 (g : Group) (seq : Nat) : (g.split seq).stamp3 = g.stamp3 := rfl
@[simp] theorem Group.split_stall (g : Group) (seq : Nat) : (g.split seq).stall = g.stall := rfl
@[simp] theorem Group.split_sready (g : Group) (seq : Nat) : (g.split seq).sready = g.sready := rfl
@[simp] theorem Group.split_sboard (g : Group) (seq : Nat) : (g.split seq).sboard = g.sboard := rfl
@[simp] theorem Group.split_fault (g : Group) (seq : Nat) : (g.split seq).fault = g.fault := rfl
@[simp] theorem Group.split_heldFaults (g : Group) (seq : Nat) : (g.split seq).heldFaults = g.heldFaults := rfl
@[simp] theorem Group.split_preempt (g : Group) (seq : Nat) : (g.split seq).preempt = g.preempt := rfl
@[simp] theorem Group.split_nextStart (g : Group) (seq : Nat) : (g.split seq).nextStart = g.nextStart := rfl
@[simp] theorem Group.split_seqNext (g : Group) (seq : Nat) : (g.split seq).seqNext = g.seqNext := rfl
@[simp] theorem Group.split_pos (g : Group) (seq : Nat) : (g.split seq).pos = g.pos := rfl
@[simp] theorem Group.split_task (g : Group) (seq : Nat) : (g.split seq).task = g.task := rfl
@[simp] theorem Group.split_stretch (g : Group) (seq : Nat) : (g.split seq).stretch = g.stretch := rfl
@[simp] theorem Group.split_steals (g : Group) (seq : Nat) : (g.split seq).steals = g.steals := rfl
@[simp] theorem Group.split_launch (g : Group) (seq : Nat) : (g.split seq).launch = g.launch := rfl
@[simp] theorem Group.split_detPend (g : Group) (seq : Nat) : (g.split seq).detPend = g.detPend := rfl
@[simp] theorem Group.split_abandoned (g : Group) (seq : Nat) : (g.split seq).abandoned = g.abandoned := rfl

/-! `Group.ageless`. -/

@[simp] theorem Group.ageless_gid (g : Group) : (g.ageless).gid = g.gid := rfl
@[simp] theorem Group.ageless_live (g : Group) : (g.ageless).live = g.live := rfl
@[simp] theorem Group.ageless_team (g : Group) : (g.ageless).team = g.team := rfl
@[simp] theorem Group.ageless_grid (g : Group) : (g.ageless).grid = g.grid := rfl
@[simp] theorem Group.ageless_vf (g : Group) : (g.ageless).vf = g.vf := rfl
@[simp] theorem Group.ageless_core (g : Group) : (g.ageless).core = g.core := rfl
@[simp] theorem Group.ageless_slot (g : Group) : (g.ageless).slot = g.slot := rfl
@[simp] theorem Group.ageless_gidx (g : Group) : (g.ageless).gidx = g.gidx := rfl
@[simp] theorem Group.ageless_role (g : Group) : (g.ageless).role = g.role := rfl
@[simp] theorem Group.ageless_width (g : Group) : (g.ageless).width = g.width := rfl
@[simp] theorem Group.ageless_alloc (g : Group) : (g.ageless).alloc = g.alloc := rfl
@[simp] theorem Group.ageless_s (g : Group) : (g.ageless).s = g.s := rfl
@[simp] theorem Group.ageless_k (g : Group) : (g.ageless).k = g.k := rfl
@[simp] theorem Group.ageless_kc (g : Group) : (g.ageless).kc = g.kc := rfl
@[simp] theorem Group.ageless_klog (g : Group) : (g.ageless).klog = g.klog := rfl
@[simp] theorem Group.ageless_pc (g : Group) : (g.ageless).pc = g.pc := rfl
@[simp] theorem Group.ageless_gctl (g : Group) : (g.ageless).gctl = g.gctl := rfl
@[simp] theorem Group.ageless_gstat (g : Group) : (g.ageless).gstat = g.gstat := rfl
@[simp] theorem Group.ageless_febound (g : Group) : (g.ageless).febound = g.febound := rfl
@[simp] theorem Group.ageless_lease (g : Group) : (g.ageless).lease = g.lease := rfl
@[simp] theorem Group.ageless_acqfloor (g : Group) : (g.ageless).acqfloor = g.acqfloor := rfl
@[simp] theorem Group.ageless_lcb (g : Group) : (g.ageless).lcb = g.lcb := rfl
@[simp] theorem Group.ageless_scb (g : Group) : (g.ageless).scb = g.scb := rfl
@[simp] theorem Group.ageless_swords (g : Group) : (g.ageless).swords = g.swords := rfl
@[simp] theorem Group.ageless_lwords (g : Group) : (g.ageless).lwords = g.lwords := rfl
@[simp] theorem Group.ageless_v (g : Group) : (g.ageless).v = g.v := rfl
@[simp] theorem Group.ageless_orf (g : Group) : (g.ageless).orf = g.orf := rfl
@[simp] theorem Group.ageless_lrf (g : Group) : (g.ageless).lrf = g.lrf := rfl
@[simp] theorem Group.ageless_late (g : Group) : (g.ageless).late = g.late := rfl
@[simp] theorem Group.ageless_lstat (g : Group) : (g.ageless).lstat = g.lstat := rfl
@[simp] theorem Group.ageless_proms (g : Group) : (g.ageless).proms = g.proms := rfl
@[simp] theorem Group.ageless_runs (g : Group) : (g.ageless).runs = g.runs := rfl
@[simp] theorem Group.ageless_out (g : Group) : (g.ageless).out = g.out := rfl
@[simp] theorem Group.ageless_hd (g : Group) : (g.ageless).hd = g.hd := rfl
@[simp] theorem Group.ageless_hs (g : Group) : (g.ageless).hs = g.hs := rfl
@[simp] theorem Group.ageless_h1 (g : Group) : (g.ageless).h1 = g.h1 := rfl
@[simp] theorem Group.ageless_h2 (g : Group) : (g.ageless).h2 = g.h2 := rfl
@[simp] theorem Group.ageless_h3 (g : Group) : (g.ageless).h3 = g.h3 := rfl
@[simp] theorem Group.ageless_stamp0 (g : Group) : (g.ageless).stamp0 = g.stamp0 := rfl
@[simp] theorem Group.ageless_stamp1 (g : Group) : (g.ageless).stamp1 = g.stamp1 := rfl
@[simp] theorem Group.ageless_stamp2 (g : Group) : (g.ageless).stamp2 = g.stamp2 := rfl
@[simp] theorem Group.ageless_stamp3 (g : Group) : (g.ageless).stamp3 = g.stamp3 := rfl
@[simp] theorem Group.ageless_stall (g : Group) : (g.ageless).stall = g.stall := rfl
@[simp] theorem Group.ageless_sready (g : Group) : (g.ageless).sready = g.sready := rfl
@[simp] theorem Group.ageless_sboard (g : Group) : (g.ageless).sboard = g.sboard := rfl
@[simp] theorem Group.ageless_fault (g : Group) : (g.ageless).fault = g.fault := rfl
@[simp] theorem Group.ageless_heldFaults (g : Group) : (g.ageless).heldFaults = g.heldFaults := rfl
@[simp] theorem Group.ageless_preempt (g : Group) : (g.ageless).preempt = g.preempt := rfl
@[simp] theorem Group.ageless_nextStart (g : Group) : (g.ageless).nextStart = g.nextStart := rfl
@[simp] theorem Group.ageless_seqNext (g : Group) : (g.ageless).seqNext = g.seqNext := rfl
@[simp] theorem Group.ageless_pos (g : Group) : (g.ageless).pos = g.pos := rfl
@[simp] theorem Group.ageless_task (g : Group) : (g.ageless).task = g.task := rfl
@[simp] theorem Group.ageless_stretch (g : Group) : (g.ageless).stretch = g.stretch := rfl
@[simp] theorem Group.ageless_steals (g : Group) : (g.ageless).steals = g.steals := rfl
@[simp] theorem Group.ageless_launch (g : Group) : (g.ageless).launch = g.launch := rfl
@[simp] theorem Group.ageless_detPend (g : Group) : (g.ageless).detPend = g.detPend := rfl
@[simp] theorem Group.ageless_abandoned (g : Group) : (g.ageless).abandoned = g.abandoned := rfl

/-! `Group.releaseParked`. -/

@[simp] theorem Group.releaseParked_gid (g : Group) : (g.releaseParked).gid = g.gid := rfl
@[simp] theorem Group.releaseParked_live (g : Group) : (g.releaseParked).live = g.live := rfl
@[simp] theorem Group.releaseParked_team (g : Group) : (g.releaseParked).team = g.team := rfl
@[simp] theorem Group.releaseParked_grid (g : Group) : (g.releaseParked).grid = g.grid := rfl
@[simp] theorem Group.releaseParked_vf (g : Group) : (g.releaseParked).vf = g.vf := rfl
@[simp] theorem Group.releaseParked_core (g : Group) : (g.releaseParked).core = g.core := rfl
@[simp] theorem Group.releaseParked_slot (g : Group) : (g.releaseParked).slot = g.slot := rfl
@[simp] theorem Group.releaseParked_gidx (g : Group) : (g.releaseParked).gidx = g.gidx := rfl
@[simp] theorem Group.releaseParked_role (g : Group) : (g.releaseParked).role = g.role := rfl
@[simp] theorem Group.releaseParked_width (g : Group) : (g.releaseParked).width = g.width := rfl
@[simp] theorem Group.releaseParked_alloc (g : Group) : (g.releaseParked).alloc = g.alloc := rfl
@[simp] theorem Group.releaseParked_s (g : Group) : (g.releaseParked).s = g.s := rfl
@[simp] theorem Group.releaseParked_k (g : Group) : (g.releaseParked).k = g.k := rfl
@[simp] theorem Group.releaseParked_kc (g : Group) : (g.releaseParked).kc = g.kc := rfl
@[simp] theorem Group.releaseParked_klog (g : Group) : (g.releaseParked).klog = g.klog := rfl
@[simp] theorem Group.releaseParked_pc (g : Group) : (g.releaseParked).pc = g.pc := rfl
@[simp] theorem Group.releaseParked_gctl (g : Group) : (g.releaseParked).gctl = g.gctl := rfl
@[simp] theorem Group.releaseParked_gstat (g : Group) : (g.releaseParked).gstat = g.gstat := rfl
@[simp] theorem Group.releaseParked_febound (g : Group) : (g.releaseParked).febound = g.febound := rfl
@[simp] theorem Group.releaseParked_lease (g : Group) : (g.releaseParked).lease = g.lease := rfl
@[simp] theorem Group.releaseParked_acqfloor (g : Group) : (g.releaseParked).acqfloor = g.acqfloor := rfl
@[simp] theorem Group.releaseParked_lcb (g : Group) : (g.releaseParked).lcb = g.lcb := rfl
@[simp] theorem Group.releaseParked_scb (g : Group) : (g.releaseParked).scb = g.scb := rfl
@[simp] theorem Group.releaseParked_swords (g : Group) : (g.releaseParked).swords = g.swords := rfl
@[simp] theorem Group.releaseParked_lwords (g : Group) : (g.releaseParked).lwords = g.lwords := rfl
@[simp] theorem Group.releaseParked_v (g : Group) : (g.releaseParked).v = g.v := rfl
@[simp] theorem Group.releaseParked_orf (g : Group) : (g.releaseParked).orf = g.orf := rfl
@[simp] theorem Group.releaseParked_lrf (g : Group) : (g.releaseParked).lrf = g.lrf := rfl
@[simp] theorem Group.releaseParked_late (g : Group) : (g.releaseParked).late = g.late := rfl
@[simp] theorem Group.releaseParked_lstat (g : Group) : (g.releaseParked).lstat = g.lstat := rfl
@[simp] theorem Group.releaseParked_proms (g : Group) : (g.releaseParked).proms = g.proms := rfl
@[simp] theorem Group.releaseParked_queue (g : Group) : (g.releaseParked).queue = g.queue := rfl
@[simp] theorem Group.releaseParked_runs (g : Group) : (g.releaseParked).runs = mapIf g.runs (·.parked) (fun r => { r with quarters := 0, dec := 0, stream := (g.gid, 0) }) := rfl
@[simp] theorem Group.releaseParked_out (g : Group) : (g.releaseParked).out = g.out := rfl
@[simp] theorem Group.releaseParked_hd (g : Group) : (g.releaseParked).hd = g.hd := rfl
@[simp] theorem Group.releaseParked_hs (g : Group) : (g.releaseParked).hs = g.hs := rfl
@[simp] theorem Group.releaseParked_h1 (g : Group) : (g.releaseParked).h1 = g.h1 := rfl
@[simp] theorem Group.releaseParked_h2 (g : Group) : (g.releaseParked).h2 = g.h2 := rfl
@[simp] theorem Group.releaseParked_h3 (g : Group) : (g.releaseParked).h3 = g.h3 := rfl
@[simp] theorem Group.releaseParked_stamp0 (g : Group) : (g.releaseParked).stamp0 = g.stamp0 := rfl
@[simp] theorem Group.releaseParked_stamp1 (g : Group) : (g.releaseParked).stamp1 = g.stamp1 := rfl
@[simp] theorem Group.releaseParked_stamp2 (g : Group) : (g.releaseParked).stamp2 = g.stamp2 := rfl
@[simp] theorem Group.releaseParked_stamp3 (g : Group) : (g.releaseParked).stamp3 = g.stamp3 := rfl
@[simp] theorem Group.releaseParked_stall (g : Group) : (g.releaseParked).stall = g.stall := rfl
@[simp] theorem Group.releaseParked_sready (g : Group) : (g.releaseParked).sready = g.sready := rfl
@[simp] theorem Group.releaseParked_sboard (g : Group) : (g.releaseParked).sboard = g.sboard := rfl
@[simp] theorem Group.releaseParked_fault (g : Group) : (g.releaseParked).fault = g.fault := rfl
@[simp] theorem Group.releaseParked_heldFaults (g : Group) : (g.releaseParked).heldFaults = g.heldFaults := rfl
@[simp] theorem Group.releaseParked_preempt (g : Group) : (g.releaseParked).preempt = g.preempt := rfl
@[simp] theorem Group.releaseParked_nextStart (g : Group) : (g.releaseParked).nextStart = g.nextStart := rfl
@[simp] theorem Group.releaseParked_seqNext (g : Group) : (g.releaseParked).seqNext = g.seqNext := rfl
@[simp] theorem Group.releaseParked_pos (g : Group) : (g.releaseParked).pos = g.pos := rfl
@[simp] theorem Group.releaseParked_task (g : Group) : (g.releaseParked).task = g.task := rfl
@[simp] theorem Group.releaseParked_stretch (g : Group) : (g.releaseParked).stretch = g.stretch := rfl
@[simp] theorem Group.releaseParked_steals (g : Group) : (g.releaseParked).steals = g.steals := rfl
@[simp] theorem Group.releaseParked_launch (g : Group) : (g.releaseParked).launch = g.launch := rfl
@[simp] theorem Group.releaseParked_detPend (g : Group) : (g.releaseParked).detPend = g.detPend := rfl
@[simp] theorem Group.releaseParked_abandoned (g : Group) : (g.releaseParked).abandoned = g.abandoned := rfl

/-! `Group.modRun`. -/

@[simp] theorem Group.modRun_gid (g : Group) (seq : Nat) (f : Run → Run) : (g.modRun seq f).gid = g.gid := rfl
@[simp] theorem Group.modRun_live (g : Group) (seq : Nat) (f : Run → Run) : (g.modRun seq f).live = g.live := rfl
@[simp] theorem Group.modRun_team (g : Group) (seq : Nat) (f : Run → Run) : (g.modRun seq f).team = g.team := rfl
@[simp] theorem Group.modRun_grid (g : Group) (seq : Nat) (f : Run → Run) : (g.modRun seq f).grid = g.grid := rfl
@[simp] theorem Group.modRun_vf (g : Group) (seq : Nat) (f : Run → Run) : (g.modRun seq f).vf = g.vf := rfl
@[simp] theorem Group.modRun_core (g : Group) (seq : Nat) (f : Run → Run) : (g.modRun seq f).core = g.core := rfl
@[simp] theorem Group.modRun_slot (g : Group) (seq : Nat) (f : Run → Run) : (g.modRun seq f).slot = g.slot := rfl
@[simp] theorem Group.modRun_gidx (g : Group) (seq : Nat) (f : Run → Run) : (g.modRun seq f).gidx = g.gidx := rfl
@[simp] theorem Group.modRun_role (g : Group) (seq : Nat) (f : Run → Run) : (g.modRun seq f).role = g.role := rfl
@[simp] theorem Group.modRun_width (g : Group) (seq : Nat) (f : Run → Run) : (g.modRun seq f).width = g.width := rfl
@[simp] theorem Group.modRun_alloc (g : Group) (seq : Nat) (f : Run → Run) : (g.modRun seq f).alloc = g.alloc := rfl
@[simp] theorem Group.modRun_s (g : Group) (seq : Nat) (f : Run → Run) : (g.modRun seq f).s = g.s := rfl
@[simp] theorem Group.modRun_k (g : Group) (seq : Nat) (f : Run → Run) : (g.modRun seq f).k = g.k := rfl
@[simp] theorem Group.modRun_kc (g : Group) (seq : Nat) (f : Run → Run) : (g.modRun seq f).kc = g.kc := rfl
@[simp] theorem Group.modRun_klog (g : Group) (seq : Nat) (f : Run → Run) : (g.modRun seq f).klog = g.klog := rfl
@[simp] theorem Group.modRun_pc (g : Group) (seq : Nat) (f : Run → Run) : (g.modRun seq f).pc = g.pc := rfl
@[simp] theorem Group.modRun_gctl (g : Group) (seq : Nat) (f : Run → Run) : (g.modRun seq f).gctl = g.gctl := rfl
@[simp] theorem Group.modRun_gstat (g : Group) (seq : Nat) (f : Run → Run) : (g.modRun seq f).gstat = g.gstat := rfl
@[simp] theorem Group.modRun_febound (g : Group) (seq : Nat) (f : Run → Run) : (g.modRun seq f).febound = g.febound := rfl
@[simp] theorem Group.modRun_lease (g : Group) (seq : Nat) (f : Run → Run) : (g.modRun seq f).lease = g.lease := rfl
@[simp] theorem Group.modRun_acqfloor (g : Group) (seq : Nat) (f : Run → Run) : (g.modRun seq f).acqfloor = g.acqfloor := rfl
@[simp] theorem Group.modRun_lcb (g : Group) (seq : Nat) (f : Run → Run) : (g.modRun seq f).lcb = g.lcb := rfl
@[simp] theorem Group.modRun_scb (g : Group) (seq : Nat) (f : Run → Run) : (g.modRun seq f).scb = g.scb := rfl
@[simp] theorem Group.modRun_swords (g : Group) (seq : Nat) (f : Run → Run) : (g.modRun seq f).swords = g.swords := rfl
@[simp] theorem Group.modRun_lwords (g : Group) (seq : Nat) (f : Run → Run) : (g.modRun seq f).lwords = g.lwords := rfl
@[simp] theorem Group.modRun_v (g : Group) (seq : Nat) (f : Run → Run) : (g.modRun seq f).v = g.v := rfl
@[simp] theorem Group.modRun_orf (g : Group) (seq : Nat) (f : Run → Run) : (g.modRun seq f).orf = g.orf := rfl
@[simp] theorem Group.modRun_lrf (g : Group) (seq : Nat) (f : Run → Run) : (g.modRun seq f).lrf = g.lrf := rfl
@[simp] theorem Group.modRun_late (g : Group) (seq : Nat) (f : Run → Run) : (g.modRun seq f).late = g.late := rfl
@[simp] theorem Group.modRun_lstat (g : Group) (seq : Nat) (f : Run → Run) : (g.modRun seq f).lstat = g.lstat := rfl
@[simp] theorem Group.modRun_proms (g : Group) (seq : Nat) (f : Run → Run) : (g.modRun seq f).proms = g.proms := rfl
@[simp] theorem Group.modRun_queue (g : Group) (seq : Nat) (f : Run → Run) : (g.modRun seq f).queue = g.queue := rfl
@[simp] theorem Group.modRun_runs (g : Group) (seq : Nat) (f : Run → Run) : (g.modRun seq f).runs = mapIf g.runs (·.seq == seq) f := rfl
@[simp] theorem Group.modRun_out (g : Group) (seq : Nat) (f : Run → Run) : (g.modRun seq f).out = g.out := rfl
@[simp] theorem Group.modRun_hd (g : Group) (seq : Nat) (f : Run → Run) : (g.modRun seq f).hd = g.hd := rfl
@[simp] theorem Group.modRun_hs (g : Group) (seq : Nat) (f : Run → Run) : (g.modRun seq f).hs = g.hs := rfl
@[simp] theorem Group.modRun_h1 (g : Group) (seq : Nat) (f : Run → Run) : (g.modRun seq f).h1 = g.h1 := rfl
@[simp] theorem Group.modRun_h2 (g : Group) (seq : Nat) (f : Run → Run) : (g.modRun seq f).h2 = g.h2 := rfl
@[simp] theorem Group.modRun_h3 (g : Group) (seq : Nat) (f : Run → Run) : (g.modRun seq f).h3 = g.h3 := rfl
@[simp] theorem Group.modRun_stamp0 (g : Group) (seq : Nat) (f : Run → Run) : (g.modRun seq f).stamp0 = g.stamp0 := rfl
@[simp] theorem Group.modRun_stamp1 (g : Group) (seq : Nat) (f : Run → Run) : (g.modRun seq f).stamp1 = g.stamp1 := rfl
@[simp] theorem Group.modRun_stamp2 (g : Group) (seq : Nat) (f : Run → Run) : (g.modRun seq f).stamp2 = g.stamp2 := rfl
@[simp] theorem Group.modRun_stamp3 (g : Group) (seq : Nat) (f : Run → Run) : (g.modRun seq f).stamp3 = g.stamp3 := rfl
@[simp] theorem Group.modRun_stall (g : Group) (seq : Nat) (f : Run → Run) : (g.modRun seq f).stall = g.stall := rfl
@[simp] theorem Group.modRun_sready (g : Group) (seq : Nat) (f : Run → Run) : (g.modRun seq f).sready = g.sready := rfl
@[simp] theorem Group.modRun_sboard (g : Group) (seq : Nat) (f : Run → Run) : (g.modRun seq f).sboard = g.sboard := rfl
@[simp] theorem Group.modRun_fault (g : Group) (seq : Nat) (f : Run → Run) : (g.modRun seq f).fault = g.fault := rfl
@[simp] theorem Group.modRun_heldFaults (g : Group) (seq : Nat) (f : Run → Run) : (g.modRun seq f).heldFaults = g.heldFaults := rfl
@[simp] theorem Group.modRun_preempt (g : Group) (seq : Nat) (f : Run → Run) : (g.modRun seq f).preempt = g.preempt := rfl
@[simp] theorem Group.modRun_nextStart (g : Group) (seq : Nat) (f : Run → Run) : (g.modRun seq f).nextStart = g.nextStart := rfl
@[simp] theorem Group.modRun_seqNext (g : Group) (seq : Nat) (f : Run → Run) : (g.modRun seq f).seqNext = g.seqNext := rfl
@[simp] theorem Group.modRun_pos (g : Group) (seq : Nat) (f : Run → Run) : (g.modRun seq f).pos = g.pos := rfl
@[simp] theorem Group.modRun_task (g : Group) (seq : Nat) (f : Run → Run) : (g.modRun seq f).task = g.task := rfl
@[simp] theorem Group.modRun_stretch (g : Group) (seq : Nat) (f : Run → Run) : (g.modRun seq f).stretch = g.stretch := rfl
@[simp] theorem Group.modRun_steals (g : Group) (seq : Nat) (f : Run → Run) : (g.modRun seq f).steals = g.steals := rfl
@[simp] theorem Group.modRun_launch (g : Group) (seq : Nat) (f : Run → Run) : (g.modRun seq f).launch = g.launch := rfl
@[simp] theorem Group.modRun_detPend (g : Group) (seq : Nat) (f : Run → Run) : (g.modRun seq f).detPend = g.detPend := rfl
@[simp] theorem Group.modRun_abandoned (g : Group) (seq : Nat) (f : Run → Run) : (g.modRun seq f).abandoned = g.abandoned := rfl

/-! `Group.modSide`. -/

@[simp] theorem Group.modSide_gid (g : Group) (seq side : Nat) (f : Side → Side) : (g.modSide seq side f).gid = g.gid := rfl
@[simp] theorem Group.modSide_live (g : Group) (seq side : Nat) (f : Side → Side) : (g.modSide seq side f).live = g.live := rfl
@[simp] theorem Group.modSide_team (g : Group) (seq side : Nat) (f : Side → Side) : (g.modSide seq side f).team = g.team := rfl
@[simp] theorem Group.modSide_grid (g : Group) (seq side : Nat) (f : Side → Side) : (g.modSide seq side f).grid = g.grid := rfl
@[simp] theorem Group.modSide_vf (g : Group) (seq side : Nat) (f : Side → Side) : (g.modSide seq side f).vf = g.vf := rfl
@[simp] theorem Group.modSide_core (g : Group) (seq side : Nat) (f : Side → Side) : (g.modSide seq side f).core = g.core := rfl
@[simp] theorem Group.modSide_slot (g : Group) (seq side : Nat) (f : Side → Side) : (g.modSide seq side f).slot = g.slot := rfl
@[simp] theorem Group.modSide_gidx (g : Group) (seq side : Nat) (f : Side → Side) : (g.modSide seq side f).gidx = g.gidx := rfl
@[simp] theorem Group.modSide_role (g : Group) (seq side : Nat) (f : Side → Side) : (g.modSide seq side f).role = g.role := rfl
@[simp] theorem Group.modSide_width (g : Group) (seq side : Nat) (f : Side → Side) : (g.modSide seq side f).width = g.width := rfl
@[simp] theorem Group.modSide_alloc (g : Group) (seq side : Nat) (f : Side → Side) : (g.modSide seq side f).alloc = g.alloc := rfl
@[simp] theorem Group.modSide_s (g : Group) (seq side : Nat) (f : Side → Side) : (g.modSide seq side f).s = g.s := rfl
@[simp] theorem Group.modSide_k (g : Group) (seq side : Nat) (f : Side → Side) : (g.modSide seq side f).k = g.k := rfl
@[simp] theorem Group.modSide_kc (g : Group) (seq side : Nat) (f : Side → Side) : (g.modSide seq side f).kc = g.kc := rfl
@[simp] theorem Group.modSide_klog (g : Group) (seq side : Nat) (f : Side → Side) : (g.modSide seq side f).klog = g.klog := rfl
@[simp] theorem Group.modSide_pc (g : Group) (seq side : Nat) (f : Side → Side) : (g.modSide seq side f).pc = g.pc := rfl
@[simp] theorem Group.modSide_gctl (g : Group) (seq side : Nat) (f : Side → Side) : (g.modSide seq side f).gctl = g.gctl := rfl
@[simp] theorem Group.modSide_gstat (g : Group) (seq side : Nat) (f : Side → Side) : (g.modSide seq side f).gstat = g.gstat := rfl
@[simp] theorem Group.modSide_febound (g : Group) (seq side : Nat) (f : Side → Side) : (g.modSide seq side f).febound = g.febound := rfl
@[simp] theorem Group.modSide_lease (g : Group) (seq side : Nat) (f : Side → Side) : (g.modSide seq side f).lease = g.lease := rfl
@[simp] theorem Group.modSide_acqfloor (g : Group) (seq side : Nat) (f : Side → Side) : (g.modSide seq side f).acqfloor = g.acqfloor := rfl
@[simp] theorem Group.modSide_lcb (g : Group) (seq side : Nat) (f : Side → Side) : (g.modSide seq side f).lcb = g.lcb := rfl
@[simp] theorem Group.modSide_scb (g : Group) (seq side : Nat) (f : Side → Side) : (g.modSide seq side f).scb = g.scb := rfl
@[simp] theorem Group.modSide_swords (g : Group) (seq side : Nat) (f : Side → Side) : (g.modSide seq side f).swords = g.swords := rfl
@[simp] theorem Group.modSide_lwords (g : Group) (seq side : Nat) (f : Side → Side) : (g.modSide seq side f).lwords = g.lwords := rfl
@[simp] theorem Group.modSide_v (g : Group) (seq side : Nat) (f : Side → Side) : (g.modSide seq side f).v = g.v := rfl
@[simp] theorem Group.modSide_orf (g : Group) (seq side : Nat) (f : Side → Side) : (g.modSide seq side f).orf = g.orf := rfl
@[simp] theorem Group.modSide_lrf (g : Group) (seq side : Nat) (f : Side → Side) : (g.modSide seq side f).lrf = g.lrf := rfl
@[simp] theorem Group.modSide_late (g : Group) (seq side : Nat) (f : Side → Side) : (g.modSide seq side f).late = g.late := rfl
@[simp] theorem Group.modSide_lstat (g : Group) (seq side : Nat) (f : Side → Side) : (g.modSide seq side f).lstat = g.lstat := rfl
@[simp] theorem Group.modSide_proms (g : Group) (seq side : Nat) (f : Side → Side) : (g.modSide seq side f).proms = g.proms := rfl
@[simp] theorem Group.modSide_queue (g : Group) (seq side : Nat) (f : Side → Side) : (g.modSide seq side f).queue = g.queue := rfl
@[simp] theorem Group.modSide_runs (g : Group) (seq side : Nat) (f : Side → Side) : (g.modSide seq side f).runs = mapIf g.runs (·.seq == seq) (fun r => { r with sides := mapIf r.sides (·.side == side) f }) := rfl
@[simp] theorem Group.modSide_out (g : Group) (seq side : Nat) (f : Side → Side) : (g.modSide seq side f).out = g.out := rfl
@[simp] theorem Group.modSide_hd (g : Group) (seq side : Nat) (f : Side → Side) : (g.modSide seq side f).hd = g.hd := rfl
@[simp] theorem Group.modSide_hs (g : Group) (seq side : Nat) (f : Side → Side) : (g.modSide seq side f).hs = g.hs := rfl
@[simp] theorem Group.modSide_h1 (g : Group) (seq side : Nat) (f : Side → Side) : (g.modSide seq side f).h1 = g.h1 := rfl
@[simp] theorem Group.modSide_h2 (g : Group) (seq side : Nat) (f : Side → Side) : (g.modSide seq side f).h2 = g.h2 := rfl
@[simp] theorem Group.modSide_h3 (g : Group) (seq side : Nat) (f : Side → Side) : (g.modSide seq side f).h3 = g.h3 := rfl
@[simp] theorem Group.modSide_stamp0 (g : Group) (seq side : Nat) (f : Side → Side) : (g.modSide seq side f).stamp0 = g.stamp0 := rfl
@[simp] theorem Group.modSide_stamp1 (g : Group) (seq side : Nat) (f : Side → Side) : (g.modSide seq side f).stamp1 = g.stamp1 := rfl
@[simp] theorem Group.modSide_stamp2 (g : Group) (seq side : Nat) (f : Side → Side) : (g.modSide seq side f).stamp2 = g.stamp2 := rfl
@[simp] theorem Group.modSide_stamp3 (g : Group) (seq side : Nat) (f : Side → Side) : (g.modSide seq side f).stamp3 = g.stamp3 := rfl
@[simp] theorem Group.modSide_stall (g : Group) (seq side : Nat) (f : Side → Side) : (g.modSide seq side f).stall = g.stall := rfl
@[simp] theorem Group.modSide_sready (g : Group) (seq side : Nat) (f : Side → Side) : (g.modSide seq side f).sready = g.sready := rfl
@[simp] theorem Group.modSide_sboard (g : Group) (seq side : Nat) (f : Side → Side) : (g.modSide seq side f).sboard = g.sboard := rfl
@[simp] theorem Group.modSide_fault (g : Group) (seq side : Nat) (f : Side → Side) : (g.modSide seq side f).fault = g.fault := rfl
@[simp] theorem Group.modSide_heldFaults (g : Group) (seq side : Nat) (f : Side → Side) : (g.modSide seq side f).heldFaults = g.heldFaults := rfl
@[simp] theorem Group.modSide_preempt (g : Group) (seq side : Nat) (f : Side → Side) : (g.modSide seq side f).preempt = g.preempt := rfl
@[simp] theorem Group.modSide_nextStart (g : Group) (seq side : Nat) (f : Side → Side) : (g.modSide seq side f).nextStart = g.nextStart := rfl
@[simp] theorem Group.modSide_seqNext (g : Group) (seq side : Nat) (f : Side → Side) : (g.modSide seq side f).seqNext = g.seqNext := rfl
@[simp] theorem Group.modSide_pos (g : Group) (seq side : Nat) (f : Side → Side) : (g.modSide seq side f).pos = g.pos := rfl
@[simp] theorem Group.modSide_task (g : Group) (seq side : Nat) (f : Side → Side) : (g.modSide seq side f).task = g.task := rfl
@[simp] theorem Group.modSide_stretch (g : Group) (seq side : Nat) (f : Side → Side) : (g.modSide seq side f).stretch = g.stretch := rfl
@[simp] theorem Group.modSide_steals (g : Group) (seq side : Nat) (f : Side → Side) : (g.modSide seq side f).steals = g.steals := rfl
@[simp] theorem Group.modSide_launch (g : Group) (seq side : Nat) (f : Side → Side) : (g.modSide seq side f).launch = g.launch := rfl
@[simp] theorem Group.modSide_detPend (g : Group) (seq side : Nat) (f : Side → Side) : (g.modSide seq side f).detPend = g.detPend := rfl
@[simp] theorem Group.modSide_abandoned (g : Group) (seq side : Nat) (f : Side → Side) : (g.modSide seq side f).abandoned = g.abandoned := rfl

/-! `Group.setGstat`. -/

@[simp] theorem Group.setGstat_gid (g : Group) (st : BitVec 7) : (g.setGstat st).gid = g.gid := rfl
@[simp] theorem Group.setGstat_live (g : Group) (st : BitVec 7) : (g.setGstat st).live = g.live := rfl
@[simp] theorem Group.setGstat_team (g : Group) (st : BitVec 7) : (g.setGstat st).team = g.team := rfl
@[simp] theorem Group.setGstat_grid (g : Group) (st : BitVec 7) : (g.setGstat st).grid = g.grid := rfl
@[simp] theorem Group.setGstat_vf (g : Group) (st : BitVec 7) : (g.setGstat st).vf = g.vf := rfl
@[simp] theorem Group.setGstat_core (g : Group) (st : BitVec 7) : (g.setGstat st).core = g.core := rfl
@[simp] theorem Group.setGstat_slot (g : Group) (st : BitVec 7) : (g.setGstat st).slot = g.slot := rfl
@[simp] theorem Group.setGstat_gidx (g : Group) (st : BitVec 7) : (g.setGstat st).gidx = g.gidx := rfl
@[simp] theorem Group.setGstat_role (g : Group) (st : BitVec 7) : (g.setGstat st).role = g.role := rfl
@[simp] theorem Group.setGstat_width (g : Group) (st : BitVec 7) : (g.setGstat st).width = g.width := rfl
@[simp] theorem Group.setGstat_alloc (g : Group) (st : BitVec 7) : (g.setGstat st).alloc = g.alloc := rfl
@[simp] theorem Group.setGstat_s (g : Group) (st : BitVec 7) : (g.setGstat st).s = g.s := rfl
@[simp] theorem Group.setGstat_k (g : Group) (st : BitVec 7) : (g.setGstat st).k = g.k := rfl
@[simp] theorem Group.setGstat_kc (g : Group) (st : BitVec 7) : (g.setGstat st).kc = g.kc := rfl
@[simp] theorem Group.setGstat_klog (g : Group) (st : BitVec 7) : (g.setGstat st).klog = g.klog := rfl
@[simp] theorem Group.setGstat_pc (g : Group) (st : BitVec 7) : (g.setGstat st).pc = g.pc := rfl
@[simp] theorem Group.setGstat_gctl (g : Group) (st : BitVec 7) : (g.setGstat st).gctl = g.gctl := rfl
@[simp] theorem Group.setGstat_febound (g : Group) (st : BitVec 7) : (g.setGstat st).febound = g.febound := rfl
@[simp] theorem Group.setGstat_lease (g : Group) (st : BitVec 7) : (g.setGstat st).lease = g.lease := rfl
@[simp] theorem Group.setGstat_acqfloor (g : Group) (st : BitVec 7) : (g.setGstat st).acqfloor = g.acqfloor := rfl
@[simp] theorem Group.setGstat_lcb (g : Group) (st : BitVec 7) : (g.setGstat st).lcb = g.lcb := rfl
@[simp] theorem Group.setGstat_scb (g : Group) (st : BitVec 7) : (g.setGstat st).scb = g.scb := rfl
@[simp] theorem Group.setGstat_swords (g : Group) (st : BitVec 7) : (g.setGstat st).swords = g.swords := rfl
@[simp] theorem Group.setGstat_lwords (g : Group) (st : BitVec 7) : (g.setGstat st).lwords = g.lwords := rfl
@[simp] theorem Group.setGstat_v (g : Group) (st : BitVec 7) : (g.setGstat st).v = g.v := rfl
@[simp] theorem Group.setGstat_orf (g : Group) (st : BitVec 7) : (g.setGstat st).orf = g.orf := rfl
@[simp] theorem Group.setGstat_lrf (g : Group) (st : BitVec 7) : (g.setGstat st).lrf = g.lrf := rfl
@[simp] theorem Group.setGstat_late (g : Group) (st : BitVec 7) : (g.setGstat st).late = g.late := rfl
@[simp] theorem Group.setGstat_lstat (g : Group) (st : BitVec 7) : (g.setGstat st).lstat = g.lstat := rfl
@[simp] theorem Group.setGstat_proms (g : Group) (st : BitVec 7) : (g.setGstat st).proms = g.proms := rfl
@[simp] theorem Group.setGstat_queue (g : Group) (st : BitVec 7) : (g.setGstat st).queue = g.queue := rfl
@[simp] theorem Group.setGstat_runs (g : Group) (st : BitVec 7) : (g.setGstat st).runs = g.runs := rfl
@[simp] theorem Group.setGstat_out (g : Group) (st : BitVec 7) : (g.setGstat st).out = g.out := rfl
@[simp] theorem Group.setGstat_hd (g : Group) (st : BitVec 7) : (g.setGstat st).hd = g.hd := rfl
@[simp] theorem Group.setGstat_hs (g : Group) (st : BitVec 7) : (g.setGstat st).hs = g.hs := rfl
@[simp] theorem Group.setGstat_h1 (g : Group) (st : BitVec 7) : (g.setGstat st).h1 = g.h1 := rfl
@[simp] theorem Group.setGstat_h2 (g : Group) (st : BitVec 7) : (g.setGstat st).h2 = g.h2 := rfl
@[simp] theorem Group.setGstat_h3 (g : Group) (st : BitVec 7) : (g.setGstat st).h3 = g.h3 := rfl
@[simp] theorem Group.setGstat_stamp0 (g : Group) (st : BitVec 7) : (g.setGstat st).stamp0 = g.stamp0 := rfl
@[simp] theorem Group.setGstat_stamp1 (g : Group) (st : BitVec 7) : (g.setGstat st).stamp1 = g.stamp1 := rfl
@[simp] theorem Group.setGstat_stamp2 (g : Group) (st : BitVec 7) : (g.setGstat st).stamp2 = g.stamp2 := rfl
@[simp] theorem Group.setGstat_stamp3 (g : Group) (st : BitVec 7) : (g.setGstat st).stamp3 = g.stamp3 := rfl
@[simp] theorem Group.setGstat_stall (g : Group) (st : BitVec 7) : (g.setGstat st).stall = g.stall := rfl
@[simp] theorem Group.setGstat_sready (g : Group) (st : BitVec 7) : (g.setGstat st).sready = g.sready := rfl
@[simp] theorem Group.setGstat_sboard (g : Group) (st : BitVec 7) : (g.setGstat st).sboard = g.sboard := rfl
@[simp] theorem Group.setGstat_fault (g : Group) (st : BitVec 7) : (g.setGstat st).fault = g.fault := rfl
@[simp] theorem Group.setGstat_heldFaults (g : Group) (st : BitVec 7) : (g.setGstat st).heldFaults = g.heldFaults := rfl
@[simp] theorem Group.setGstat_preempt (g : Group) (st : BitVec 7) : (g.setGstat st).preempt = g.preempt := rfl
@[simp] theorem Group.setGstat_nextStart (g : Group) (st : BitVec 7) : (g.setGstat st).nextStart = g.nextStart := rfl
@[simp] theorem Group.setGstat_seqNext (g : Group) (st : BitVec 7) : (g.setGstat st).seqNext = g.seqNext := rfl
@[simp] theorem Group.setGstat_pos (g : Group) (st : BitVec 7) : (g.setGstat st).pos = g.pos := rfl
@[simp] theorem Group.setGstat_task (g : Group) (st : BitVec 7) : (g.setGstat st).task = g.task := rfl
@[simp] theorem Group.setGstat_stretch (g : Group) (st : BitVec 7) : (g.setGstat st).stretch = g.stretch := rfl
@[simp] theorem Group.setGstat_steals (g : Group) (st : BitVec 7) : (g.setGstat st).steals = g.steals := rfl
@[simp] theorem Group.setGstat_launch (g : Group) (st : BitVec 7) : (g.setGstat st).launch = g.launch := rfl
@[simp] theorem Group.setGstat_detPend (g : Group) (st : BitVec 7) : (g.setGstat st).detPend = g.detPend := rfl
@[simp] theorem Group.setGstat_abandoned (g : Group) (st : BitVec 7) : (g.setGstat st).abandoned = g.abandoned := rfl

end Sys2Proof.Machine
end

