-- ==== Sys2Proof/Laws/Exec.lean ====
section
/-! SUPPORT. One lemma for each case of a shared operation: registers, the tables, scalar words, waits, faults, lane words and
task words. A proof about an instruction cites these and opens its own meaning alone. -/

namespace Sys2Proof.Machine

/-! Registers. -/

/-- s0 reads zero (R100). -/
@[simp] theorem Group.readS_zero (g : Group) : g.readS 0 = 0 := rfl

/-- A write to s0 is discarded (R100). -/
@[simp] theorem Group.writeS_zero (g : Group) (v : Word64) : g.writeS 0 v = g := rfl

/-- A scalar register after a write. -/
theorem Group.readS_writeS (g : Group) (d n : BitVec 6) (v : Word64) (w : smapWf 0 g.s = true) :
    (g.writeS d v).readS n = if n = d ∧ n ≠ 0 then v else g.readS n := by
  by_cases hd : d = 0
  · subst hd
    by_cases hn : n = 0 <;> simp [Group.writeS, hn]
  · by_cases hn : n = 0
    · simp [Group.readS, hn]
    · simp only [Group.readS, Group.writeS, hd, hn, if_false, sget_sset_wf g.s 0 d.toNat v n.toNat w, ne_eq, not_false_eq_true, and_true]
      by_cases e : n = d
      · simp [e]
      · have : ¬ n.toNat = d.toNat := fun h => e (BitVec.eq_of_toNat_eq h)
        simp [e, this]

/-- A mask register after a write. -/
theorem Group.readK_writeK (g : Group) (d n : BitVec 4) (v : Word64) (w : smapWf 0 g.k = true) :
    (g.writeK d v).readK n = if n = d then v else g.readK n := by
  simp only [Group.readK, Group.writeK, sget_sset_wf g.k 0 d.toNat v n.toNat w]
  by_cases e : n = d
  · simp [e]
  · have : ¬ n.toNat = d.toNat := fun h => e (BitVec.eq_of_toNat_eq h)
    simp [e, this]

/-! Tables: what a change of one entry leaves at each. -/

theorem State.part_modPart (s : State) (n m : Nat) (f : Part → Part) (w : smapWf Part.reset s.parts = true) :
    (s.modPart n f).part m = if m = n then f (s.part n) else s.part m := sget_sset_wf s.parts Part.reset n _ m w

theorem State.vdev_modVDev (s : State) (n m : Nat) (f : VDev → VDev) (w : smapWf VDev.reset s.vdevs = true) :
    (s.modVDev n f).vdev m = if m = n then f (s.vdev n) else s.vdev m := sget_sset_wf s.vdevs VDev.reset n _ m w

theorem State.core_modCore (s : State) (n m : Nat) (f : Core → Core) (w : smapWf Core.reset s.cores = true) :
    (s.modCore n f).core m = if m = n then f (s.core n) else s.core m := sget_sset_wf s.cores Core.reset n _ m w

theorem State.cluster_modCluster (s : State) (n m : Nat) (f : Cluster → Cluster) (w : smapWf Cluster.reset s.clusters = true) :
    (s.modCluster n f).cluster m = if m = n then f (s.cluster n) else s.cluster m := sget_sset_wf s.clusters Cluster.reset n _ m w

theorem State.port_modPort (s : State) (n m : Nat) (f : Port → Port) (w : smapWf Port.reset s.ports = true) :
    (s.modPort n f).port m = if m = n then f (s.port n) else s.port m := sget_sset_wf s.ports Port.reset n _ m w

/-- The first element with a property after a change that keeps the property of each. -/
theorem find?_mapIf {α : Type} (p q : α → Bool) (f : α → α) : ∀ l : List α, (∀ x ∈ l, q x = true → p (f x) = p x) →
    (mapIf l q f).find? p = (l.find? p).map (fun x => if q x then f x else x)
  | [], _ => rfl
  | x :: r, h => by
    have ih := find?_mapIf p q f r (fun y hy => h y (List.mem_cons_of_mem x hy))
    have hx := h x List.mem_cons_self
    unfold mapIf at ih ⊢
    rw [List.map_cons, List.find?_cons, List.find?_cons, ih]
    by_cases hq : q x = true
    · rw [if_pos hq, hx hq]
      cases p x
      · rfl
      · simp only [Option.map_some, if_pos hq]
    · rw [if_neg hq]
      cases p x
      · rfl
      · simp only [Option.map_some, if_neg hq]

theorem State.team?_modTeam (s : State) (a b : Nat) (f : Team → Team) (h : ∀ t, (f t).id = t.id) :
    (s.modTeam a f).team? b = (s.team? b).map (fun t => if t.id == a then f t else t) :=
  find?_mapIf (fun (t : Team) => t.id == b) (fun (t : Team) => t.id == a) f s.teams (fun t _ _ => by show ((f t).id == b) = _; rw [h])

theorem State.grid?_modGrid (s : State) (a b : Nat) (f : Grid → Grid) (h : ∀ t, (f t).id = t.id) :
    (s.modGrid a f).grid? b = (s.grid? b).map (fun t => if t.id == a then f t else t) :=
  find?_mapIf (fun (t : Grid) => t.id == b) (fun (t : Grid) => t.id == a) f s.grids (fun t _ _ => by show ((f t).id == b) = _; rw [h])

theorem State.pkt?_modPkt (s : State) (a b : Nat) (f : Pkt → Pkt) (h : ∀ t, (f t).id = t.id) :
    (s.modPkt a f).pkt? b = (s.pkt? b).map (fun t => if t.id == a then f t else t) :=
  find?_mapIf (fun (t : Pkt) => t.id == b) (fun (t : Pkt) => t.id == a) f s.pkts (fun t _ _ => by show ((f t).id == b) = _; rw [h])

theorem State.twe?_modTwe (s : State) (a b : Nat) (f : TweCmd → TweCmd) (h : ∀ t, (f t).id = t.id) :
    (s.modTwe a f).twe? b = (s.twe? b).map (fun t => if t.id == a then f t else t) :=
  find?_mapIf (fun (t : TweCmd) => t.id == b) (fun (t : TweCmd) => t.id == a) f s.twe (fun t _ _ => by show ((f t).id == b) = _; rw [h])

theorem State.op?_modOp (s : State) (a b : Nat) (f : Op → Op) (h : ∀ t, (f t).id = t.id) :
    (s.modOp a f).op? b = (s.op? b).map (fun t => if t.id == a then f t else t) :=
  find?_mapIf (fun (t : Op) => t.id == b) (fun (t : Op) => t.id == a) f s.ops (fun t _ _ => by show ((f t).id == b) = _; rw [h])

/-! Groups. -/

/-- The group at the issue position is the one of its number. -/
theorem State.group?_cur (s : State) (h : s.cur.live = true) : s.group? s.cur.gid = some s.cur := by
  simp [State.group?, h]

theorem State.modGroup_cur (s : State) (f : Group → Group) (h : s.cur.live = true) : s.modGroup s.cur.gid f = { s with cur := f s.cur } := by
  simp [State.modGroup, h]

theorem State.setGroup_cur (s : State) (g : Group) (h : s.cur.live = true) (hg : g.gid = s.cur.gid) : s.setGroup g = { s with cur := g } := by
  simp [State.setGroup, h, hg]

/-- A group after a change of its own kind that keeps its number and, at the issue position, keeps it there. -/
theorem State.group?_modGroup (s : State) (a b : Nat) (f : Group → Group) (h : ∀ g, (f g).gid = g.gid) (hl : ∀ g, (f g).live = g.live) :
    (s.modGroup a f).group? b = (s.group? b).map (fun g => if g.gid == a then f g else g) := by
  by_cases hc : (s.cur.gid == a && s.cur.live) = true
  · have e : s.modGroup a f = { s with cur := f s.cur } := if_pos hc
    obtain ⟨h1, h2⟩ := Bool.and_eq_true_iff.mp hc
    have l1 : (f s.cur).live = true := by rw [hl, h2]
    rw [e]
    by_cases hb : (s.cur.gid == b) = true
    · have e1 : State.group? { s with cur := f s.cur } b = some (f s.cur) := if_pos (by show ((f s.cur).live && (f s.cur).gid == b) = true; rw [l1, h, hb]; rfl)
      have e2 : s.group? b = some s.cur := if_pos (by rw [h2, hb]; rfl)
      rw [e1, e2, Option.map_some, if_pos h1]
    · have e1 : State.group? { s with cur := f s.cur } b = s.others.find? (fun g => g.gid == b) :=
        if_neg (by show ¬ ((f s.cur).live && (f s.cur).gid == b) = true; rw [l1, h, Bool.true_and]; exact hb)
      have e2 : s.group? b = s.others.find? (fun g => g.gid == b) := if_neg (by rw [h2, Bool.true_and]; exact hb)
      rw [e1, e2]
      cases hf : s.others.find? (fun g => g.gid == b) with
      | none => rfl
      | some g =>
        have hg : g.gid = b := by simpa using List.find?_some hf
        have : ¬ (g.gid == a) = true := fun e => hb (by rw [beq_iff_eq] at *; rw [h1, ← e, hg])
        rw [Option.map_some, if_neg this]
  · have e : s.modGroup a f = { s with others := mapIf s.others (·.gid == a) f } := if_neg hc
    rw [e]
    by_cases hb : (s.cur.live && s.cur.gid == b) = true
    · obtain ⟨h1, h2⟩ := Bool.and_eq_true_iff.mp hb
      have e1 : State.group? { s with others := mapIf s.others (·.gid == a) f } b = some s.cur := if_pos hb
      have e2 : s.group? b = some s.cur := if_pos hb
      have : ¬ (s.cur.gid == a) = true := fun e => hc (by rw [e, h1]; rfl)
      rw [e1, e2, Option.map_some, if_neg this]
    · have e1 : State.group? { s with others := mapIf s.others (·.gid == a) f } b = (mapIf s.others (·.gid == a) f).find? (fun g => g.gid == b) := if_neg hb
      have e2 : s.group? b = s.others.find? (fun g => g.gid == b) := if_neg hb
      rw [e1, e2]
      exact find?_mapIf (fun (g : Group) => g.gid == b) (fun (g : Group) => g.gid == a) f s.others (fun g _ _ => by show ((f g).gid == b) = _; rw [h])

/-! Scalar words. -/

/-- A word that acts at a live group answers a next state. -/
theorem withCur_live {s : State} (f : State) (h : s.cur.live = true) : withCur s f = .next f := by simp [withCur, h]

/-- A word without a group at the issue position is the one fault of the model. -/
theorem withCur_dead {s : State} (f : State) (h : s.cur.live = false) : withCur s f = .fault .noAgent := by simp [withCur, h]

/-- A result is written, usable after its latency, and the PC moves on (R19, R103). -/
theorem scalarWrite_done {s : State} {d : BitVec 6} (v : Word64) (lat : Nat) (h : s.cur.live = true) (hw : mayWriteS s d = true) :
    scalarWrite s d v lat = .next (s.onCur (·.result s.cycle d v lat)) := by simp [scalarWrite, withCur, h, hw]

/-- A result waits for the runs that still read its register (R33). -/
theorem scalarWrite_waits {s : State} {d : BitVec 6} (v : Word64) (lat : Nat) (h : s.cur.live = true) (hw : mayWriteS s d = false) :
    scalarWrite s d v lat = .next s.hold := by simp [scalarWrite, withCur, h, hw]

/-- A transfer to an address in the section (R101, R110). -/
theorem transfer_in (s : State) (t : Int) (f : Group → Group) (h : 0 ≤ t ∧ t < s.cur.swords) :
    transfer s t f = s.onCur (fun g => { f g with pc := t.toNat, sready := s.cycle + 2 }) := by simp [transfer, h]

/-- A transfer past the section is an ACCESS of the word (R101). -/
theorem transfer_out (s : State) (t : Int) (f : Group → Group) (h : ¬ (0 ≤ t ∧ t < s.cur.swords)) :
    transfer s t f = raiseScalar s .access (s.cur.scb + BitVec.ofInt 64 (4 * t)).toNat := by
  unfold transfer
  rw [if_neg]
  simpa using h

/-- A mask word once its masks may be read and written (R32, R33, R113). -/
theorem maskWrite_done {s : State} {d : BitVec 4} {src : List (BitVec 4)} (v : Word64) (h : s.cur.live = true) (h0 : d ≠ 0)
    (hs : src.all (mayReadK s) = true) (hw : mayWriteK s d = true) :
    maskWrite s d src v = .next (s.onCur (fun g => (g.writeK d v).next s.cycle)) := by
  rw [maskWrite, withCur_live _ h, if_neg h0, if_pos (by rw [hs, hw]; rfl)]

/-- A mask word does not write k0 (R113). -/
theorem maskWrite_k0 {s : State} (src : List (BitVec 4)) (v : Word64) (h : s.cur.live = true) :
    maskWrite s 0 src v = .next (raiseScalar s .illegalOp 0) := by simp [maskWrite, withCur, h]

/-- A mask word waits for its masks (R32, R33). -/
theorem maskWrite_waits {s : State} {d : BitVec 4} {src : List (BitVec 4)} (v : Word64) (h : s.cur.live = true) (h0 : d ≠ 0)
    (hw : (src.all (mayReadK s) && mayWriteK s d) = false) : maskWrite s d src v = .next s.hold := by
  rw [maskWrite, withCur_live _ h, if_neg h0, if_neg (by rw [hw]; exact Bool.false_ne_true)]

/-- A word waits for a tick, or acts (R217, R323, R345). -/
theorem untilTick_due (s : State) (t : Nat) (a : HorizonAct) (f : State → State) (h : t ≤ s.timeOf s.cur) : untilTick s t a f = f s := if_pos h
theorem untilTick_early (s : State) (t : Nat) (a : HorizonAct) (f : State → State) (h : s.timeOf s.cur < t) :
    untilTick s t a f = s.onCur (fun g => { g with stall := .horizon t a }) := if_neg (Nat.not_le.mpr h)

/-! Task words. -/

/-- A task word in a task of a grid launched in task mode (R343). -/
theorem taskWord_in {s : State} {d : Grid} {t : Task} (f : Grid → Task → State) (h : s.cur.live = true) (hg : s.grid? s.cur.grid = some d)
    (ht : s.cur.task = some t) (hd : d.task = true) : taskWord s f = .next (f d t) := by simp [taskWord, withCur, h, hg, ht, hd]

/-- Anywhere else it is an ACCESS (R343). -/
theorem taskWord_out {s : State} (f : Grid → Task → State) (h : s.cur.live = true)
    (hg : s.cur.task = none ∨ ∀ d, s.grid? s.cur.grid = some d → d.task = false) : taskWord s f = .next (raiseScalar s .access 0) := by
  rw [taskWord, withCur_live _ h]
  congr 1
  cases hd : s.grid? s.cur.grid with
  | none => rfl
  | some d =>
    cases ht : s.cur.task with
    | none => rfl
    | some t =>
      rcases hg with hn | hf
      · rw [ht] at hn; cases hn
      · simp [hf d hd]

/-! Lane words. -/

/-- A lane word at the issue position whose checks hold has its effect. -/
theorem laneWord_runs {i : Instr} {s : State} {q : Issue} (f : Issue → State) (h : s.cur.live = true) (hq : issueOf s i = some q)
    (hf : wordFault s s.cur q i = none) : laneWord i s f = .next (f q) := by simp [laneWord, withCur, h, hq, hf]

/-- One whose checks fail raises its fault and has no effect (R37). -/
theorem laneWord_faults {i : Instr} {s : State} {q : Issue} (f : Issue → State) {c : Code} {m : Word64} (h : s.cur.live = true)
    (hq : issueOf s i = some q) (hf : wordFault s s.cur q i = some (c, m)) : laneWord i s f = .next (raiseWord s q c m 0) := by
  simp [laneWord, withCur, h, hq, hf]

/-- A word of fixed latency leaves its landing (R26, R125). -/
theorem fixedWord_runs {i : Instr} {s : State} {q : Issue} (o : Operand) (wide : Bool) (f : Team → Nat → Word64 × BitVec 7) (h : s.cur.live = true)
    (hq : issueOf s i = some q) (hf : wordFault s s.cur q i = none) : fixedWord i o wide s f =
      .next (s.landed q i ((landing s s.cur q i).values s.cur o wide ((lanesOf q.lanes).map (fun j => (j, f (s.teamOf s.cur) j))))) := by
  rw [fixedWord, laneWord_runs _ h hq hf]

/-! Faults. -/

/-- A fault raised to the group at the issue position joins those that the end of the tick decides; a run whose word it is leaves its stream,
and the head has no age (R287, R291, R370). -/
theorem raise_cur (s : State) (fr : FaultRec) (h : s.cur.live = true) : raise s s.cur.gid fr = { s with cur :=
    { (match faultRun s fr with | some (seq, _) => s.cur.split seq | none => s.cur).ageless with heldFaults := s.cur.heldFaults ++ [fr] } } :=
  s.modGroup_cur _ h

/-- A fault of a scalar word leaves the runs of its group as they are (R291, R370). -/
theorem raiseScalar_cur (s : State) (c : Code) (a : Nat) (h : s.cur.live = true) : raiseScalar s c a =
    { s with cur := { s.cur.ageless with heldFaults := s.cur.heldFaults ++ [scalarFault s s.cur c a] } } :=
  s.modGroup_cur _ h

/-- A group halted with a fault keeps the others until containment has answered it (R370). -/
theorem takeFault_halted {s : State} {gid : Nat} {g : Group} (hg : s.group? gid = some g) (hf : g.fault.isSome = true) :
    takeFault s gid = s := by simp [takeFault, hg, hf]

/-- Nothing raised, nothing taken. -/
theorem takeFault_none {s : State} {gid : Nat} {g : Group} (hg : s.group? gid = some g) (hl : g.heldFaults = []) : takeFault s gid = s := by
  simp [takeFault, hg, hl, leastBy]

/-- Containment takes the first of the undecided faults of a group that is not halted (R370). -/
theorem takeFault_first {s : State} {gid : Nat} {g : Group} {fr : FaultRec} (hg : s.group? gid = some g) (hf : g.fault = none)
    (hl : leastBy (faultKey s) g.heldFaults = some fr) :
    takeFault s gid = contain (s.setGroup { g with heldFaults := g.heldFaults.erase fr }) gid fr := by simp [takeFault, hg, hf, hl]

/-- Containment by each policy (R370, R371). -/
theorem contain_halt {s : State} {gid : Nat} {g : Group} {fr : FaultRec} {l : Nat} (hg : s.group? gid = some g)
    (hp : policyOf s g.grid g.vf fr.code = (.halt, l)) : contain s gid fr = halt s gid fr l := by simp [contain, hg, hp]
theorem contain_ignore {s : State} {gid : Nat} {g : Group} {fr : FaultRec} {l : Nat} (hg : s.group? gid = some g)
    (hp : policyOf s g.grid g.vf fr.code = (.ignore, l)) : contain s gid fr = resolve s gid fr false := by simp [contain, hg, hp]
theorem contain_retry {s : State} {gid : Nat} {g : Group} {fr : FaultRec} {l : Nat} (hg : s.group? gid = some g)
    (hp : policyOf s g.grid g.vf fr.code = (.retry, l)) : contain s gid fr = resolve s gid fr true := by simp [contain, hg, hp]

/-- No group, no fault. -/
theorem contain_none {s : State} {gid : Nat} (fr : FaultRec) (hg : s.group? gid = none) : contain s gid fr = s := by simp [contain, hg]

/-! Memory. -/

/-- A write on its way leaves memory as it is until it is visible (R208). -/
@[simp] theorem arrive_mem (s : State) (pa : Nat) (b : List Byte) (path : Nat) (r : WRef) : (arrive s pa b path r).2.mem = s.mem := rfl

/-- It is the last of the writes on their way, visible at the instant it returns. -/
theorem arrive_writes (s : State) (pa : Nat) (b : List Byte) (path : Nat) (r : WRef) :
    (arrive s pa b path r).2.writes = s.writes ++ [
      { id := s.nextId, pa := pa, bytes := b, v := (arrive s pa b path r).1, path := path, ref := r, keep := [],
        core := WRef.core (s.count (ctrL2 (homeOf pa) 3) (sget s.leases 0 (regionOf pa) - s.homeTime pa)) r, via := none }] := rfl

/-- Bytes put in place read as written; every other byte as before. -/
theorem putBytes_get (s : State) (pa : Nat) (b : List Byte) (v path k : Nat) (w : Memory.wf s.mem = true) :
    sget (putBytes s pa b v path).mem 0 k = if pa ≤ k ∧ k < pa + b.length then b.getD (k - pa) 0 else sget s.mem 0 k :=
  sget_writeBytes b s.mem pa k w

/-- Nothing is signalled to memory. -/
@[simp] theorem signal_mem (s : State) (fn vec : Nat) : (s.signal fn vec).mem = s.mem := by
  unfold State.signal
  dsimp only
  split <;> rfl

end Sys2Proof.Machine
end

