-- ==== Sys2Proof/Laws/PerInstr.lean ====
section
/-! SUPPORT. Statements for all instructions, one lemma for each constructor: an instruction has at most one encoding, of one word of the
scalar or of the lane code, and no bit of it lies outside that word. -/

namespace Sys2Proof.Laws.OneEncoding

/-- The instruction is no word of both codes, and its encoding fills one word: 32 bits in the scalar code, 96 in the lane code (R68, R75). -/
def Statement (i : Instr) : Prop :=
  (encodeScalar i = none ∨ encodeLane i = none) ∧ ∀ n w, encode i = some (n, w) → (n = 32 ∨ n = 96) ∧ w < 2 ^ n

/-- An encoding fills one word. -/
theorem sized (i : Instr) (n w : Nat) (h : encode i = some (n, w)) : (n = 32 ∨ n = 96) ∧ w < 2 ^ n := by
  unfold encode at h
  split at h
  · rename_i x _
    obtain ⟨rfl, rfl⟩ := Prod.mk.inj (Option.some.inj h)
    exact ⟨Or.inl rfl, x.isLt⟩
  · split at h
    · rename_i x _
      obtain ⟨rfl, rfl⟩ := Prod.mk.inj (Option.some.inj h)
      exact ⟨Or.inr rfl, x.isLt⟩
    · cases h

theorem add (d : BitVec 6) (a : BitVec 6) (b : BitVec 6) : Statement (.add d a b) := ⟨Or.inr rfl, sized _⟩
theorem sub (d : BitVec 6) (a : BitVec 6) (b : BitVec 6) : Statement (.sub d a b) := ⟨Or.inr rfl, sized _⟩
theorem and (d : BitVec 6) (a : BitVec 6) (b : BitVec 6) : Statement (.and d a b) := ⟨Or.inr rfl, sized _⟩
theorem or (d : BitVec 6) (a : BitVec 6) (b : BitVec 6) : Statement (.or d a b) := ⟨Or.inr rfl, sized _⟩
theorem xor (d : BitVec 6) (a : BitVec 6) (b : BitVec 6) : Statement (.xor d a b) := ⟨Or.inr rfl, sized _⟩
theorem andn (d : BitVec 6) (a : BitVec 6) (b : BitVec 6) : Statement (.andn d a b) := ⟨Or.inr rfl, sized _⟩
theorem shl (d : BitVec 6) (a : BitVec 6) (b : BitVec 6) : Statement (.shl d a b) := ⟨Or.inr rfl, sized _⟩
theorem shr (d : BitVec 6) (a : BitVec 6) (b : BitVec 6) : Statement (.shr d a b) := ⟨Or.inr rfl, sized _⟩
theorem sra (d : BitVec 6) (a : BitVec 6) (b : BitVec 6) : Statement (.sra d a b) := ⟨Or.inr rfl, sized _⟩
theorem min (d : BitVec 6) (a : BitVec 6) (b : BitVec 6) : Statement (.min d a b) := ⟨Or.inr rfl, sized _⟩
theorem max (d : BitVec 6) (a : BitVec 6) (b : BitVec 6) : Statement (.max d a b) := ⟨Or.inr rfl, sized _⟩
theorem minn (d : BitVec 6) (a : BitVec 6) (b : BitVec 6) : Statement (.minn d a b) := ⟨Or.inr rfl, sized _⟩
theorem maxn (d : BitVec 6) (a : BitVec 6) (b : BitVec 6) : Statement (.maxn d a b) := ⟨Or.inr rfl, sized _⟩
theorem seq (d : BitVec 6) (a : BitVec 6) (b : BitVec 6) : Statement (.seq d a b) := ⟨Or.inr rfl, sized _⟩
theorem slt (d : BitVec 6) (a : BitVec 6) (b : BitVec 6) : Statement (.slt d a b) := ⟨Or.inr rfl, sized _⟩
theorem sltn (d : BitVec 6) (a : BitVec 6) (b : BitVec 6) : Statement (.sltn d a b) := ⟨Or.inr rfl, sized _⟩
theorem mul (d : BitVec 6) (a : BitVec 6) (b : BitVec 6) : Statement (.mul d a b) := ⟨Or.inr rfl, sized _⟩
theorem mulh (d : BitVec 6) (a : BitVec 6) (b : BitVec 6) : Statement (.mulh d a b) := ⟨Or.inr rfl, sized _⟩
theorem mulhn (d : BitVec 6) (a : BitVec 6) (b : BitVec 6) : Statement (.mulhn d a b) := ⟨Or.inr rfl, sized _⟩
theorem div (d : BitVec 6) (a : BitVec 6) (b : BitVec 6) : Statement (.div d a b) := ⟨Or.inr rfl, sized _⟩
theorem divn (d : BitVec 6) (a : BitVec 6) (b : BitVec 6) : Statement (.divn d a b) := ⟨Or.inr rfl, sized _⟩
theorem rem (d : BitVec 6) (a : BitVec 6) (b : BitVec 6) : Statement (.rem d a b) := ⟨Or.inr rfl, sized _⟩
theorem remn (d : BitVec 6) (a : BitVec 6) (b : BitVec 6) : Statement (.remn d a b) := ⟨Or.inr rfl, sized _⟩
theorem popc (d : BitVec 6) (a : BitVec 6) : Statement (.popc d a) := ⟨Or.inr rfl, sized _⟩
theorem clz (d : BitVec 6) (a : BitVec 6) : Statement (.clz d a) := ⟨Or.inr rfl, sized _⟩
theorem ctz (d : BitVec 6) (a : BitVec 6) : Statement (.ctz d a) := ⟨Or.inr rfl, sized _⟩
theorem sext (d : BitVec 6) (a : BitVec 6) (p : BitVec 6) : Statement (.sext d a p) := ⟨Or.inr rfl, sized _⟩
theorem addi (d : BitVec 6) (a : BitVec 6) (i : BitVec 14) : Statement (.addi d a i) := ⟨Or.inr rfl, sized _⟩
theorem andi (d : BitVec 6) (a : BitVec 6) (i : BitVec 14) : Statement (.andi d a i) := ⟨Or.inr rfl, sized _⟩
theorem ori (d : BitVec 6) (a : BitVec 6) (i : BitVec 14) : Statement (.ori d a i) := ⟨Or.inr rfl, sized _⟩
theorem xori (d : BitVec 6) (a : BitVec 6) (i : BitVec 14) : Statement (.xori d a i) := ⟨Or.inr rfl, sized _⟩
theorem shli (d : BitVec 6) (a : BitVec 6) (i : BitVec 14) : Statement (.shli d a i) := ⟨Or.inr rfl, sized _⟩
theorem shri (d : BitVec 6) (a : BitVec 6) (i : BitVec 14) : Statement (.shri d a i) := ⟨Or.inr rfl, sized _⟩
theorem srai (d : BitVec 6) (a : BitVec 6) (i : BitVec 14) : Statement (.srai d a i) := ⟨Or.inr rfl, sized _⟩
theorem slti (d : BitVec 6) (a : BitVec 6) (i : BitVec 14) : Statement (.slti d a i) := ⟨Or.inr rfl, sized _⟩
theorem sltni (d : BitVec 6) (a : BitVec 6) (i : BitVec 14) : Statement (.sltni d a i) := ⟨Or.inr rfl, sized _⟩
theorem li (d : BitVec 6) (i : BitVec 20) : Statement (.li d i) := ⟨Or.inr rfl, sized _⟩
theorem lhi (d : BitVec 6) (i : BitVec 20) : Statement (.lhi d i) := ⟨Or.inr rfl, sized _⟩
theorem lxi (d : BitVec 6) (i : BitVec 20) : Statement (.lxi d i) := ⟨Or.inr rfl, sized _⟩
theorem pcrel (d : BitVec 6) (i : BitVec 20) : Statement (.pcrel d i) := ⟨Or.inr rfl, sized _⟩
theorem sld (d : BitVec 6) (a : BitVec 6) (i : BitVec 14) : Statement (.sld d a i) := ⟨Or.inr rfl, sized _⟩
theorem sst (d : BitVec 6) (a : BitVec 6) (i : BitVec 14) : Statement (.sst d a i) := ⟨Or.inr rfl, sized _⟩
theorem sldp (d : BitVec 6) (a : BitVec 6) (i : BitVec 14) : Statement (.sldp d a i) := ⟨Or.inr rfl, sized _⟩
theorem sstp (d : BitVec 6) (a : BitVec 6) (i : BitVec 14) : Statement (.sstp d a i) := ⟨Or.inr rfl, sized _⟩
theorem bCc (c : BitVec 4) (a : BitVec 6) (i : BitVec 16) : Statement (.bCc c a i) := ⟨Or.inr rfl, sized _⟩
theorem call (i : BitVec 20) : Statement (.call i) := ⟨Or.inr rfl, sized _⟩
theorem jr (a : BitVec 6) : Statement (.jr a) := ⟨Or.inr rfl, sized _⟩
theorem kand (d : BitVec 4) (a : BitVec 4) (b : BitVec 4) : Statement (.kand d a b) := ⟨Or.inr rfl, sized _⟩
theorem kor (d : BitVec 4) (a : BitVec 4) (b : BitVec 4) : Statement (.kor d a b) := ⟨Or.inr rfl, sized _⟩
theorem kxor (d : BitVec 4) (a : BitVec 4) (b : BitVec 4) : Statement (.kxor d a b) := ⟨Or.inr rfl, sized _⟩
theorem kandn (d : BitVec 4) (a : BitVec 4) (b : BitVec 4) : Statement (.kandn d a b) := ⟨Or.inr rfl, sized _⟩
theorem knot (d : BitVec 4) (a : BitVec 4) : Statement (.knot d a) := ⟨Or.inr rfl, sized _⟩
theorem kmovk (d : BitVec 4) (s : BitVec 6) : Statement (.kmovk d s) := ⟨Or.inr rfl, sized _⟩
theorem kmovs (a : BitVec 4) (s : BitVec 6) : Statement (.kmovs a s) := ⟨Or.inr rfl, sized _⟩
theorem kmovsNw (a : BitVec 4) (s : BitVec 6) : Statement (.kmovsNw a s) := ⟨Or.inr rfl, sized _⟩
theorem kpop (a : BitVec 4) (s : BitVec 6) : Statement (.kpop a s) := ⟨Or.inr rfl, sized _⟩
theorem kfirst (a : BitVec 4) (s : BitVec 6) : Statement (.kfirst a s) := ⟨Or.inr rfl, sized _⟩
theorem kset (d : BitVec 4) : Statement (.kset d) := ⟨Or.inr rfl, sized _⟩
theorem run (w : BitVec 8) (l : BitVec 1) (i : BitVec 17) : Statement (.run w l i) := ⟨Or.inr rfl, sized _⟩
theorem run2 (w : BitVec 8) (k : BitVec 4) (a : BitVec 6) (b : BitVec 6) : Statement (.run2 w k a b) := ⟨Or.inr rfl, sized _⟩
theorem wait (t : BitVec 8) : Statement (.wait t) := ⟨Or.inr rfl, sized _⟩
theorem sleep (a : BitVec 6) : Statement (.sleep a) := ⟨Or.inr rfl, sized _⟩
theorem cpy (a : BitVec 6) (b : BitVec 6) : Statement (.cpy a b) := ⟨Or.inr rfl, sized _⟩
theorem cpym (a : BitVec 6) (b : BitVec 6) : Statement (.cpym a b) := ⟨Or.inr rfl, sized _⟩
theorem cpyc (a : BitVec 6) (b : BitVec 6) : Statement (.cpyc a b) := ⟨Or.inr rfl, sized _⟩
theorem qpush (a : BitVec 6) (b : BitVec 6) (n : BitVec 1) : Statement (.qpush a b n) := ⟨Or.inr rfl, sized _⟩
theorem qpoll (a : BitVec 6) (b : BitVec 6) : Statement (.qpoll a b) := ⟨Or.inr rfl, sized _⟩
theorem barInit (a : BitVec 6) (b : BitVec 6) : Statement (.barInit a b) := ⟨Or.inr rfl, sized _⟩
theorem barArr (a : BitVec 6) (b : BitVec 6) : Statement (.barArr a b) := ⟨Or.inr rfl, sized _⟩
theorem barExp (a : BitVec 6) (b : BitVec 6) : Statement (.barExp a b) := ⟨Or.inr rfl, sized _⟩
theorem barWait (a : BitVec 6) (b : BitVec 6) : Statement (.barWait a b) := ⟨Or.inr rfl, sized _⟩
theorem ffaLdj (a : BitVec 6) (b : BitVec 6) : Statement (.ffaLdj a b) := ⟨Or.inr rfl, sized _⟩
theorem ffaLdh (a : BitVec 6) (b : BitVec 6) : Statement (.ffaLdh a b) := ⟨Or.inr rfl, sized _⟩
theorem ffaLdc (a : BitVec 6) : Statement (.ffaLdc a) := ⟨Or.inr rfl, sized _⟩
theorem ffaClamp (a : BitVec 6) (b : BitVec 6) : Statement (.ffaClamp a b) := ⟨Or.inr rfl, sized _⟩
theorem ffaBeta (a : BitVec 6) : Statement (.ffaBeta a) := ⟨Or.inr rfl, sized _⟩
theorem ffaMode (a : BitVec 6) (b : BitVec 6) : Statement (.ffaMode a b) := ⟨Or.inr rfl, sized _⟩
theorem ffaSweep (a : BitVec 6) (b : BitVec 6) : Statement (.ffaSweep a b) := ⟨Or.inr rfl, sized _⟩
theorem ffaRdc (a : BitVec 6) (b : BitVec 6) : Statement (.ffaRdc a b) := ⟨Or.inr rfl, sized _⟩
theorem ffaRds (a : BitVec 6) : Statement (.ffaRds a) := ⟨Or.inr rfl, sized _⟩
theorem ffaZc (a : BitVec 6) : Statement (.ffaZc a) := ⟨Or.inr rfl, sized _⟩
theorem ffaBnd (a : BitVec 6) (b : BitVec 6) : Statement (.ffaBnd a b) := ⟨Or.inr rfl, sized _⟩
theorem ffaHs (a : BitVec 6) : Statement (.ffaHs a) := ⟨Or.inr rfl, sized _⟩
theorem spawn (a : BitVec 6) (b : BitVec 6) : Statement (.spawn a b) := ⟨Or.inr rfl, sized _⟩
theorem yield (a : BitVec 6) : Statement (.yield a) := ⟨Or.inr rfl, sized _⟩
theorem tend : Statement .tend := ⟨Or.inr rfl, sized _⟩
theorem scopeOpen : Statement .scopeOpen := ⟨Or.inr rfl, sized _⟩
theorem scopeClose (a : BitVec 6) : Statement (.scopeClose a) := ⟨Or.inr rfl, sized _⟩
theorem vaddr (a : BitVec 6) (b : BitVec 6) : Statement (.vaddr a b) := ⟨Or.inr rfl, sized _⟩
theorem nop : Statement .nop := ⟨Or.inr rfl, sized _⟩
theorem rdsr (a : BitVec 6) (b : BitVec 6) : Statement (.rdsr a b) := ⟨Or.inr rfl, sized _⟩
theorem wrsr (a : BitVec 6) (b : BitVec 6) : Statement (.wrsr a b) := ⟨Or.inr rfl, sized _⟩
theorem rdgtc (a : BitVec 6) : Statement (.rdgtc a) := ⟨Or.inr rfl, sized _⟩
theorem fence (s : BitVec 2) : Statement (.fence s) := ⟨Or.inr rfl, sized _⟩
theorem xfence (q : BitVec 2) (p : BitVec 2) : Statement (.xfence q p) := ⟨Or.inr rfl, sized _⟩
theorem trap (a : BitVec 6) (c : BitVec 4) : Statement (.trap a c) := ⟨Or.inr rfl, sized _⟩
theorem brk (c : BitVec 4) : Statement (.brk c) := ⟨Or.inr rfl, sized _⟩
theorem exit : Statement .exit := ⟨Or.inr rfl, sized _⟩
theorem iadd (w : LaneOp) : Statement (.iadd w) := ⟨Or.inl rfl, sized _⟩
theorem isub (w : LaneOp) : Statement (.isub w) := ⟨Or.inl rfl, sized _⟩
theorem imul (w : LaneOp) : Statement (.imul w) := ⟨Or.inl rfl, sized _⟩
theorem imulh (w : LaneOp) : Statement (.imulh w) := ⟨Or.inl rfl, sized _⟩
theorem imad (w : LaneOp) : Statement (.imad w) := ⟨Or.inl rfl, sized _⟩
theorem idiv (w : LaneOp) : Statement (.idiv w) := ⟨Or.inl rfl, sized _⟩
theorem irem (w : LaneOp) : Statement (.irem w) := ⟨Or.inl rfl, sized _⟩
theorem iabs (w : LaneOp) : Statement (.iabs w) := ⟨Or.inl rfl, sized _⟩
theorem imin (w : LaneOp) : Statement (.imin w) := ⟨Or.inl rfl, sized _⟩
theorem imax (w : LaneOp) : Statement (.imax w) := ⟨Or.inl rfl, sized _⟩
theorem laneAnd (w : LaneOp) : Statement (.laneAnd w) := ⟨Or.inl rfl, sized _⟩
theorem laneOr (w : LaneOp) : Statement (.laneOr w) := ⟨Or.inl rfl, sized _⟩
theorem laneXor (w : LaneOp) : Statement (.laneXor w) := ⟨Or.inl rfl, sized _⟩
theorem not (w : LaneOp) : Statement (.not w) := ⟨Or.inl rfl, sized _⟩
theorem laneShl (w : LaneOp) : Statement (.laneShl w) := ⟨Or.inl rfl, sized _⟩
theorem laneShr (w : LaneOp) : Statement (.laneShr w) := ⟨Or.inl rfl, sized _⟩
theorem laneSra (w : LaneOp) : Statement (.laneSra w) := ⟨Or.inl rfl, sized _⟩
theorem lanePopc (w : LaneOp) : Statement (.lanePopc w) := ⟨Or.inl rfl, sized _⟩
theorem laneClz (w : LaneOp) : Statement (.laneClz w) := ⟨Or.inl rfl, sized _⟩
theorem bfe (w : LaneOp) : Statement (.bfe w) := ⟨Or.inl rfl, sized _⟩
theorem bfi (w : LaneOp) : Statement (.bfi w) := ⟨Or.inl rfl, sized _⟩
theorem mov (w : LaneOp) : Statement (.mov w) := ⟨Or.inl rfl, sized _⟩
theorem movs (w : LaneOp) : Statement (.movs w) := ⟨Or.inl rfl, sized _⟩
theorem laneLi (w : LiOp) : Statement (.laneLi w) := ⟨Or.inl rfl, sized _⟩
theorem fadd (w : LaneOp) : Statement (.fadd w) := ⟨Or.inl rfl, sized _⟩
theorem fsub (w : LaneOp) : Statement (.fsub w) := ⟨Or.inl rfl, sized _⟩
theorem fmul (w : LaneOp) : Statement (.fmul w) := ⟨Or.inl rfl, sized _⟩
theorem ffma (w : LaneOp) : Statement (.ffma w) := ⟨Or.inl rfl, sized _⟩
theorem fmin (w : LaneOp) : Statement (.fmin w) := ⟨Or.inl rfl, sized _⟩
theorem fmax (w : LaneOp) : Statement (.fmax w) := ⟨Or.inl rfl, sized _⟩
theorem fdiv (w : LaneOp) : Statement (.fdiv w) := ⟨Or.inl rfl, sized _⟩
theorem fsqrt (w : LaneOp) : Statement (.fsqrt w) := ⟨Or.inl rfl, sized _⟩
theorem frcp (w : LaneOp) : Statement (.frcp w) := ⟨Or.inl rfl, sized _⟩
theorem frsq (w : LaneOp) : Statement (.frsq w) := ⟨Or.inl rfl, sized _⟩
theorem fex2 (w : LaneOp) : Statement (.fex2 w) := ⟨Or.inl rfl, sized _⟩
theorem flg2 (w : LaneOp) : Statement (.flg2 w) := ⟨Or.inl rfl, sized _⟩
theorem fsin (w : LaneOp) : Statement (.fsin w) := ⟨Or.inl rfl, sized _⟩
theorem fcos (w : LaneOp) : Statement (.fcos w) := ⟨Or.inl rfl, sized _⟩
theorem ftanh (w : LaneOp) : Statement (.ftanh w) := ⟨Or.inl rfl, sized _⟩
theorem hadd (w : LaneOp) : Statement (.hadd w) := ⟨Or.inl rfl, sized _⟩
theorem hmul (w : LaneOp) : Statement (.hmul w) := ⟨Or.inl rfl, sized _⟩
theorem hfma (w : LaneOp) : Statement (.hfma w) := ⟨Or.inl rfl, sized _⟩
theorem hmin (w : LaneOp) : Statement (.hmin w) := ⟨Or.inl rfl, sized _⟩
theorem hmax (w : LaneOp) : Statement (.hmax w) := ⟨Or.inl rfl, sized _⟩
theorem cvt (w : LaneOp) : Statement (.cvt w) := ⟨Or.inl rfl, sized _⟩
theorem qnt (w : LaneOp) : Statement (.qnt w) := ⟨Or.inl rfl, sized _⟩
theorem dqn (w : LaneOp) : Statement (.dqn w) := ⟨Or.inl rfl, sized _⟩
theorem pk6 (w : LaneOp) : Statement (.pk6 w) := ⟨Or.inl rfl, sized _⟩
theorem up6 (w : LaneOp) : Statement (.up6 w) := ⟨Or.inl rfl, sized _⟩
theorem pk4 (w : LaneOp) : Statement (.pk4 w) := ⟨Or.inl rfl, sized _⟩
theorem up4 (w : LaneOp) : Statement (.up4 w) := ⟨Or.inl rfl, sized _⟩
theorem icmp (w : LaneOp) : Statement (.icmp w) := ⟨Or.inl rfl, sized _⟩
theorem fcmp (w : LaneOp) : Statement (.fcmp w) := ⟨Or.inl rfl, sized _⟩
theorem sel (w : LaneOp) : Statement (.sel w) := ⟨Or.inl rfl, sized _⟩
theorem kwr (w : LaneOp) : Statement (.kwr w) := ⟨Or.inl rfl, sized _⟩
theorem shfl (w : LaneOp) : Statement (.shfl w) := ⟨Or.inl rfl, sized _⟩
theorem bcast (w : LaneOp) : Statement (.bcast w) := ⟨Or.inl rfl, sized _⟩
theorem vote (w : LaneOp) : Statement (.vote w) := ⟨Or.inl rfl, sized _⟩
theorem radd (w : LaneOp) : Statement (.radd w) := ⟨Or.inl rfl, sized _⟩
theorem rmin (w : LaneOp) : Statement (.rmin w) := ⟨Or.inl rfl, sized _⟩
theorem rmax (w : LaneOp) : Statement (.rmax w) := ⟨Or.inl rfl, sized _⟩
theorem scan (w : LaneOp) : Statement (.scan w) := ⟨Or.inl rfl, sized _⟩
theorem rdst (w : LaneOp) : Statement (.rdst w) := ⟨Or.inl rfl, sized _⟩
theorem clst (w : LaneOp) : Statement (.clst w) := ⟨Or.inl rfl, sized _⟩
theorem ld (w : MemOp) : Statement (.ld w) := ⟨Or.inl rfl, sized _⟩
theorem st (w : MemOp) : Statement (.st w) := ⟨Or.inl rfl, sized _⟩
theorem ldF (w : MemOp) : Statement (.ldF w) := ⟨Or.inl rfl, sized _⟩
theorem ldFe (w : MemOp) : Statement (.ldFe w) := ⟨Or.inl rfl, sized _⟩
theorem stEf (w : MemOp) : Statement (.stEf w) := ⟨Or.inl rfl, sized _⟩
theorem stF (w : MemOp) : Statement (.stF w) := ⟨Or.inl rfl, sized _⟩
theorem feSet (w : MemOp) : Statement (.feSet w) := ⟨Or.inl rfl, sized _⟩
theorem feClr (w : MemOp) : Statement (.feClr w) := ⟨Or.inl rfl, sized _⟩
theorem feProbe (w : MemOp) : Statement (.feProbe w) := ⟨Or.inl rfl, sized _⟩
theorem pref (w : MemOp) : Statement (.pref w) := ⟨Or.inl rfl, sized _⟩
theorem pin (w : MemOp) : Statement (.pin w) := ⟨Or.inl rfl, sized _⟩
theorem unpin (w : MemOp) : Statement (.unpin w) := ⟨Or.inl rfl, sized _⟩
theorem lrefill (w : MemOp) : Statement (.lrefill w) := ⟨Or.inl rfl, sized _⟩
theorem atom (w : MemOp) : Statement (.atom w) := ⟨Or.inl rfl, sized _⟩
theorem red (w : MemOp) : Statement (.red w) := ⟨Or.inl rfl, sized _⟩
theorem mxQ (w : LaneOp) : Statement (.mxQ w) := ⟨Or.inl rfl, sized _⟩
theorem mxZero (w : LaneOp) : Statement (.mxZero w) := ⟨Or.inl rfl, sized _⟩
theorem mxRd (w : LaneOp) : Statement (.mxRd w) := ⟨Or.inl rfl, sized _⟩
theorem mxWr (w : LaneOp) : Statement (.mxWr w) := ⟨Or.inl rfl, sized _⟩
theorem mxDrain (w : LaneOp) : Statement (.mxDrain w) := ⟨Or.inl rfl, sized _⟩
theorem rng (w : LaneOp) : Statement (.rng w) := ⟨Or.inl rfl, sized _⟩
theorem runFetch (g : Nat) : Statement (.runFetch g) := ⟨Or.inl rfl, sized _⟩
theorem runStart (core : Nat) : Statement (.runStart core) := ⟨Or.inl rfl, sized _⟩
theorem fixedLatencyLanding (g : Nat) : Statement (.fixedLatencyLanding g) := ⟨Or.inl rfl, sized _⟩
theorem accessComplete (op : Nat) : Statement (.accessComplete op) := ⟨Or.inl rfl, sized _⟩
theorem parkedRunResume (g : Nat) : Statement (.parkedRunResume g) := ⟨Or.inl rfl, sized _⟩
theorem issueGrantArm (core : Nat) : Statement (.issueGrantArm core) := ⟨Or.inl rfl, sized _⟩
theorem lostLocalityWindow (core : Nat) : Statement (.lostLocalityWindow core) := ⟨Or.inl rfl, sized _⟩
theorem homeWriteArrival (op lane : Nat) : Statement (.homeWriteArrival op lane) := ⟨Or.inl rfl, sized _⟩
theorem writeVisible : Statement .writeVisible := ⟨Or.inl rfl, sized _⟩
theorem homeRead (op lane : Nat) : Statement (.homeRead op lane) := ⟨Or.inl rfl, sized _⟩
theorem leaseExpiry (core region : Nat) : Statement (.leaseExpiry core region) := ⟨Or.inl rfl, sized _⟩
theorem pageWalk (vf : Nat) (va : Word64) : Statement (.pageWalk vf va) := ⟨Or.inl rfl, sized _⟩
theorem priResponse (vf page : Nat) (granted : Bool) : Statement (.priResponse vf page granted) := ⟨Or.inl rfl, sized _⟩
theorem translationInvalidation (vf : Nat) (va : Word64) : Statement (.translationInvalidation vf va) := ⟨Or.inl rfl, sized _⟩
theorem feWaitBoundExpiry (op : Nat) : Statement (.feWaitBoundExpiry op) := ⟨Or.inl rfl, sized _⟩
theorem antRequest (op home : Nat) : Statement (.antRequest op home) := ⟨Or.inl rfl, sized _⟩
theorem sleepDeadline (g : Nat) : Statement (.sleepDeadline g) := ⟨Or.inl rfl, sized _⟩
theorem barWaitTimeout (g : Nat) : Statement (.barWaitTimeout g) := ⟨Or.inl rfl, sized _⟩
theorem mxFusionWindowClose (req : Nat) : Statement (.mxFusionWindowClose req) := ⟨Or.inl rfl, sized _⟩
theorem mxGrantArm (cluster : Nat) : Statement (.mxGrantArm cluster) := ⟨Or.inl rfl, sized _⟩
theorem mxPassGrant (cluster : Nat) : Statement (.mxPassGrant cluster) := ⟨Or.inl rfl, sized _⟩
theorem mxPassCommit (cluster : Nat) : Statement (.mxPassCommit cluster) := ⟨Or.inl rfl, sized _⟩
theorem slotPortService (req : Nat) : Statement (.slotPortService req) := ⟨Or.inl rfl, sized _⟩
theorem ffaCommandPerform (team : Nat) : Statement (.ffaCommandPerform team) := ⟨Or.inl rfl, sized _⟩
theorem ffaSweepPerform (team : Nat) : Statement (.ffaSweepPerform team) := ⟨Or.inl rfl, sized _⟩
theorem boundaryPublication (msg : Nat) : Statement (.boundaryPublication msg) := ⟨Or.inl rfl, sized _⟩
theorem boundaryWaitExpiry (team : Nat) : Statement (.boundaryWaitExpiry team) := ⟨Or.inl rfl, sized _⟩
theorem healthWindowClose (team count : Nat) : Statement (.healthWindowClose team count) := ⟨Or.inl rfl, sized _⟩
theorem tweReceiverWrite (cmd receiver : Nat) : Statement (.tweReceiverWrite cmd receiver) := ⟨Or.inl rfl, sized _⟩
theorem guardWaitExpiry (cmd receiver : Nat) : Statement (.guardWaitExpiry cmd receiver) := ⟨Or.inl rfl, sized _⟩
theorem tweCommandComplete (cmd : Nat) : Statement (.tweCommandComplete cmd) := ⟨Or.inl rfl, sized _⟩
theorem collectiveCombine (cmd : Nat) : Statement (.collectiveCombine cmd) := ⟨Or.inl rfl, sized _⟩
theorem collectiveWaitExpiry (cmd : Nat) : Statement (.collectiveWaitExpiry cmd) := ⟨Or.inl rfl, sized _⟩
theorem qpushBoundExpiry (g : Nat) : Statement (.qpushBoundExpiry g) := ⟨Or.inl rfl, sized _⟩
theorem qpushEntryFreed (g : Nat) : Statement (.qpushEntryFreed g) := ⟨Or.inl rfl, sized _⟩
theorem deferredSubmit (grid : Nat) : Statement (.deferredSubmit grid) := ⟨Or.inl rfl, sized _⟩
theorem runnerIdleRetry (g : Nat) : Statement (.runnerIdleRetry g) := ⟨Or.inl rfl, sized _⟩
theorem yieldOperationComplete (rec : Nat) : Statement (.yieldOperationComplete rec) := ⟨Or.inl rfl, sized _⟩
theorem taskWatchdogExpiry (g : Nat) : Statement (.taskWatchdogExpiry g) := ⟨Or.inl rfl, sized _⟩
theorem mergeTurn (turn : Nat) : Statement (.mergeTurn turn) := ⟨Or.inl rfl, sized _⟩
theorem firmwarePass : Statement .firmwarePass := ⟨Or.inl rfl, sized _⟩
theorem dependencyRecheck (part : Nat) : Statement (.dependencyRecheck part) := ⟨Or.inl rfl, sized _⟩
theorem packetNop (pkt : Nat) : Statement (.packetNop pkt) := ⟨Or.inl rfl, sized _⟩
theorem signal (pkt : Nat) : Statement (.signal pkt) := ⟨Or.inl rfl, sized _⟩
theorem launch (pkt : Nat) : Statement (.launch pkt) := ⟨Or.inl rfl, sized _⟩
theorem copy (pkt : Nat) : Statement (.copy pkt) := ⟨Or.inl rfl, sized _⟩
theorem packetWait (pkt : Nat) : Statement (.packetWait pkt) := ⟨Or.inl rfl, sized _⟩
theorem waitRecheck (pkt : Nat) : Statement (.waitRecheck pkt) := ⟨Or.inl rfl, sized _⟩
theorem timestamp (pkt : Nat) : Statement (.timestamp pkt) := ⟨Or.inl rfl, sized _⟩
theorem completionDecrement (pkt : Nat) : Statement (.completionDecrement pkt) := ⟨Or.inl rfl, sized _⟩
theorem dispatchRound (part : Nat) : Statement (.dispatchRound part) := ⟨Or.inl rfl, sized _⟩
theorem savePoint (g : Nat) : Statement (.savePoint g) := ⟨Or.inl rfl, sized _⟩
theorem hostSaveRequest (team : Nat) : Statement (.hostSaveRequest team) := ⟨Or.inl rfl, sized _⟩
theorem resume (vf : Nat) : Statement (.resume vf) := ⟨Or.inl rfl, sized _⟩
theorem resumeSkip (vf : Nat) : Statement (.resumeSkip vf) := ⟨Or.inl rfl, sized _⟩
theorem kill (vf : Nat) : Statement (.kill vf) := ⟨Or.inl rfl, sized _⟩
theorem doorbell (vf queue : Nat) (packet : BitVec 512) : Statement (.doorbell vf queue packet) := ⟨Or.inl rfl, sized _⟩
theorem bind (vf : Nat) : Statement (.bind vf) := ⟨Or.inl rfl, sized _⟩
theorem unbind (vf : Nat) : Statement (.unbind vf) := ⟨Or.inl rfl, sized _⟩
theorem collapse (vf : Nat) : Statement (.collapse vf) := ⟨Or.inl rfl, sized _⟩
theorem idleCollapse (vf : Nat) : Statement (.idleCollapse vf) := ⟨Or.inl rfl, sized _⟩
theorem collapseComplete (vf : Nat) : Statement (.collapseComplete vf) := ⟨Or.inl rfl, sized _⟩
theorem wake (vf : Nat) : Statement (.wake vf) := ⟨Or.inl rfl, sized _⟩
theorem wakeComplete (vf : Nat) : Statement (.wakeComplete vf) := ⟨Or.inl rfl, sized _⟩
theorem partitionCreate (part : Nat) (value : Word64) : Statement (.partitionCreate part value) := ⟨Or.inl rfl, sized _⟩
theorem partitionTeardown (part : Nat) : Statement (.partitionTeardown part) := ⟨Or.inl rfl, sized _⟩
theorem partitionReset (part : Nat) : Statement (.partitionReset part) := ⟨Or.inl rfl, sized _⟩
theorem partitionResetComplete (part : Nat) : Statement (.partitionResetComplete part) := ⟨Or.inl rfl, sized _⟩
theorem registerWrite (fn : HostFn) (off : Nat) (value : Word64) : Statement (.registerWrite fn off value) := ⟨Or.inl rfl, sized _⟩
theorem hostBar4Read (fn : HostFn) (off n : Nat) : Statement (.hostBar4Read fn off n) := ⟨Or.inl rfl, sized _⟩
theorem hostBar4Write (fn : HostFn) (off : Nat) (bytes : List Byte) : Statement (.hostBar4Write fn off bytes) := ⟨Or.inl rfl, sized _⟩
theorem hostFetchadd (fn : HostFn) (off bits : Nat) (v : Word64) : Statement (.hostFetchadd fn off bits v) := ⟨Or.inl rfl, sized _⟩
theorem hostSwap (fn : HostFn) (off bits : Nat) (v : Word64) : Statement (.hostSwap fn off bits v) := ⟨Or.inl rfl, sized _⟩
theorem hostCas (fn : HostFn) (off bits : Nat) (cmp v : Word64) : Statement (.hostCas fn off bits cmp v) := ⟨Or.inl rfl, sized _⟩
theorem peerRequest (part addr n : Nat) (ask : PeerAsk) : Statement (.peerRequest part addr n ask) := ⟨Or.inl rfl, sized _⟩
theorem fenceTokenAnswer (token : Nat) : Statement (.fenceTokenAnswer token) := ⟨Or.inl rfl, sized _⟩
theorem flushReadCompletion (token : Nat) : Statement (.flushReadCompletion token) := ⟨Or.inl rfl, sized _⟩
theorem fabricPortDown (port : Nat) : Statement (.fabricPortDown port) := ⟨Or.inl rfl, sized _⟩
theorem fabricPortRetrain (port : Nat) : Statement (.fabricPortRetrain port) := ⟨Or.inl rfl, sized _⟩
theorem futorLinkError (die0 die1 : Nat) : Statement (.futorLinkError die0 die1) := ⟨Or.inl rfl, sized _⟩
theorem gtcMeasure (offsets : List Int) : Statement (.gtcMeasure offsets) := ⟨Or.inl rfl, sized _⟩
theorem snapAtWrite (t : Word64) : Statement (.snapAtWrite t) := ⟨Or.inl rfl, sized _⟩
theorem hubSnapGo : Statement .hubSnapGo := ⟨Or.inl rfl, sized _⟩
theorem snapPin : Statement .snapPin := ⟨Or.inl rfl, sized _⟩
theorem snapshotLatch : Statement .snapshotLatch := ⟨Or.inl rfl, sized _⟩
theorem powerStepCommand (level : BitVec 3) : Statement (.powerStepCommand level) := ⟨Or.inl rfl, sized _⟩
theorem pstepPins (level : BitVec 3) : Statement (.pstepPins level) := ⟨Or.inl rfl, sized _⟩
theorem powerMeasurement (watts : BitVec 16) : Statement (.powerMeasurement watts) := ⟨Or.inl rfl, sized _⟩
theorem levelDeadline : Statement .levelDeadline := ⟨Or.inl rfl, sized _⟩
theorem sag : Statement .sag := ⟨Or.inl rfl, sized _⟩
theorem sagRecovery : Statement .sagRecovery := ⟨Or.inl rfl, sized _⟩
theorem pwrfail (ns : Nat) : Statement (.pwrfail ns) := ⟨Or.inl rfl, sized _⟩
theorem drainComplete (railsHeld : Bool) : Statement (.drainComplete railsHeld) := ⟨Or.inl rfl, sized _⟩
theorem drainDiscard : Statement .drainDiscard := ⟨Or.inl rfl, sized _⟩
theorem coldReset : Statement .coldReset := ⟨Or.inl rfl, sized _⟩
theorem reboot : Statement .reboot := ⟨Or.inl rfl, sized _⟩
theorem getVersion : Statement .getVersion := ⟨Or.inl rfl, sized _⟩
theorem getCapabilities : Statement .getCapabilities := ⟨Or.inl rfl, sized _⟩
theorem negotiateAlgorithms : Statement .negotiateAlgorithms := ⟨Or.inl rfl, sized _⟩
theorem getDigests : Statement .getDigests := ⟨Or.inl rfl, sized _⟩
theorem getCertificate : Statement .getCertificate := ⟨Or.inl rfl, sized _⟩
theorem challenge (nonce : Nat) : Statement (.challenge nonce) := ⟨Or.inl rfl, sized _⟩
theorem getMeasurements (ask : MeasureAsk) : Statement (.getMeasurements ask) := ⟨Or.inl rfl, sized _⟩
theorem sideReadTemperature (temps : List Byte) : Statement (.sideReadTemperature temps) := ⟨Or.inl rfl, sized _⟩
theorem sideReadPower : Statement .sideReadPower := ⟨Or.inl rfl, sized _⟩
theorem sideReadLevel : Statement .sideReadLevel := ⟨Or.inl rfl, sized _⟩
theorem sidePortLevelWrite (level : Byte) : Statement (.sidePortLevelWrite level) := ⟨Or.inl rfl, sized _⟩
theorem sideReadPortLevel : Statement .sideReadPortLevel := ⟨Or.inl rfl, sized _⟩
theorem uncorrectableError (place : ErrorPlace) (addr : Nat) : Statement (.uncorrectableError place addr) := ⟨Or.inl rfl, sized _⟩
theorem horizonTimeReached (g : Nat) : Statement (.horizonTimeReached g) := ⟨Or.inl rfl, sized _⟩

end Sys2Proof.Laws.OneEncoding
end

