-- ==== Sys2Proof/Tests/Slice0.lean ====
section
/-! SUPPORT. Tests: words of the manual's encoding tables and examples decoded, ill-formed terms refused, the manual's worked examples, and
for every statement of the obligations a concrete state that meets its hypotheses. The source of an expected value is named beside it. -/

namespace Sys2Proof.Tests
open Sys2Proof Sys2Proof.Machine Sys2Proof.Spec

/-! Decoding. -/

/-- Why a word is refused. -/
def why (r : Except Illegal Instr) : Option Illegal :=
  match r with
  | .ok _ => none
  | .error e => some e

/-- The instruction of a scalar word. -/
def sc (w : Nat) : Option Instr := decodeTableWord 32 w
/-- The instruction of a lane word given as bits 95:64, 63:32 and 31:0. -/
def ln (h m l : Nat) : Option Instr := decodeTableWord 96 (h * 2 ^ 64 + m * 2 ^ 32 + l)

/-- A lane word of layout L.A with every field 0, of type i32. -/
def la : LaneOp :=
  { stall := 0, kmask := 0, typ := .i32, mod := 0, d := .mrf 0, a := .mrf 0, b := .mrf 0, c := .mrf 0, ext := 0 }
/-- A lane memory word with every field 0, of 4 bytes and package scope. -/
def lm : MemOp :=
  { stall := 0, kmask := 0, typ := .i32, mod := 0, d := 0, a := 0, off := 0, space := .global, order := 0, scope := 2, width := .b4, hint := 0 }

/-- 03, Example 1. -/
theorem test_decode_addi : sc 0x08313FF4 = some (.addi 3 4 0x3FF4) := by decide
theorem test_decode_run : sc 0x80060120 = some (.run 1 1 0x120) := by decide
theorem test_decode_fadd : ln 0x1008D000 0x00A00500 0x50000000 =
    some (.fadd { la with stall := 2, kmask := 3, typ := .f32, d := .mrf 5, a := .mrf 5, b := .mrf 10 }) := by decide
theorem test_decode_ld : ln 0x40000000 0x00C00200 0x00000488 = some (.ld { lm with d := 6, a := 2, space := .scratch }) := by decide
theorem test_decode_trailer : isTrailer (BitVec.ofNat 96 (0xFFC60C00 * 2 ^ 64)) = true ∧
    (match decodeTrailer (BitVec.ofNat 96 (0xFFC60C00 * 2 ^ 64)) with | .ok t => some t | .error _ => none) =
      some { tok := 1, regs := [6], masks := [] } := by decide
/-- 04, Example 1 and its encodings at a glance; R68 for the bits of `add`, `b.cc`, `kand`. -/
theorem test_decode_constants : sc 0x2C992340 = some (.li 9 0x92340) ∧ sc 0x309BCDE0 = some (.lhi 9 0xBCDE0) ∧ sc 0x3490000A = some (.lxi 9 0xA) := by decide
theorem test_decode_glance : sc 0x25140004 = some (.slti 17 16 4) ∧ sc 0x680FC000 = some (.jr 63) ∧ sc 0x40724010 = some (.sld 7 9 16) ∧
    sc 0x880000A0 = some (.wait 0x0A) ∧ sc 0x8C003000 = some (.sleep 12) ∧ sc 0xC0040002 = some (.fence 2) := by decide
theorem test_decode_register_forms : sc 0b000000_000101_000110_000111_00000000 = some (.add 5 6 7) ∧
    sc 0b000001_000001_000010_000011_00000011 = some (.div 1 2 3) ∧ sc 0b011000_0001_000011_1111111111111110 = some (.bCc 1 3 0xFFFE) ∧
    sc 0b011100_0010_0011_0100_000000_00000000 = some (.kand 2 3 4) := by decide
/-- R309, R343, R383, R273: the base word of each op6 plus its fields. -/
theorem test_decode_engine_words : sc (0x90000000 + 4 * 1024 + 5 * 16) = some (.cpy 4 5) ∧ sc (0x90000000 + 3 * 65536 + 1024 + 32 + 1) = some (.qpush 1 2 1) ∧
    sc 0xA8020000 = some .tend ∧ sc (0x98000000 + 3 * 65536 + 1024 + 32) = some (.barWait 1 2) ∧ sc (0xA0000000 + 6 * 65536 + 7 * 1024 + 8 * 16) = some (.ffaSweep 7 8) := by decide
/-- 05, Example 3. -/
theorem test_decode_ffma : ln 0x10CC1000 0x00800800 0x48028000 =
    some (.ffma { la with stall := 3, typ := .f32, d := .mrf 4, a := .mrf 8, b := .mrf 9, c := .mrf 10 }) := by decide
theorem test_decode_lane_li : ln 0x05C00000 0x0060003F 0xC0000000 = some (.laneLi { stall := 0, kmask := 0, d := .mrf 3, imm := 0x3FC00000 }) := by decide
/-- 09, Example 1. -/
theorem test_decode_mx_q : ln 0x60000000 0x00000880 0x5402C101 =
    some (.mxQ { la with a := .mrf 8, b := .special 0 10, c := .special 0 11, ext := 0x101 }) := by decide
theorem test_decode_mx_q_chain : ln 0x60000200 0x00800080 0x6402C183 =
    some (.mxQ { la with mod := 0x80, d := .mrf 4, b := .special 0 12, c := .special 0 11, ext := 0x183 }) := by decide
/-- 12, Example 1. -/
theorem test_decode_atom : ln 0x50000400 0x00C00200 0x00000888 = some (.atom { lm with typ := .n32, d := 6, a := 2, space := .noLease }) := by decide
theorem test_decode_red : ln 0x50401004 0x00C00200 0x00000888 =
    some (.red { lm with typ := .f32, mod := 1, d := 6, a := 2, space := .noLease }) := by decide

/-! Ill-formed terms and words: one for each check. -/

/-- R70, R74: a reserved op6 and op10 (R86), an unlisted function code, and a field that must be 0. -/
theorem test_refused_words : why (decodeScalar (BitVec.ofNat 32 (0x3F * 2 ^ 26))) = some .opcode ∧ why (decodeScalar 0x000000FF) = some .function ∧
    why (decodeScalar 0xC0000001) = some .field ∧ why (decodeLane (BitVec.ofNat 96 (0x018 * 2 ^ 86))) = some .opcode := by decide
/-- R17: k0 as the destination of a mask word. -/
theorem test_ill_k0 : illegal (.kand 0 1 2) = some .k0 ∧ illegal (.kset 0) = some .k0 ∧ wf (.kand 1 0 0) = true := by decide
/-- R107: a shift by 64. -/
theorem test_ill_shift : illegal (.shli 1 2 64) = some .shift ∧ illegal (.srai 1 2 0x3FFF) = some .shift ∧ wf (.shri 1 2 63) = true := by decide
/-- R72: an unlisted condition, a register with `b.al`, and a mask register above k15. -/
theorem test_ill_cond : illegal (.bCc 8 0 0) = some .cond ∧ illegal (.bCc 0 1 0) = some .cond ∧ illegal (.bCc 5 16 0) = some .cond ∧
    wf (.bCc 7 15 0) = true := by decide
/-- R167, R173: no group register 8, and no write of register 4. -/
theorem test_ill_register : illegal (.rdsr 1 8) = some .register ∧ illegal (.wrsr 1 4) = some .register ∧ wf (.rdsr 1 7) = true := by decide
/-- R79, R138: `fadd` accepts f32 only. -/
theorem test_ill_type : illegal (.fadd la) = some .type ∧ wf (.fadd { la with typ := .f32 }) = true := by decide
/-- R80, R81: an integer comparison has six codes; `imulh` has no `.sat`. -/
theorem test_ill_modifier : illegal (.icmp { la with d := .mrf 1, mod := 6 }) = some .modifier ∧ illegal (.imulh { la with mod := 0x20 }) = some .modifier ∧
    wf (.iadd { la with mod := 0x20 }) = true := by decide
/-- R77, R125, R153: a special operand of no class, an LRF destination, k0 as a mask destination, an operand that is not used. -/
theorem test_ill_operand : illegal (.iadd { la with a := .special 3 0 }) = some .operand ∧ illegal (.iadd { la with d := .lrf 0 }) = some .operand ∧
    illegal (.icmp la) = some .operand ∧ illegal (.iabs { la with b := .mrf 1 }) = some .operand := by decide
/-- R75: ext14 must be 0. -/
theorem test_ill_ext : illegal (.iadd { la with ext := 1 }) = some .ext ∧ illegal (.clst { la with ext := 0x80 }) = some .ext := by decide
/-- R199, R302: a full/empty word outside the scratchpad, and `red` with the `cas` operation. -/
theorem test_ill_memory : illegal (.ldF { lm with width := .b8 }) = some .memory ∧ illegal (.red { lm with mod := 0x0A }) = some .memory ∧
    wf (.ldF { lm with width := .b8, space := .scratch }) = true := by decide
/-- R76: reserved bits of an operand field; R89: a mask slot that names k0. -/
theorem test_refused_fields : why (decodeLane (BitVec.ofNat 96 (2 ^ (40 + 8)))) = some .operand ∧
    (match decodeTrailer (BitVec.ofNat 96 (0x3FF * 2 ^ 86 + 2 ^ 27)) with | .error e => some e | .ok _ => none) = some .trailer := by decide

/-! Small states. -/

/-- The bench of `State.withFetchWord`, without a word: group 3 of team 2 in grid 1, 32 lanes, at cycle 0. -/
def b0 : State := State.reset.bench benchGroup

/-- The bench with scalar registers. -/
def bs (l : SMap Word64) : State := { b0 with cur := { b0.cur with s := l } }

/-- The bench's group with changes. -/
def bg (f : Group → Group) : State := { b0 with cur := f b0.cur }

/-- An Issuing run of one lane word, which is the next to issue, in a group of 8 lanes. -/
def br (i : Instr) : State :=
  State.reset.bench { benchGroup with width := 8, k := [(0, 0xFF)], kc := [(0, 0xFF)], sready := 1, runs := [benchRun State.reset i], seqNext := 2, pos := (1, 0) }

/-- The same with MRF registers: (lane, register, value), ascending. -/
def brv (i : Instr) (l : List (Nat × Nat × Word32)) : State :=
  { br i with cur := { (br i).cur with v := l.map (fun x => (x.1 * 256 + x.2.1, x.2.2)) } }

/-- A part of what a step leaves, if it answers a next state. -/
def after {α : Type} (o : Host.Outcome State Fault Refusal) (f : State → α) : Option α :=
  match o with
  | .next t => some (f t)
  | _ => none

/-- A scalar register after a word. -/
def sAfter (i : Instr) (s : State) (n : BitVec 6) : Option Word64 := after (exec i s) (fun t => t.cur.readS n)

/-- The last landing that a lane word has left in flight. -/
def landed (i : Instr) (s : State) : Option Landing := (after (exec i s) (fun t => t.cur.out.getLast?)).join

/-! The manual's worked examples, and values by hand from its rules. -/

/-- 04, Example 1: a 60-bit pointer in three words. -/
theorem test_li : sAfter (.li 9 0x92340) b0 9 = some 0xFFFFFFFFFFF92340 := by decide
theorem test_lhi : sAfter (.lhi 9 0xBCDE0) (bs [(9, 0xFFFFFFFFFFF92340)]) 9 = some 0xFFFFFFBCDE092340 := by decide
theorem test_lxi : sAfter (.lxi 9 0xA) (bs [(9, 0xFFFFFFBCDE092340)]) 9 = some 0x00000ABCDE092340 := by decide
/-- 03, Example 2: `addi s3, s4, -12` leaves −12. -/
theorem test_addi : sAfter (.addi 3 4 0x3FF4) b0 3 = some 0xFFFFFFFFFFFFFFF4 := by decide
/-- R105: addition wraps; a source may be the destination; R100: s0 reads 0 after a write. -/
theorem test_add_wraps : sAfter (.add 1 1 2) (bs [(1, 0xFFFFFFFFFFFFFFFF), (2, 2)]) 1 = some 1 ∧ sAfter (.add 0 1 2) (bs [(1, 5), (2, 2)]) 0 = some 0 := by decide
/-- R105: bits 5:0 of the count alone; the sign fills. -/
theorem test_sra : sAfter (.sra 1 2 3) (bs [(2, 0x8000000000000000), (3, 0x7F)]) 1 = some 0xFFFFFFFFFFFFFFFF := by decide
theorem test_slt : sAfter (.slt 1 2 3) (bs [(2, 0xFFFFFFFFFFFFFFFF), (3, 0)]) 1 = some 1 ∧ sAfter (.sltn 1 2 3) (bs [(2, 0xFFFFFFFFFFFFFFFF), (3, 0)]) 1 = some 0 := by decide
/-- R59: division by 0, and the one quotient that does not fit. -/
theorem test_div_by_zero : sAfter (.div 1 2 3) (bs [(2, 7)]) 1 = some 0xFFFFFFFFFFFFFFFF ∧ sAfter (.rem 1 2 3) (bs [(2, 7)]) 1 = some 7 ∧
    after (exec (.div 1 2 3) (bs [(2, 7)])) (fun t => t.cur.gstat) = some 1 := by decide
theorem test_div_overflow : sAfter (.div 1 2 3) (bs [(2, 0x8000000000000000), (3, 0xFFFFFFFFFFFFFFFF)]) 1 = some 0x8000000000000000 ∧
    sAfter (.div 1 2 3) (bs [(2, 0xFFFFFFFFFFFFFFF9), (3, 2)]) 1 = some 0xFFFFFFFFFFFFFFFD := by decide
/-- R106: the high halves, signed and unsigned. -/
theorem test_mulh : sAfter (.mulh 1 2 3) (bs [(2, 0xFFFFFFFFFFFFFFFF), (3, 2)]) 1 = some 0xFFFFFFFFFFFFFFFF ∧
    sAfter (.mulhn 1 2 3) (bs [(2, 0xFFFFFFFFFFFFFFFF), (3, 2)]) 1 = some 1 := by decide
theorem test_counts : sAfter (.clz 1 2) (bs [(2, 1)]) 1 = some 63 ∧ sAfter (.ctz 1 2) b0 1 = some 64 ∧ sAfter (.sext 1 2 7) (bs [(2, 0x80)]) 1 = some 0xFFFFFFFFFFFFFF80 := by decide
/-- R110: `call` leaves PC + 1 in s63 and moves by its displacement. -/
theorem test_call : sAfter (.call 1) b0 63 = some 1 ∧ after (exec (.call 1) b0) (fun t => t.cur.pc) = some 1 := by decide
/-- R113: the lowest set bit of k1 AND k0, and 64 when there is none. -/
theorem test_kfirst : sAfter (.kfirst 1 5) (bg (fun g => { g with k := [(0, 0xFFFFFFFF), (1, 0xF00000010)] })) 5 = some 4 ∧ sAfter (.kfirst 1 5) b0 5 = some 64 := by decide
/-- R168, R170: GCTL keeps its upper bits, LSTAT is cleared in every lane, FEBOUND is at least 64. -/
theorem test_wrsr : after (exec (.wrsr 1 0) (bs [(1, 0xFFFF)])) (fun t => t.cur.gctl) = some 0x9F ∧
    after (exec (.wrsr 1 3) (bs [(1, 5)])) (fun t => t.cur.febound) = some 64 := by decide
/-- R175: `brk` enters the fault BREAK with its code; R371: the group is held. -/
theorem test_brk : after (exec (.brk 9) b0) (fun t => t.cur.heldFaults.map (fun f => (f.code, f.imm, f.isBrk))) = some [(.brk, 9, true)] := by decide
/-- R43: `exit` of the only group ends the team. -/
theorem test_exit : after (exec .exit b0) (fun t => (t.cur.live, t.teams.length)) = some (false, 0) := by decide

/-- 05, Example 1: `fmul v4, v8, v9` of 2.0 and 3.0 lands 6.0 at the end of cycle 3. -/
theorem test_fmul : (landed (.fmul { la with typ := .f32, d := .mrf 4, a := .mrf 8, b := .mrf 9 })
    (brv (.fmul { la with typ := .f32, d := .mrf 4, a := .mrf 8, b := .mrf 9 }) [(0, 8, 0x40000000), (0, 9, 0x40400000)])).map
      (fun l => (l.cyc, l.mrf.head?)) = some (3, some (4, 0x40C00000)) := by decide
/-- 05, Example 2: 2.6 / 0.5 quantises to 5 with NX, −5.0 / 0.5 to −8 with OF. -/
theorem test_qnt : (landed (.qnt { la with typ := .q4g, d := .mrf 4, a := .mrf 2, b := .mrf 3 })
    (brv (.qnt { la with typ := .q4g, d := .mrf 4, a := .mrf 2, b := .mrf 3 })
      [(0, 2, 0x40266666), (0, 3, 0x3F000000), (1, 2, 0xC0A00000), (1, 3, 0x3F000000)])).map
      (fun l => (l.mrf.take 2, l.st.take 2)) = some ([(4, 5), (256 + 4, 0xFFFFFFF8)], [(0, stNX), (1, stOF)]) := by decide
/-- 05, Example 3: `rng.f32` of counter 1 with key 0. -/
theorem test_rng : (landed (.rng { la with stall := 3, typ := .f32, d := .mrf 6, a := .mrf 2, b := .special 0 9 })
    (brv (.rng { la with stall := 3, typ := .f32, d := .mrf 6, a := .mrf 2, b := .special 0 9 }) [(0, 2, 1)])).map (fun l => l.mrf.head?) =
      some (some (6, 0x3F0906C1)) := by decide

/-- v1 of 06, Example 1. -/
def lanes06 : List (Nat × Nat × Word32) :=
  [(0, 1, 3), (1, 1, 0xFFFFFFFF), (2, 1, 7), (4, 1, 5), (5, 1, 2), (6, 1, 0xFFFFFFFC), (7, 1, 6)]

/-- 06, Example 1: `icmp.gt k2, v1, #0` sets lanes 0, 2, 4, 5 and 7 and lands at the end of cycle 1. -/
theorem test_icmp : (landed (.icmp { la with mod := 4, d := .mrf 2, a := .mrf 1, b := .special 2 0 })
    (brv (.icmp { la with mod := 4, d := .mrf 2, a := .mrf 1, b := .special 2 0 }) lanes06)).map (fun l => (l.cyc, l.kw)) =
      some (1, some (2, 0xFF, 0xB5)) := by decide
/-- 06, Example 1: under k2 the root is 23. -/
theorem test_radd : (landed (.radd { la with kmask := 2, d := .mrf 3, a := .mrf 1 })
    (let s := brv (.radd { la with kmask := 2, d := .mrf 3, a := .mrf 1 }) lanes06
     { s with cur := { s.cur with k := [(0, 0xFF), (2, 0xB5)] } })).map (fun l => (l.cyc, l.mrf)) =
      some (4, [(3, 23), (2 * 256 + 3, 23), (4 * 256 + 3, 23), (5 * 256 + 3, 23), (7 * 256 + 3, 23)]) := by decide
theorem test_scan : (landed (.scan { la with kmask := 2, d := .mrf 4, a := .mrf 1 })
    (let s := brv (.scan { la with kmask := 2, d := .mrf 4, a := .mrf 1 }) lanes06
     { s with cur := { s.cur with k := [(0, 0xFF), (2, 0xB5)] } })).map (fun l => l.mrf.map (fun x => x.2)) = some [3, 10, 15, 17, 23] := by decide
theorem test_ballot : (landed (.vote { la with typ := .n32, mod := 2, d := .mrf 5, a := .mrf 1 })
    (brv (.vote { la with typ := .n32, mod := 2, d := .mrf 5, a := .mrf 1 }) lanes06)).map (fun l => (l.cyc, l.mrf.head?)) =
      some (2, some (5, 0xF7)) := by decide
/-- 06, Example 1: `shfl.down v6, v1, #1`. -/
theorem test_shfl : (after (exec (.shfl { la with mod := 2, d := .mrf 6, a := .mrf 1, b := .special 2 1 })
    (brv (.shfl { la with mod := 2, d := .mrf 6, a := .mrf 1, b := .special 2 1 }) lanes06))
      (fun t => t.ops.map (fun o => o.lanes.map (fun l => ofBytes l.rd)))) =
      some [[0xFFFFFFFF, 7, 0, 5, 2, 0xFFFFFFFC, 6, 6]] := by decide

/-- R132: `.sat` clamps to the type; without it the sum wraps. -/
theorem test_iadd_sat : (landed (.iadd { la with mod := 0x20, d := .mrf 1, a := .mrf 2, b := .mrf 2 })
    (brv (.iadd { la with mod := 0x20, d := .mrf 1, a := .mrf 2, b := .mrf 2 }) [(0, 2, 0x7FFFFFFF)])).map (fun l => l.mrf.head?) =
      some (some (1, 0x7FFFFFFF)) := by decide
theorem test_iadd_wraps : (landed (.iadd { la with d := .mrf 1, a := .mrf 2, b := .mrf 2 })
    (brv (.iadd { la with d := .mrf 1, a := .mrf 2, b := .mrf 2 }) [(0, 2, 0x7FFFFFFF)])).map (fun l => l.mrf.head?) =
      some (some (1, 0xFFFFFFFE)) := by decide

/-- A value as an f32. -/
def asF32 (v : FVal) : Nat := match v with | .fin n m e => (fmtF32.round 0 false false n m e).1 | .nan _ => fmtF32.nan | .inf n => fmtF32.infBits n

/-- 09, Example 2: the down-converter with c = 4.0 on 16.0, 500.0, 2,000.0, −0.0 and a NaN. -/
theorem test_down_convert : [0x41800000, 0x43FA0000, 0x44FA0000, 0x80000000, 0x7FC00000].map (fun x => asF32 (downConvert 1 0x40800000 x)) =
    [0x41800000, 0x44000000, 0x44E00000, 0x80000000, 0x7FC00000] := by decide
/-- 10, Example 1: the threshold of field 16 at β = 3.0, and the draw of counter 1. -/
theorem test_firefly_update : threshold 16 0x300 = 35777 ∧ (weevil16 0 1).toNat = 17679 := by decide
/-- 08, Example 1: a store that arrives at 950 in a region whose lease ends at 1,412 becomes visible at 1,412. -/
theorem test_store_waits_for_lease : (arrive { b0 with gtc := 950, leases := [(0x100, 1412)] } 0x8000 [1] 0 .host).1 = 1412 ∧ (arrive { b0 with gtc := 950 } 0x8000 [1] 0 .host).1 = 950 := by decide
/-- R304: addition, and the two bounded counters at their bounds. -/
theorem test_ant : antApply 0x0 .n32 4 10 5 0 = 15 ∧ antApply 0xB .n32 4 7 7 0 = 0 ∧ antApply 0xC .n32 4 0 9 0 = 9 := by decide

/-! Witnesses: for each statement of the obligations, states that meet its hypotheses, clause by clause. -/

/-- A lane word stands at the issue position of a state and passes its checks, with a property of its pass. -/
def stands (s : State) (i : Instr) (f : Issue → Bool) : Bool :=
  s.cur.live && (match issueOf s i with | some q => (wordFault s s.cur q i).isNone && f q | none => false)

theorem stands_issues {s : State} {i : Instr} {f : Issue → Bool} (h : stands s i f = true) : ∃ q, issues s i q ∧ f q = true := by
  unfold stands at h
  rw [Bool.and_eq_true] at h
  cases e : issueOf s i with
  | none => rw [e] at h; exact absurd h.2 Bool.false_ne_true
  | some q =>
    rw [e] at h
    simp only [Bool.and_eq_true, Option.isNone_iff_eq_none] at h
    exact ⟨q, ⟨h.1, e, h.2.1⟩, h.2.2⟩

/-- Each of some lane words stands at the issue position of a group of 8 lanes. -/
def allStand (l : List Instr) (f : Issue → Bool) : Bool := l.all (fun i => stands (br i) i f)

theorem allStand_issues {l : List Instr} {f : Issue → Bool} (h : allStand l f = true) : ∀ i ∈ l, ∃ q, issues (br i) i q ∧ f q = true :=
  fun i hi => stands_issues (List.all_eq_true.mp h i hi)

/-- A group of 64 lanes, whose words take two passes. -/
def br64 (i : Instr) : State :=
  State.reset.bench { benchGroup with width := 64, k := [(0, 0xFFFFFFFFFFFFFFFF)], kc := [(0, 0xFFFFFFFFFFFFFFFF)], sready := 1, runs := [benchRun State.reset i], seqNext := 2, pos := (1, 0) }

theorem witness_ScalarAluResult : mayComplete b0 5 ∧ (Instr.add 5 6 7, (0 : Word64)) ∈ (aluWords 5 6 7).zip (alu (b0.cur.readS 6) (b0.cur.readS 7)) :=
  ⟨⟨rfl, by decide⟩, by decide⟩
theorem witness_ScalarMultiplyDivideResult : mayComplete (bs [(2, 7)]) 1 := ⟨rfl, by decide⟩
theorem witness_ScalarImmediateResult : mayComplete b0 63 := ⟨rfl, by decide⟩
theorem witness_ScalarConstantResult : mayComplete b0 9 ∧ (Instr.li 9 0x92340, (0xFFFFFFFFFFF92340 : Word64)) ∈ placeWords b0 9 0x92340 (b0.cur.readS 9) :=
  ⟨⟨rfl, by decide⟩, by decide⟩
/-- A run that has still to read s5 holds up a word that would write it. -/
theorem witness_ScalarNopClockAndInterlock : b0.cur.live = true ∧ mayWriteS b0 5 = true ∧ (br (.iadd { la with a := .special 0 5 })).cur.live = true ∧
    mayWriteS (br (.iadd { la with a := .special 0 5 })) 5 = false := by decide
theorem witness_GroupRegisterAccess : b0.cur.live = true ∧ wf (.rdsr 1 1) = true ∧ mayWriteS b0 1 = true ∧ b0.cur.quiet = true ∧ wf (.wrsr 1 3) = true ∧
    (br (.iadd la)).cur.live = true ∧ (br (.iadd la)).cur.quiet = false := by decide
theorem witness_ScalarTransfer : b0.cur.live = true ∧ wf (.bCc 0 0 1) = true ∧ condition b0 0 0 ∧ inSection b0 1 ∧ ¬ inSection b0 2 ∧ wf (.bCc 2 1 1) = true ∧
    ¬ condition b0 2 1 ∧ wf (.bCc 5 15 0) = true ∧ maskSettled b0 15 ∧ condition b0 5 15 ∧ mayComplete b0 63 ∧
    inSection b0 (b0.cur.readS 1).toNat ∧ ¬ inSection (bs [(1, 2)]) ((bs [(1, 2)]).cur.readS 1).toNat := by
  refine ⟨rfl, by decide, Or.inl rfl, ⟨by decide, by decide⟩, ?_, by decide, ?_, by decide, Or.inr (by decide), ?_, ⟨rfl, by decide⟩, ⟨by decide, by decide⟩, ?_⟩
  · unfold inSection; decide
  · unfold condition; decide
  · unfold condition; decide
  · unfold inSection; decide
/-- A run that still writes k2 holds up the words that read it. -/
theorem witness_MaskWordResult : b0.cur.live = true ∧ (∀ r ∈ maskWords b0 1 2 3 4, ∀ k ∈ r.2.1, maskSettled b0 k) ∧ maskFree b0 1 ∧ mayWriteS b0 4 = true ∧ maskSettled b0 2 ∧
    ¬ maskSettled (br (.icmp { la with d := .mrf 2 })) 2 ∧ ¬ maskFree (br (.icmp { la with d := .mrf 2 })) 2 := by
  refine ⟨rfl, ?_, ⟨by decide, by decide⟩, by decide, Or.inr (by decide), ?_, ?_⟩
  · unfold maskSettled; decide
  · unfold maskSettled; decide
  · unfold maskFree; decide

/-! Lane words. -/

/-- Lane words of one operand shape: registers 1 to 8. -/
def l3 : LaneOp := { la with d := .mrf 2, a := .mrf 4, b := .mrf 6, c := .mrf 8 }
def l2 : LaneOp := { l3 with c := .mrf 0 }
def l1 : LaneOp := { l2 with b := .mrf 0 }
/-- The same as f32. -/
def f3 : LaneOp := { l3 with typ := .f32 }
def f2 : LaneOp := { l2 with typ := .f32 }
def f1 : LaneOp := { l1 with typ := .f32 }

theorem witness_LaneIntegerArithmetic :
    ∀ i ∈ [Instr.iadd l2, .isub l2, .imul l2, .imad l3, .iabs l1, .imulh { l2 with typ := .n64 }, .imin l2, .imax l2], ∃ q, issues (br i) i q ∧ q.full ≠ 0 := by
  intro i hi
  obtain ⟨q, h, g⟩ := allStand_issues (f := fun q => q.full != 0) (by decide) i hi
  exact ⟨q, h, by simpa using g⟩
/-- R59: the hypotheses of each clause at 32 bits, and at 2 bits. -/
theorem witness_DivisionRule : (1 ≤ 32 ∧ 7 < 2 ^ 32 ∧ 0 < 2 ^ 32) ∧ (1 ≤ 2 ∧ signedOf 2 2 = -(2 ^ (2 - 1)) ∧ signedOf 2 3 = -1 ∧ 3 ≠ 0) ∧
    (7 ≠ 0 ∧ ¬ (signedOf 32 9 = -(2 ^ (32 - 1)) ∧ signedOf 32 7 = -1)) := by decide
theorem witness_LaneBitsAndDivision :
    ∀ i ∈ [Instr.idiv l2, .irem { l2 with typ := .n64 }, .laneAnd l2, .laneOr l2, .laneXor l2, .not l1, .laneShl l2, .laneShr l2, .laneSra l2, .lanePopc l1, .laneClz l1, .bfe l2, .bfi l3],
      ∃ q, issues (br i) i q := by
  intro i hi
  obtain ⟨q, h, _⟩ := allStand_issues (f := fun _ => true) (by decide) i hi
  exact ⟨q, h⟩
theorem witness_BitFieldRule : 255 < 256 ∧ 0 < 256 ∧ 31 < LType.width .i32 := by decide
theorem witness_LaneMoves :
    ∀ i ∈ [Instr.mov l1, .movs l1, .sel { l3 with c := .mrf 3 }, .rdst { la with d := .mrf 2 }, .clst { la with ext := 0x7F }, .rng { l2 with typ := .n32 }, .rng f2,
      .laneLi { stall := 0, kmask := 0, d := .mrf 2, imm := 1 }], ∃ q, issues (br i) i q := by
  intro i hi
  obtain ⟨q, h, _⟩ := allStand_issues (f := fun _ => true) (by decide) i hi
  exact ⟨q, h⟩
theorem witness_LaneFloatingPoint :
    ∀ i ∈ [Instr.fadd f2, .fsub f2, .fmul f2, .ffma f3, .fdiv f2, .fsqrt f1, .frcp f1, .frsq f1, .fex2 f1, .flg2 f1, .fsin f1, .fcos f1, .ftanh f1, .fmin f2, .fmax f2,
      .hadd { f2 with typ := .f16x2 }, .hmul { f2 with typ := .bf16x2 }, .hfma { f3 with typ := .f16x2 }, .hmin { f2 with typ := .f16x2 }, .hmax { f2 with typ := .bf16x2 }],
      ∃ q, issues (br i) i q := by
  intro i hi
  obtain ⟨q, h, _⟩ := allStand_issues (f := fun _ => true) (by decide) i hi
  exact ⟨q, h⟩
theorem witness_LaneConversion :
    ∀ i ∈ [Instr.cvt { f1 with ext := 0 }, .cvt { f1 with typ := .f16x2, b := .mrf 6, ext := 4 }, .cvt { f1 with b := .special 2 1, ext := 6 }, .cvt { f1 with typ := .bf16x2, ext := 6 },
      .qnt { f2 with typ := .q4g }, .dqn { f2 with typ := .q3g }, .pk6 { f1 with typ := .e3m2 }, .pk4 { f1 with typ := .q4g }, .up6 { f1 with typ := .e3m2 }, .up4 { f1 with typ := .q3g }],
      ∃ q, issues (br i) i q := by
  intro i hi
  obtain ⟨q, h, _⟩ := allStand_issues (f := fun _ => true) (by decide) i hi
  exact ⟨q, h⟩
theorem witness_LaneMaskWords :
    (∀ i ∈ [Instr.icmp { l2 with d := .mrf 3 }, .fcmp { f2 with d := .mrf 3 }, .kwr { l1 with d := .mrf 3 }], ∃ q, issues (br i) i q ∧ true = true) ∧
    (∀ i ∈ [Instr.vote { l1 with d := .mrf 3 }, .vote { l1 with d := .mrf 3, mod := 1 }, .vote { l1 with typ := .n32, mod := 2 }], ∃ q, issues (br i) i q ∧ q.final = true) :=
  ⟨allStand_issues (f := fun _ => true) (by decide), allStand_issues (f := fun q => q.final) (by decide)⟩
theorem witness_LaneCrossWords :
    (∀ i ∈ [Instr.shfl { l2 with b := .mrf 6 }, .bcast { l1 with b := .special 2 3 }, .radd l1, .rmin l1, .rmax f1, .scan l1], ∃ q, issues (br i) i q ∧ (q.final && q.full != 0) = true) ∧
    (∃ q, issues (br64 (.radd l1)) (.radd l1) q ∧ (!q.final) = true) :=
  ⟨allStand_issues (f := fun q => q.final && q.full != 0) (by decide), stands_issues (by decide)⟩

/-! Memory. -/

/-- An optional value that is there, with a property. -/
theorem ex_of {α : Type} {o : Option α} {f : α → Bool} (h : o.any f = true) : ∃ x, o = some x ∧ f x = true := by
  cases o with
  | none => exact absurd h Bool.false_ne_true
  | some x => exact ⟨x, rfl, h⟩

/-- The state after a word, or the same state if it does not complete. -/
def run1 (i : Instr) (s : State) : State := match exec i s with | .next t => t | _ => s

/-- The value of an `Except`, if it is one. -/
def good {ε α : Type} (r : Except ε α × State) : Option α := match r.1 with | .ok x => some x | .error _ => none
/-- The error of an `Except`, if it is one. -/
def bad {ε α : Type} (r : Except ε α × State) : Option ε := match r.1 with | .ok _ => none | .error e => some e

theorem good_of {ε α : Type} {r : Except ε α × State} {f : α → Bool} (h : (good r).any f = true) : ∃ x t, r = (.ok x, t) ∧ f x = true := by
  obtain ⟨a, t⟩ := r
  cases a with
  | ok x => exact ⟨x, t, rfl, h⟩
  | error e => exact absurd h Bool.false_ne_true

theorem bad_of {ε α : Type} {r : Except ε α × State} {f : ε → Bool} (h : (bad r).any f = true) : ∃ x t, r = (.error x, t) ∧ f x = true := by
  obtain ⟨a, t⟩ := r
  cases a with
  | error e => exact ⟨e, t, rfl, h⟩
  | ok x => exact absurd h Bool.false_ne_true

theorem witness_ScalarMemoryWord : b0.cur.live = true ∧ mayWriteS b0 5 = true ∧ (∃ p t, scalarReach b0 b0.cur .load 0x100 = (.ok p, t) ∧ true = true) ∧
    (∃ c t, scalarReach b0 b0.cur .store (2 ^ 50) = (.error c, t) ∧ true = true) ∧ (b0.cur.readS 0 + (1 : BitVec 14).signExtend 64).toNat % 8 ≠ 0 ∧
    (let a := (b0.cur.readS 0 + (8 : BitVec 14).signExtend 64).toNat; a % 8 = 0 ∧ a + 8 ≤ (b0.teamOf b0.cur).scrSize) ∧
    (let t := bs [(1, 0x80000)]; (t.cur.readS 1 + (0 : BitVec 14).signExtend 64).toNat % 8 = 0 ∧ (t.teamOf t.cur).scrSize < (t.cur.readS 1 + (0 : BitVec 14).signExtend 64).toNat + 8) :=
  ⟨rfl, by decide, good_of (f := fun _ => true) (by decide), bad_of (f := fun _ => true) (by decide), by decide, by decide, by decide⟩

/-- A lane memory word of the scratchpad. -/
def ls : MemOp := { lm with d := 2, a := 4, space := .scratch }
/-- A memory word of 8 bytes of the scratchpad. -/
def l8 : MemOp := { ls with width := .b8 }

theorem witness_LaneMemoryWord :
    (∀ i ∈ [Instr.ld ls, .st ls, .ldF l8, .ldFe l8, .stEf l8, .stF l8, .feSet { l8 with d := 0 }, .feClr { l8 with d := 0 }, .feProbe l8, .pref { lm with a := 4 },
      .pin { lm with d := 2, a := 4 }, .unpin { lm with d := 2, a := 4 }, .lrefill l8], ∃ q, issues (br i) i q ∧ (q.final && q.full != 0) = true) ∧
    (∃ q, issues (br64 (.ld ls)) (.ld ls) q ∧ (!q.final) = true) ∧
    (∃ q, issues (br (.ld { ls with kmask := 1 })) (.ld { ls with kmask := 1 }) q ∧ (q.final && q.full == 0) = true) ∧
    (let s := { br (.pref { lm with a := 4 }) with power := { b0.power with tstep := 2 } }; s.tstepOf s.cur.vf ≠ 0) ∧
    (∃ q, issues (br (.ld ls)) (.ld ls) q ∧ (q.final && (firstCode (readLanes q (formLane (br (.ld ls)) ls .load 4))).isNone) = true) ∧
    (∃ q, issues (br (.ld lm)) (.ld lm) q ∧ (q.final && (readLanes q (formLane (br (.ld lm)) lm .load 4)).any (·.unresolved)) = true) ∧
    (∃ q, issues (br (.ld { ls with off := 0x1FFFFFF })) (.ld { ls with off := 0x1FFFFFF }) q ∧
      (let l := readLanes q (formLane (br (.ld { ls with off := 0x1FFFFFF })) { ls with off := 0x1FFFFFF } .load 4)
       q.final && l.all (fun x => !x.unresolved) && (firstCode l).isSome) = true) :=
  ⟨allStand_issues (f := fun q => q.final && q.full != 0) (by decide), stands_issues (by decide), stands_issues (by decide), by decide, stands_issues (by decide),
    stands_issues (by decide), stands_issues (by decide)⟩

/-- An atomic on global memory. -/
def lat : MemOp := { lm with typ := .n32, d := 2, a := 4, space := .noLease }
/-- A word whose requests cannot be held: a class 2 group behind 28 requests of another group's. -/
def busyAnt (i : Instr) : State :=
  let s := br i
  let l : LaneReq := { lane := 0, ea := 0, xl := .need, data := [], cmp := [], rd := [], stage := .wait }
  let o : Op := { id := 90, gid := 3, scalar := false, seq := 0, side := 0, run := 0, word := 0, pc := 0, kind := .atom 0, space := .noLease, order := 0, scope := 2, typ := .n32
                  nbytes := 4, hint := 0, dst := 2, base := 0, off := 0, lanes := [l], checked := true, asked := true, floor := 0, issuedAt := 0, ready := 1000, bound := 64, stamp := 0, vmax := 0, held := false, sent := none }
  { s with ops := [o] }

/-- The lanes of an atomic word of 4 bytes on the bench, translated. -/
def antLanes (i : Instr) (w : MemOp) (k : OpKind) (q : Issue) : List LaneReq × State := atomLanes (br i) k 4 (readLanes q (formLane (br i) w k 4))

theorem witness_AtomicWord :
    (∃ q, issues (br (.atom lat)) (.atom lat) q ∧ (q.final && decide (q.full ≠ 0 ∧ (let e := antLanes (.atom lat) lat (.atom lat.mod) q
      firstCode e.1 = none ∧ entriesFree e.2 e.2.cur (homesOf e.1).length = true ∧ Machine.slotsHeld e.2 e.2.cur e.1 = false))) = true) ∧
    (∃ q, issues (busyAnt (.atom lat)) (.atom lat) q ∧ (q.final && decide (q.full ≠ 0 ∧ (let e := atomLanes (busyAnt (.atom lat)) (.atom lat.mod) 4 (readLanes q (formLane (busyAnt (.atom lat)) lat (.atom lat.mod) 4))
      firstCode e.1 = none ∧ Machine.slotsHeld e.2 e.2.cur e.1 = true))) = true) ∧
    (∃ q, issues (br (.red { lat with off := 1 })) (.red { lat with off := 1 }) q ∧
      (q.final && (firstCode (antLanes (.red { lat with off := 1 }) { lat with off := 1 } (.red 0) q).1).isSome) = true) ∧
    (∃ q, issues (br64 (.atom lat)) (.atom lat) q ∧ (!q.final) = true) ∧
    (∃ q, issues (br (.red { lat with kmask := 1 })) (.red { lat with kmask := 1 }) q ∧ (q.final && q.full == 0) = true) :=
  ⟨stands_issues (by decide), stands_issues (by decide), stands_issues (by decide), stands_issues (by decide), stands_issues (by decide)⟩
theorem witness_AntOperationRule : (4 = 4 ∨ 4 = 8) ∧ 0xFFFFFFFF < 2 ^ (8 * 4) ∧ LType.n32 ≠ .f32 ∧ (0xC, 0xFFFFFFFE) ∈
    [0x0, 0x2, 0x3, 0x4, 0x5, 0x6, 0x7, 0x8, 0x9, 0xA, 0xB, 0xC].zip (antInteger (8 * 4) 0xFFFFFFFF 0xFFFFFFFF 0) := by decide

/-- A scalar load and a scalar store that wait at the home of address 0x100, and the store's write. -/
def mLoad : State := run1 (.sld 5 1 0) (bs [(1, 0x100)])
def mStore : State := run1 (.sst 5 1 0) (bs [(1, 0x100), (5, 7)])
def mWrite : State := run1 (.homeWriteArrival 4 0) mStore
/-- A `red` of one lane that waits for its Ant. -/
def mRed : State := run1 (.red lat) { br (.red lat) with cur := { (br (.red lat)).cur with k := [(0, 1)] } }

theorem witness_HomeEvents :
    (∃ x, readyLane mLoad 4 0 = some x ∧ (x.2.1.kind == .load && !inScratch mLoad x.1 x.2.1.space && x.2.2.2.ptype == 0 && !hasErr mLoad x.2.2.2.pa 8 &&
      x.2.1.lanes.all (fun l => l.stage != .err) && mLoad.olds.isEmpty && decide (x.2.2.2.pa % 16 + 8 ≤ 16) && decide ((x.2.1.lanes.map (·.lane)).Nodup) &&
      (sectorLanes x.2.1 (x.2.2.2.pa / 16)).all (fun m => orderOk mLoad x.1 x.2.1 m)) = true) ∧
    (∃ x, readyLane mStore 4 0 = some x ∧ (x.2.1.kind == .store && !inScratch mStore x.1 x.2.1.space && x.2.2.2.ptype == 0) = true) ∧
    (∃ w, firstWrite { mWrite with gtc := 5 } = some w ∧ (w.ref == .op 4 0 && (mWrite.op? 4).any (fun o => o.lanes.all (fun l => l.stage != .err))) = true) ∧
    (∃ x, requestLanes mRed 4 0 = some x ∧ (decide (x.2.2.length = 1) && x.2.2.all (fun l => (match l.xl with | .ok p => p.ptype != 2 && !hasErr mRed p.pa 4 | _ => false)) &&
      x.2.1.lanes.all (fun l => l.stage != .err)) = true) ∧ Memory.wf mWrite.mem = true :=
  ⟨ex_of (by decide), ex_of (by decide), ex_of (by decide), ex_of (by decide), by decide⟩
/-- The load after its read, and the store after its write is visible. -/
def mRead : State := run1 (.homeRead 4 0) mLoad
def mDone : State := run1 .writeVisible { mWrite with gtc := 5 }
theorem witness_AccessReachesGroup :
    (∃ o, mRead.op? 4 = some o ∧ (o.finished && o.scalar && o.order == 0 && o.kind == .load && o.dst == 5 && decide (o.lanes.length = 1) && o.lanes.all (fun l => l.stage == .done) &&
      (mRead.group? o.gid).any (fun g => smapWf 0 g.s)) = true) ∧
    (∃ o, mDone.op? 4 = some o ∧ (o.finished && o.scalar && o.order == 0 && o.kind == .store) = true) :=
  ⟨ex_of (by decide), ex_of (by decide)⟩
/-- A lane load of 8 bytes with acquire order whose two lanes have performed, and one whose lane waits for host page 7. -/
def laneOp (order : BitVec 2) (l : List LaneReq) (checked : Bool) : Op :=
  { id := 9, gid := 3, scalar := false, seq := 1, side := 0, run := 0, word := 0, pc := 0, kind := .load, space := .global, order := order.toNat, scope := 2, typ := .i32
    nbytes := 8, hint := 0, dst := 2, base := 0, off := 0, lanes := l, checked := checked, asked := true, floor := 0, issuedAt := 0, ready := 0, bound := 64, stamp := 0, vmax := 7
    held := false, sent := none }
def doneLane (n : Nat) : LaneReq := { lane := n, ea := 0, xl := .ok scratchPage, data := [], cmp := [], rd := toBytes 8 0x1122334455667788, stage := .done }
def hostPage7 : Page := { pa := 7 * 4096, ptype := 1, nc := false, nl := false, at_ := true, w := true, rd := true }
def priS : State :=
  { b0 with ops := [laneOp 0 [{ lane := 0, ea := 0x100, xl := .ok hostPage7, data := [], cmp := [], rd := [], stage := .pri }] false], priReqs := [(0, 7)], priEngines := [(0, 7)] }
theorem witness_AccessReachesGroup_lanes : (∃ o, ({ b0 with ops := [laneOp 1 [doneLane 0, doneLane 31] true] }).op? 9 = some o ∧ (o.finished && !o.scalar && o.kind.hasResult && o.order % 2 == 1 &&
    decide ((o.lanes.map (·.lane)).Nodup) && o.lanes.all (fun l => decide (o.dst + l.rd.length / 4 ≤ 256))) = true) ∧ smapWf 0 b0.cur.v = true := ⟨ex_of (by decide), by decide⟩
/-- A value of an `Except` with a property, and an error. -/
theorem is_of {ε α : Type} {r : Except ε α} {f : α → Bool} (h : (match r with | .ok x => f x | .error _ => false) = true) : ∃ x, r = .ok x ∧ f x = true := by
  cases r with
  | ok x => exact ⟨x, rfl, h⟩
  | error e => exact absurd h Bool.false_ne_true
theorem err_of {ε α : Type} {r : Except ε α} {f : ε → Bool} (h : (match r with | .ok _ => false | .error e => f e) = true) : ∃ e, r = .error e ∧ f e = true := by
  cases r with
  | ok x => exact absurd h Bool.false_ne_true
  | error e => exact ⟨e, rfl, h⟩
theorem witness_TranslationEvents : (∃ x, walk b0 0 0x100 = .ok x ∧ true = true) ∧ (∃ c, walk b0 0 (2 ^ 50) = .error c ∧ true = true) ∧
    (let s := { b0 with priReqs := [(0, 7)] }; (0, 7) ∈ s.priReqs ∧ opsOfVf s 0 = []) ∧
    (∃ o, priS.op? 9 = some o ∧ (opsOfVf priS 0 == [(o, 0)] && priS.group? o.gid == some priS.cur && priS.cur.vf == 0 && o.kind == .load && !o.checked && !o.held &&
      o.lanes.all (fun l => l.stage == .pri && l.xl == .ok hostPage7) && hostPage7.pa / 4096 == 7) = true) ∧ (0, 7) ∈ priS.priReqs ∧ (0, 7) ∈ priS.priEngines ∧
    (∀ e ∈ b0.invals, ¬ (e.1 = 0 ∧ e.2.1 = 0x100)) :=
  ⟨is_of (f := fun _ => true) (by decide), err_of (f := fun _ => true) (by decide), by decide, ex_of (by decide), by decide, by decide, by decide⟩

/-! Runs, fences, barriers, faults. -/

/-- A queue entry of a run. -/
def entry (n : Nat) (c : Option (List Code1)) : Entry :=
  { seq := n, pair := false, idxA := 0, idxB := 0, k4 := 0, await := 0, lb := false, code := c, readyAt := 0, since := none }
/-- The code of a run of one word with no token. -/
def code1 (i : Instr) : Code1 := { words := [i], tr := { tok := 8, regs := [], masks := [] } }

theorem witness_RunQueueWord : b0.cur.live = true ∧ b0.cur.queue.length < 8 ∧ 8 ≤ (bg (fun g => { g with queue := List.replicate 8 (entry 1 none) })).cur.queue.length ∧
    (∀ n, n < 8 → (5 : BitVec 8).getLsbD n = true → ¬ tokenOwed b0 n) ∧
    (∃ n, n < 8 ∧ (1 : BitVec 8).getLsbD n = true ∧ tokenOwed (let s := br (.ld ls)
      { s with cur := { s.cur with runs := s.cur.runs.map (fun r => { r with sides := r.sides.map (fun d => { d with tr := { d.tr with tok := 0 } }) }) } }) n) := by
  refine ⟨rfl, by decide, by decide, ?_, 0, by decide, by decide, Or.inl ?_⟩
  · intro n _ _ h
    rcases h with ⟨d, hd, _⟩ | ⟨e, he, _⟩
    · exact absurd hd (List.not_mem_nil)
    · exact absurd he (List.not_mem_nil)
  · exact ⟨_, List.mem_cons_self, rfl, fun h => absurd h (by decide)⟩
theorem witness_FenceWord : b0.cur.live = true ∧ earlierDone b0 b0.cur = true ∧ (0 : BitVec 2) ≠ 3 ∧ earlierDone mLoad mLoad.cur = false := by decide
/-- Slot 0 of the bench's team, whose phase 0 a group awaits. -/
def bw : State := bg (fun g => { g with stall := .barWait 0 0 100 2 })
theorem witness_BarrierWord : b0.cur.live = true ∧ b0.cur.stall = .none ∧ namesSlot b0 (b0.cur.readS 0) 0 ∧ namesSlot (bs [(1, 31)]) 31 31 ∧ (b0.cur.readS 2).toNat < 2 ^ 40 ∧
    earlierDone b0 b0.cur = true ∧ mayWriteS b0 1 = true ∧ b0.cur.hd + 2 ≤ ({ b0 with gtc := 2 }).timeOf b0.cur ∧ b0.timeOf b0.cur < b0.cur.hd + 2 ∧ ¬ phasePassed Bar.reset 0 ∧
    phasePassed { Bar.reset with phase := 1 } 0 := by
  refine ⟨rfl, rfl, ⟨rfl, by decide, by decide⟩, ⟨rfl, by decide, by decide⟩, by decide, by decide, by decide, by decide, by decide, ?_, ⟨by decide, by decide⟩⟩
  unfold phasePassed; decide
theorem witness_BarrierWaitTimeout : bw.group? 3 = some bw.cur ∧ bw.cur.stall = .barWait 0 0 100 2 ∧ bw.timeNext 0 ≤ 100 ∧ 100 < ({ bw with gtc := 100 }).timeNext 0 ∧ bw.skew = bw.skewGoal ∧
    gidsDiffer bw ∧ (∀ t ∈ bw.teams, ∀ x ∈ t.saved, x.gid ≠ 3) ∧
    ¬ phasePassed ((bw.teamOf bw.cur).bars.getD 0 Bar.reset) 0 := by
  refine ⟨rfl, rfl, by decide, by decide, by decide, by unfold gidsDiffer; decide, by decide, ?_⟩
  unfold phasePassed; decide
theorem witness_SoftwareBreak : b0.cur.live = true ∧ b0.cur.readS 1 = 0 ∧ (bs [(1, 1)]).cur.live = true ∧ (bs [(1, 1)]).cur.readS 1 ≠ 0 := by decide
theorem witness_FaultTakenByHalt : (let s := run1 .tend b0
      s.group? 3 = some s.cur ∧ s.cur.gid = 3 ∧ s.cur.fault = none ∧ (∃ fr, takenNext s s.cur fr) ∧ policyOf s s.cur.grid s.cur.vf .access = (.halt, 2) ∧
      smapWf false s.hub.pba = true) ∧ tablesOk b0 ∧
    (let s := takeFault (run1 .tend b0) 3; s.group? 3 = some s.cur ∧ s.cur.fault ≠ none) := by
  refine ⟨⟨by decide +kernel, rfl, by decide +kernel, ⟨_, rfl⟩, by decide +kernel, by decide +kernel⟩, by unfold tablesOk; decide, by decide +kernel, by decide +kernel⟩
/-- The bench's grid with the same policy for every fault. -/
def bp (nib : BitVec 4) : State := { b0 with grids := [{ benchGrid with contain := BitVec.ofNat 128 (nib.toNat * ((2 ^ 128 - 1) / 15)) }] }
theorem witness_FaultResolvedOrHeld : (let s := run1 .tend (bp 2)
      s.cur.live = true ∧ s.cur.fault = none ∧ (∃ fr, s.cur.heldFaults = [fr] ∧ fr.src = .scalar ∧ fr.code = .access) ∧
      policyOf s s.cur.grid s.cur.vf .access = (.ignore, 2)) ∧
    policyOf (bp 3) 1 0 .access = (.retry, 2) ∧ Code.access ≠ .detPower ∧
    (let f := faultHere b0 .access 0
     f.gtime = ({ f with lane := true } : FaultRec).gtime ∧ f.lane = false ∧ ({ f with lane := true } : FaultRec).lane = true ∧
      faultRun b0 { f with lane := true, src := .word 1 0 } = some (1, 0) ∧ faultRun b0 { f with lane := true, src := .word 2 0 } = some (2, 0)) := by
  refine ⟨⟨by decide, by decide, ⟨_, rfl, rfl, rfl⟩, by decide⟩, by decide, by decide, by decide⟩

/-! Issue. -/

/-- A run whose fetch is to come: two lane words, the second a trailer, in memory at 0x20000; and one with a reserved op10. -/
def fetchable (w : Nat) : State :=
  let s := bg (fun g => { g with queue := [entry 1 none] })
  { s with mem := writeBytes (writeBytes s.mem 0x20000 (toBytes 12 w)) 0x2000C (toBytes 12 (0x3FF * 2 ^ 86 + 8 * 2 ^ 82)) }
theorem witness_RunFetch : (let s := fetchable (encLaneOp 0 l2).toNat
      s.group? 3 = some s.cur ∧ s.cur.queue = [entry 1 none] ∧ (entry 1 none).code = none ∧ (fetched s s.cur (entry 1 none)).1 = false ∧
        (fetched s s.cur (entry 1 none)).2.1.isEmpty = true) ∧
    (let s := fetchable (0x018 * 2 ^ 86); (fetched s s.cur (entry 1 none)).1 = false ∧ (fetched s s.cur (entry 1 none)).2.1.isEmpty = false) ∧
    (let s := { fetchable 0 with mem := writeBytes (fetchable 0).mem benchTable [0x77] }; (fetched s s.cur (entry 1 none)).1 = true) ∧ 2 ^ 17 ≤ 2 ^ 17 ∧
    (∀ r ∈ (fetchable 0).cur.runs, r.again = false) := by decide
/-- A restored parked run that is to be fetched again. -/
def againS (w : Nat) : State := let s := fetchable w; { s with cur := { s.cur with queue := [], runs := [{ benchRun s (.iadd l2) with again := true, parked := true }] } }
def refetched (s : State) : Fetched := (fetchRun s s.cur 0 0).1
theorem witness_RunFetch_again : (∃ r, refetchDue (againS 0) (againS 0).cur = some r ∧ (!r.pair && decide (r.sides.length = 1) && r.sides.all (fun d => !d.issued && d.wi == 0)) = true) ∧
    (againS 0).group? 3 = some (againS 0).cur ∧ ((againS 0).cur.runs.map (·.seq)).Nodup ∧
    (let f := refetched (againS (encLaneOp 0 l2).toNat); f.waits = false ∧ (formFails (againS 0).cur false f).isEmpty = true ∧ 0 < f.code.words.length) ∧
    (let f := refetched (againS (0x018 * 2 ^ 86)); f.waits = false ∧ (formFails (againS 0).cur false f).isEmpty = false) ∧
    (let s := againS 0; (refetched { s with mem := writeBytes s.mem benchTable [0x77] }).waits = true) :=
  ⟨ex_of (by decide), by decide, by decide, by decide, by decide, by decide⟩
/-- A group whose head is Ready. -/
def readyState : State := bg (fun g => { g with queue := [entry 1 (some [code1 (.iadd l2)])] })
theorem witness_RunStart : ((ageHeads b0 0).core 0).grant = false ∧
    (let u := ageHeads { readyState with cores := [(0, { Core.reset with grant := true })] } 0
     (u.core 0).grant = true ∧ (groupsOn u 0).filter (fun g => (readyHead u g).isSome) = [u.cur] ∧ (readyHead u u.cur).isSome = true ∧
      takeQuarters u.cur.width (heldQuarters u 0) = some 15 ∧ takeDecoders false (heldDecoders u 0) = some 1) ∧
    (let s := { b0 with cores := [(0, { Core.reset with grant := true })] }
     ((ageHeads s 0).core 0).grant = true ∧ ∀ g ∈ groupsOn (ageHeads s 0) 0, readyHead (ageHeads s 0) g = none) ∧
    (readyState.group? 3 = some readyState.cur ∧ readyHead readyState readyState.cur = some (entry 1 (some [code1 (.iadd l2)]), [code1 (.iadd l2)]) ∧
      capOk readyState 0 readyState.cur [code1 (.iadd l2)] = true ∧ (∀ r ∈ readyState.cur.runs, r.seq ≠ 1) ∧ (code1 (.iadd l2)).words ≠ []) := by
  decide
theorem witness_SchedulerWindows : ({ b0 with cycle := 1024 }).cycle / 1024 > (b0.core 0).lossWin ∧ (b0.core 0).capDrop ≤ 46 ∧ b0.cycle / 1024 ≤ (b0.core 0).lossWin ∧
    smapWf Core.reset b0.cores = true := by decide
/-- A lane word whose result is due. -/
def dueS (i : Instr) (gctl : Word64) : State :=
  let s := run1 i (brv i [(0, 6, 0)])
  { s with cycle := 40, cur := { s.cur with gctl := gctl } }
theorem witness_FixedLatencyLanding : (∃ l, dueLanding (dueS (.idiv l2) 0x80) (dueS (.idiv l2) 0x80).cur = some l ∧ (l.final && (trapOf 0x80 (l.acc ++ l.st)).isNone &&
      (l.st.map (fun x => x.1)).length == 8) = true) ∧
    (∃ l, dueLanding (dueS (.idiv l2) 0x88) (dueS (.idiv l2) 0x88).cur = some l ∧ (l.final && (trapOf 0x88 (l.acc ++ l.st)).isSome) = true) ∧
    (∃ l, dueLanding (dueS (.icmp { l2 with d := .mrf 3 }) 0x80) (dueS (.icmp { l2 with d := .mrf 3 }) 0x80).cur = some l ∧ l.kw.isSome = true) ∧
    (dueS (.idiv l2) 0x80).group? 3 = some (dueS (.idiv l2) 0x80).cur ∧ smapWf 0 (dueS (.idiv l2) 0x80).cur.k = true ∧ smapWf 0 (dueS (.idiv l2) 0x80).cur.lstat = true ∧
    (dueS (.idiv l2) 0x80).cur.issuing 1 0 = false ∧
    (let s := run1 (.iadd l2) { brv (.iadd l2) [(0, 6, 1)] with cur := { (brv (.iadd l2) [(0, 6, 1)]).cur with
        runs := (brv (.iadd l2) [(0, 6, 1)]).cur.runs.map (fun r => { r with sides := r.sides.map (fun d => { d with words := [.iadd l2, .iadd l2] }) }) } }
     let t := { s with cycle := 40 }
     (∃ l, dueLanding t t.cur = some l ∧ (t.cur.issuing l.seq l.side && !l.push.isEmpty && decide ((l.push.map (fun e => e.1)).Nodup)) = true) ∧ smapWf 0 t.cur.lrf = true) :=
  ⟨ex_of (by decide), ex_of (by decide), ex_of (by decide), rfl, by decide, by decide, by decide, ex_of (by decide), by decide⟩
/-- A run parked at an atomic. -/
def parkedS : State := { run1 (.atom lat) (busyAnt (.atom lat)) with cycle := 2 }
theorem witness_ParkedRunResumes : parkedS.group? 3 = some parkedS.cur ∧ parkedS.cur.live = true ∧ parkedS.cur.preempt = false ∧
    (∃ x, parkedSide parkedS parkedS.cur = some x ∧ (x.1.quarters != 0 && isEngineWord x.2.2 && decide ((together parkedS x.1.stream x.2.1).length ≤ 1)) = true) ∧
    (bg (fun g => { g with preempt := true })).cur.preempt = true :=
  ⟨rfl, rfl, by decide, ex_of (by decide), rfl⟩
/-- A group that holds promise slot 3 for tick 100,000 (04, Example 3), also as a task. -/
def aTask : Task := { id := 1, root := true, scope := 0, sidx := 0, stack := [], msel := 0, sbase := 0, ns := 0, lbase := 0, nl := 0, tree := 2, addr := some 0 }
def prom3 (t : Option Task) : State := bg (fun g => { g with s := [(12, 0x30000000000186A0)], proms := [{ slot := 3, time := 100000, ref := .twe 9 }], task := t })
theorem witness_SleepWord : (prom3 none).cur.live = true ∧ (prom3 none).cur.task = none ∧ (prom3 (some aTask)).cur.task ≠ none ∧
    (((prom3 (some aTask)).cur.readS 12).toNat / 2 ^ 60 = 3 ∧ ((prom3 (some aTask)).cur.readS 12).toNat % 2 ^ 60 = 100000 ∧
      ∃ p ∈ (prom3 (some aTask)).cur.proms, p.slot = 3 ∧ p.time = 100000) ∧
    taskQuiet (prom3 (some aTask)) = true ∧ taskQuiet { mLoad with cur := { mLoad.cur with task := some aTask } } = false ∧
    (let s := run1 (.sleep 12) (prom3 none)
     s.group? 3 = some s.cur ∧ s.cur.fault = none ∧ s.cur.stall = .sleep 100000 3 ∧ s.timeOf s.cur < 100000 ∧ 100000 ≤ ({ s with gtc := 100000 }).timeOf s.cur) ∧
    (let s := bg (fun g => { g with stall := .sleepOp 5 3 }); s.group? 3 = some s.cur ∧ s.cur.stall = .sleepOp 5 3 ∧ s.cur.proms = []) := by decide
/-- A `fence` that waits for its tick, and a group that waits for a token. -/
def fenceS : State := run1 (.fence 2) (bg (fun g => { g with hd := 50 }))
def tokenS (l : List Token) : State := { bg (fun g => { g with stall := .fenceSys [7] }) with tokens := l }
theorem witness_HorizonReached : fenceS.ops = [] ∧ fenceS.group? 3 = some fenceS.cur ∧ fenceS.cur.live = true ∧ fenceS.cur.fault = none ∧ fenceS.cur.stall = .horizon 52 .fence ∧
    fenceS.timeOf fenceS.cur < 52 ∧ 52 ≤ ({ fenceS with gtc := 52 }).timeOf fenceS.cur ∧ (tokenS []).group? 3 = some (tokenS []).cur ∧ (tokenS []).cur.stall = .fenceSys [7] ∧
    (∃ n ∈ [7], ∃ k ∈ (tokenS [{ id := 7, flush := false, port := 0, part := 0, count := 1, ready := 0, behind := 0 }]).tokens, k.id = n) ∧
    (∀ n ∈ [7], ∀ k ∈ (tokenS []).tokens, k.id ≠ n) ∧
    (let s := bg (fun g => { g with stall := .horizon 0 (.barEnd 5) })
     s.ops = [] ∧ s.group? 3 = some s.cur ∧ s.cur.stopped = false ∧ s.cur.sready ≤ s.cycle ∧ s.cur.stall = .horizon 0 (.barEnd 5) ∧ 0 ≤ s.timeOf s.cur) ∧
    (let s := bg (fun g => { g with stall := .horizon 0 (.xfence 1 true) })
     s.ops = [] ∧ s.group? 3 = some s.cur ∧ s.cur.stopped = false ∧ s.cur.sready ≤ s.cycle ∧ s.cur.stall = .horizon 0 (.xfence 1 true) ∧ 0 ≤ s.timeOf s.cur) ∧
    fenceS.cur.stopped = false ∧ fenceS.cur.sready ≤ ({ fenceS with cycle := 1 }).cycle := by decide
/-- A full/empty load that waits for a full word, with a bound of 64 ticks. -/
def feS : State :=
  let l : LaneReq := { lane := 0, ea := 0, xl := .ok scratchPage, data := [], cmp := [], rd := [], stage := .feWait 0 0 }
  { b0 with ops := [{ id := 9, gid := 3, scalar := false, seq := 0, side := 0, run := 0, word := 0, pc := 0, kind := .ldF, space := .scratch, order := 0, scope := 2, typ := .i32, nbytes := 8
                      hint := 0, dst := 2, base := 0, off := 0, lanes := [l], checked := true, asked := true, floor := 0, issuedAt := 0, ready := 0, bound := 64, stamp := 0, vmax := 0, held := false, sent := none }] }
theorem witness_BoundExpiry_op : (∃ o, feS.op? 9 = some o ∧ (!o.held && (feS.timed? o.gid).isSome && o.lanes.any (fun l => l.stage == .feWait 0 0) && decide (feS.timeOf b0.cur < 0 + o.bound) &&
    decide (0 + o.bound ≤ ({ feS with gtc := 64 }).timeOf b0.cur)) = true) := ex_of (by decide)
theorem witness_BoundExpiry_task : (let s := bg (fun g => { g with task := some aTask })
    s.group? 3 = some s.cur ∧ s.cur.task ≠ none ∧ s.cur.fault = none ∧ s.cycle < s.cur.stretch + 16384 ∧ s.cur.stretch + 2 ^ 20 ≤ ({ s with cycle := 2 ^ 20 }).cycle) := by decide

/-! Engines. -/

/-- The bench with a tile descriptor at 0x3000, whose address s10 holds. -/
def tileS (d : Nat) (l : SMap Word64) : State := { bs ((10, 0x3000) :: l) with mem := writeBytes b0.mem 0x3000 (toBytes 64 d) }
/-- One element of 4 bytes from 0x1000 to 0x2000; to the scratchpad at 0x100, alone or behind a guard word; a collective of die 0. -/
def copyDesc : Nat := 0x1000 + 0x2000 * 2 ^ 64 + (2 <<< 326)
def padDesc : Nat := 0x1000 + 0x100 * 2 ^ 64 + 2 ^ 127 + (2 <<< 326)
def guardDesc : Nat := padDesc + (1 <<< 343) + (0x200 <<< 352)
def collDesc : Nat := padDesc + (1 <<< 428)
def outDesc : Nat := padDesc + 0x80000 * 2 ^ 64
/-- An `Except` that is a value, with a property of it and of the state beside it. -/
theorem goodS_of {ε α : Type} {r : Except ε α × State} {f : α → State → Bool} (h : (match r with | (.ok x, t) => f x t | _ => false) = true) :
    ∃ x t, r = (.ok x, t) ∧ f x t = true := by
  obtain ⟨a, t⟩ := r
  cases a with
  | ok x => exact ⟨x, t, rfl, h⟩
  | error e => exact absurd h Bool.false_ne_true

/-- A command of the TWE with its receiver. -/
def tweCmd (d : Nat) (k : TweKind) (since : Option Nat) (done : Bool) : TweCmd :=
  { id := 9, gid := 3, team := 2, grid := 1, vf := 0, cluster := 0, die := 0, kind := k, pc := 0, desc := BitVec.ofNat 512 d
    recvs := [{ team := 2, progress := 0, since := since, arrived := 0, done := done, pending := 0, pages := [], held := false, own := [], next := 0 }], bound := 64, stamp := 0
    issuedAt := 0, mark := 0, result := none, since := 0, held := false, hmax := 0, ready := 0, stage := .queued }
/-- The bench whose pages are host pages that ATS does not translate. -/
def pageless (s : State) : State := { s with mem := writeBytes s.mem benchTable [0x77] }
/-- A descriptor that passes its checks, as the word finds it. -/
def passes (k : TweKind) (s : State) : Bool :=
  match readBlock s (s.cur.readS 10) with
  | (.ok d, u) => tileFields k d && tilePlaces u u.cur k (tileOf d) && tileBounds u u.cur k (tileOf d) && !(k == .cpyc && collClash u u.cur (tileOf d))
  | _ => false

theorem witness_TileWord : b0.cur.live = true ∧ earlierDone (tileS copyDesc []) (tileS copyDesc []).cur = true ∧ mayWriteS (tileS copyDesc []) 12 = true ∧
    checkedTwe (tileS copyDesc []) 3 = none ∧ passes .cpy (tileS copyDesc []) = true ∧ passes .cpym (tileS (padDesc + (1 <<< 384)) []) = true ∧ passes .cpyc (tileS collDesc []) = true ∧
    lowestFree (tileS copyDesc []).cur.proms 1 ∧ (tweQueue (tileS copyDesc []) 0).length < 64 ∧ earlierDone mLoad mLoad.cur = false ∧
    (∃ c t, readBlock (bs [(10, 0x3004)]) 0x3004 = (.error c, t) ∧ c.isSome = true) ∧
    (∃ c t, readBlock (pageless (tileS copyDesc [])) 0x3000 = (.error c, t) ∧ c.isNone = true) ∧
    (∃ d t, readBlock (tileS (2 ^ 60) []) 0x3000 = (.ok d, t) ∧ (!tileFields .cpy d) = true) ∧
    (∃ d t, readBlock (tileS outDesc []) 0x3000 = (.ok d, t) ∧ (tileFields .cpy d && tilePlaces t t.cur .cpy (tileOf d) && !tileBounds t t.cur .cpy (tileOf d)) = true) ∧
    slotsTaken ((List.range 16).map (fun n => { slot := n, time := 0, ref := .twe 0 })) := by
  refine ⟨rfl, by decide +kernel, by decide +kernel, by decide +kernel, by decide +kernel, by decide +kernel, by decide +kernel, ⟨by decide +kernel, by decide +kernel, ?_, ?_⟩,
    by decide +kernel, by decide +kernel, bad_of (f := Option.isSome) (by decide +kernel), bad_of (f := Option.isNone) (by decide +kernel),
    good_of (f := fun d => !tileFields .cpy d) (by decide +kernel), ?_, ?_⟩
  · intro p hp; exact absurd hp List.not_mem_nil
  · intro m h1 h2; omega
  · exact goodS_of (f := fun d t => tileFields .cpy d && tilePlaces t t.cur .cpy (tileOf d) && !tileBounds t t.cur .cpy (tileOf d)) (by decide +kernel)
  · intro n _ h; exact ⟨⟨n, 0, .twe 0⟩, List.mem_map.mpr ⟨n, List.mem_range.mpr (by omega), rfl⟩, rfl⟩

/-- A command that has passed its checks and waits for a promise slot, holds it, or waits for its queue. -/
def checkedS (proms : List Promise) : State := bg (fun g => { g with proms := proms }) |> fun s => { s with twe := [{ tweCmd copyDesc .cpy none false with stage := .checked }] }
theorem witness_TileWord_checked : (∃ c, checkedTwe (checkedS []) 3 = some c ∧ (c.id == 9) = true) ∧ (∀ p ∈ (checkedS []).cur.proms, p.ref ≠ .twe 9) ∧ lowestFree (checkedS []).cur.proms 1 ∧
    (∃ p ∈ (checkedS [{ slot := 1, time := 0, ref := .twe 9 }]).cur.proms, p.ref = .twe 9) ∧
    (let l := (List.range 15).map (fun n => ({ slot := n + 1, time := 0, ref := .ffa 1 } : Promise))
     (∀ p ∈ (checkedS l).cur.proms, p.ref ≠ .twe 9) ∧ slotsTaken (checkedS l).cur.proms) := by
  refine ⟨ex_of (by decide), fun p h => absurd h List.not_mem_nil, ⟨by decide, by decide, fun p h => absurd h List.not_mem_nil, fun m h1 h2 => by omega⟩, by decide, by decide, ?_⟩
  intro n h1 h; exact ⟨⟨n, 0, .ffa 1⟩, List.mem_map.mpr ⟨n - 1, List.mem_range.mpr (by omega), by simp; omega⟩, rfl⟩

theorem witness_TileAddressRule : (let t := tileOf (BitVec.ofNat 512 (copyDesc + (3 <<< 256) + (2 <<< 288))); t.n0 = 4 ∧ t.n1 = 3 ∧ t.n2 = 1 ∧ 3 < t.n0 ∧ 2 < t.n1 ∧ 0 < t.n2) := by decide +kernel

/-- The bench with such a command. -/
def tweS (d : Nat) (k : TweKind) (since : Option Nat) (done : Bool) : State := { b0 with twe := [tweCmd d k since done] }
/-- The guard word of the receiver is full. -/
def shutS (since : Option Nat) : State := { tweS guardDesc .cpy since false with teams := b0.teams.map (fun t => { t with fe := [(0x40, true)] }) }

theorem witness_TileEvents : (∃ x, servable (tweS copyDesc .cpy none false) (tweCmd copyDesc .cpy none false) 2 = some x ∧ (x.since.isNone && x.progress == 0) = true) ∧
    (∃ x, servable (shutS none) (tweCmd guardDesc .cpy none false) 2 = some x ∧ (x.since.isNone && x.progress == 0 && (tileOf (BitVec.ofNat 512 guardDesc)).gv &&
      !guardEmpty (shutS none) (tileOf (BitVec.ofNat 512 guardDesc)) 2) = true) ∧
    (let s := tweS copyDesc .cpy none true
     s.twe? 9 = some (tweCmd copyDesc .cpy none true) ∧ s.group? 3 = some s.cur ∧ (tweCmd copyDesc .cpy none true).stage = .queued ∧
      ∀ r ∈ (tweCmd copyDesc .cpy none true).recvs, r.done = true ∧ r.pending = 0) ∧
    (let s := tweS collDesc .cpyc none false
     s.twe? 9 = some (tweCmd collDesc .cpyc none false) ∧ allHere s (tweCmd collDesc .cpyc none false) = true ∧
      ∀ x ∈ participants s (tweCmd collDesc .cpyc none false), x.stage = .queued ∧ x.held = false ∧ walked s x = true ∧ ∃ r ∈ x.recvs, r.done = false) ∧
    (let s := tweS (collDesc + (1 <<< 429)) .cpyc none false; allHere s (tweCmd (collDesc + (1 <<< 429)) .cpyc none false) = false ∧ s.time 0 < 0 + 64 ∧ 0 + 64 ≤ ({ s with gtc := 64 }).time 0 ∧
      (∃ t, s.team? 2 = some t ∧ t.savedAt.isNone = true)) ∧
    (tileOf (BitVec.ofNat 512 collDesc)).etype ≠ 4 ∧ (tileOf (BitVec.ofNat 512 collDesc)).op = false := by
  refine ⟨ex_of (by decide +kernel), ex_of (by decide +kernel), by decide +kernel, by decide +kernel, ⟨by decide +kernel, by decide +kernel, by decide +kernel, ex_of (by decide +kernel)⟩,
    by decide +kernel, by decide +kernel⟩
/-- What the fold of a collective finds. -/
theorem witness_TileEvents_fold : (let s := (tweS collDesc .cpyc none false).modTwe 9 (fun c => { c with ready := max c.ready 1 })
    ∃ l u, collFold (tileOf (BitVec.ofNat 512 collDesc)) none s (participants (tweS collDesc .cpyc none false) (tweCmd collDesc .cpyc none false)) = (.ok l, u) ∧ l.isEmpty = false) :=
  by
    obtain ⟨l, u, h, g⟩ := good_of (r := collFold (tileOf (BitVec.ofNat 512 collDesc)) none ((tweS collDesc .cpyc none false).modTwe 9 (fun c => { c with ready := max c.ready 1 }))
      (participants (tweS collDesc .cpyc none false) (tweCmd collDesc .cpyc none false))) (f := fun l => !l.isEmpty) (by decide +kernel)
    exact ⟨l, u, h, by simpa using g⟩
theorem witness_BoundExpiry_guard : (∃ x, servable (shutS (some 0)) (tweCmd guardDesc .cpy (some 0) false) 2 = some x ∧ (x.since == some 0 && decide ((shutS (some 0)).time 0 < 0 + 64) &&
      decide (0 + 64 ≤ ({ shutS (some 0) with gtc := 64 }).time 0) && !guardEmpty (shutS (some 0)) (tileOf (BitVec.ofNat 512 guardDesc)) 2) = true) := ex_of (by decide +kernel)

/-- The bench whose array has a command at its head. -/
def ffaCmd (k : FfaKind) (since : Option Nat) : FfaCmd :=
  { id := 9, gid := 3, pc := 0, kind := k, mark := 0, at_ := 0, pages := [], performed := false, bound := 64, stamp := 0, since := since, force := false, ready := 0, phase := 0, latched := none, ended := false, pending := 0, hmax := 0 }
def ffaS (q : List FfaCmd) (slots : SMap BSlot) : State :=
  { b0 with teams := b0.teams.map (fun t => { t with ffa := some { Ffa.fresh 0 with queue := q, slots := slots, lag := 1 } }) }
/-- Slot 0 mapped, in need of a state that has not come. -/
def needy : SMap BSlot := [(0, { BSlot.reset with mapped := true, start := 0, ring := [] })]

theorem witness_FireflyWord : b0.cur.live = true ∧ (∀ r ∈ fireflyWords (bs [(1, 1)]) 1 2, r.2.1.reachesMemory = true → earlierDone b0 b0.cur = true) ∧
    (∃ p t, ffaChecks (bs [(1, 1)]) (bs [(1, 1)]).cur (.beta 1) = (.ok p, t) ∧ true = true) ∧ (∃ c t, ffaChecks b0 b0.cur (.beta 65536) = (.error c, t) ∧ true = true) ∧
    (∃ p t, ffaChecks b0 b0.cur (.sweep 0) = (.ok p, t) ∧ true = true) ∧ lowestFree b0.cur.proms 1 ∧
    (∃ f, (b0.teamOf b0.cur).ffa = some f ∧ decide (f.queue.length < 16) = true) ∧
    (∃ f, ((ffaS (List.replicate 16 (ffaCmd (.beta 0) none)) []).teamOf b0.cur).ffa = some f ∧ decide (16 ≤ f.queue.length) = true) ∧
    (let s := { b0 with teams := b0.teams.map (fun (t : Team) => { t with ffa := none }) }; (s.teamOf s.cur).ffa = none) := by
  refine ⟨rfl, fun _ _ _ => by decide, good_of (f := fun _ => true) (by decide), bad_of (f := fun _ => true) (by decide), good_of (f := fun _ => true) (by decide),
    ⟨by decide, by decide, ?_, ?_⟩, ex_of (by decide), ex_of (by decide), by decide⟩
  · intro p hp; exact absurd hp List.not_mem_nil
  · intro m h1 h2; omega
theorem witness_FireflyEvents :
    (∃ x, ffaHead (ffaS [ffaCmd (.beta 5) none] []) 2 = some x ∧ (x.2.2.kind == .beta 5 && !x.2.2.performed) = true) ∧
    (∃ x, ffaHead (ffaS [ffaCmd (.sweep 2) none] []) 2 = some x ∧ (x.2.2.kind == .sweep 2 && !x.2.2.ended && sweepReady (ffaS [ffaCmd (.sweep 2) none] []) x.1 x.2.1 x.2.2) = true) ∧
    (∀ n ∈ [1, 2], ∃ x, ffaHead (ffaS [{ ffaCmd (.sweep n) none with ended := true }] []) 2 = some x ∧
      (x.2.2.kind == .sweep n && x.2.2.ended && x.2.2.latched.isNone && sweepReady b0 x.1 x.2.1 x.2.2) = true) ∧
    (∃ x, ffaHead (ffaS [{ ffaCmd (.sweep 1) none with latched := some [], ready := 9 }] []) 2 = some x ∧
      (x.2.2.latched.isSome && decide (b0.cycle < x.2.2.ready) && decide (x.2.2.ready ≤ ({ b0 with cycle := 9 }).cycle)) = true) ∧
    (∀ n ∈ [0, 1], ∃ x, ffaHead (let s := ffaS [{ ffaCmd (.sweep 1) none with latched := some [], phase := n }] []
      { s with teams := s.teams.map (fun t => { t with ffa := t.ffa.map (fun f => { f with colours := [3] }) }) }) 2 = some x ∧
      (x.2.2.latched.isSome && decide (x.2.2.ready ≤ b0.cycle) && x.2.2.phase == n && (phases [] x.2.1.colours).length == 1) = true) ∧
    (∃ x, ffaHead (ffaS [ffaCmd (.sweep 0) none] []) 2 = some x ∧ (x.2.2.kind == .sweep 0 && x.2.2.latched.isNone) = true) ∧
    (∃ x, ffaHead (ffaS [ffaCmd (.sweep 1) (some 0)] []) 2 = some x ∧ (x.2.2.since == some 0 && decide ((ffaS [] []).time 0 < 0 + 64)) = true) ∧
    (∀ m ∈ [0, 4], let s := { ffaS [] needy with pubs := [{ id := 5, team := 2, slot := 0, map := m, tag := 1, val := true, ready := 0 }] }
     (s.pubs.find? (fun p => p.id == 5)).isSome = true ∧ (sget needy BSlot.reset 0).mapped = true ∧ smapWf BSlot.reset needy = true) ∧ (sget needy BSlot.reset 0).map = 0 ∧
    (∃ t, (ffaS [ffaCmd (.beta 5) none] []).team? 2 = some t ∧ (t.savedAt.isNone && t.ffa.any (fun f => !f.replay && f.queue.length == 1 && f.winStart == 0)) = true) ∧
    31744 ≤ 32768 ∧ 33792 < 40000 ∧ 40000 ≤ 65536 := by
  refine ⟨ex_of (by decide), ex_of (by decide), ?_, ex_of (by decide), ?_, ex_of (by decide), ex_of (by decide), by decide, by decide, ex_of (by decide), by decide⟩ <;>
    · intro n h
      simp only [List.mem_cons, List.not_mem_nil, or_false] at h
      rcases h with rfl | rfl <;> exact ex_of (by decide)
/-- A sweep that waits for a state that has not come (R268). -/
theorem witness_FireflyEvents_wait : (let s := { b0 with teams := b0.teams.map (fun t => { t with
      ffa := some { Ffa.fresh 0 with queue := [ffaCmd (.sweep 1) (some 0)], slots := needy, lag := 1, sweep := 3 } }) }
    ∃ x, ffaHead s 2 = some x ∧ (x.2.2.since == some 0 && !sweepReady s x.1 x.2.1 x.2.2 && !waitsOnSaved s x.1 x.2.1 x.2.2 && decide (0 + 64 ≤ ({ s with gtc := 64 }).time 0)) = true) :=
  ex_of (by decide)

/-- Matrix words: slot base 0, an f32 register of v8, a drain row. -/
def mxz : LaneOp := la
def mxr : LaneOp := { la with typ := .f32, d := .mrf 8 }
def mxd : LaneOp := { la with typ := .bf16x2, a := .mrf 4 }
theorem witness_MatrixWord :
    (∀ i ∈ [Instr.mxQ { la with a := .mrf 4, b := .special 0 10, c := .special 0 11 }, .mxZero mxz, .mxRd mxr, .mxWr mxr, .mxDrain mxd], ∃ q, issues (br i) i q ∧
      (q.final && !(octets 8 q.full).isEmpty && (octets 8 q.full).all (fun o => decide (o.1 < 256))) = true) ∧
    (∃ q, issues (br64 (.mxZero mxz)) (.mxZero mxz) q ∧ (!q.final) = true) ∧
    (∃ q, issues (br (.mxZero { mxz with kmask := 1 })) (.mxZero { mxz with kmask := 1 }) q ∧ (q.final && (octets 8 q.full).isEmpty) = true) ∧
    (let s := { b0 with teams := b0.teams.map (fun (t : Team) => { t with nslots := 0 }) }; ¬ slotsHeld s mxz none [(0, 0xFF)]) :=
  ⟨allStand_issues (f := fun q => q.final && !(octets 8 q.full).isEmpty && (octets 8 q.full).all (fun o => decide (o.1 < 256))) (by decide), stands_issues (by decide),
    stands_issues (by decide), fun h => absurd (h (0, 0xFF) List.mem_cons_self).1 (by decide)⟩
/-- A Ready request of the array, and one for the slot port. -/
def mxReq (k : MxKind) (window : Option Nat) (stage : MxStage) : MxReq :=
  { id := 9, gid := 3, team := 2, vf := 0, core := 0, slot := 0, octet := 0, cls := 2, seq := 1, side := 0, run := 0, word := 0, kind := k, rows := 0x81, dst := 5, src := none
    chunks := 1, next := 0, bAddr := 0x1000, fmt := 0, aScale := 0, bScale := 0, rowAddr := List.replicate 8 0x1000, mark := 0, reg := 8, col := 1, wdata := List.replicate 8 [1, 2, 3, 4], mod := 8
    e4m3 := false, scale := 0, amaxAddr := 0, amax := none
    pages := [(0, { pa := 0, ptype := 0, nc := false, nl := false, at_ := true, w := true, rd := true })], stamp := 0, since := some 0, window := window, closed := false, stage := stage, part := []
    held := false, pending := 0, hmax := 0, unsent := [] }
def mxS (k : MxKind) (window : Option Nat) (grant : Bool) : State :=
  { b0 with clusters := [(0, { Cluster.reset with reqs := [mxReq k window .waiting], mxGrant := grant })], teams := b0.teams.map (fun t => { t with acc := [(5 * 2048 + 4, 7)] }) }
/-- A pass of that request, whose last chunk is 24 cycles back. -/
def passS : State :=
  { b0 with cycle := 100, clusters := [(0, { Cluster.reset with reqs := [mxReq .q none (.inPass 8)], passes := [{ id := 8, members := [9], start := 0, tick := 0, free := 1, commit := 24, stop := none, snaps := [] }] })] }
theorem witness_MatrixPass : (∃ x, mxHead (mxS .q none false) 0 = some x ∧ (x.2 == false) = true) ∧ (∃ x, mxHead (mxS .q none true) 0 = some x ∧ (x.2 == true) = true) ∧
    arrayFree ((mxS .q none false).cluster 0) 0 = true ∧ smapWf Cluster.reset (mxS .q none false).clusters = true ∧ (passS.cluster 0).passes.length = 1 ∧
    (∀ p ∈ (passS.cluster 0).passes, p.commit < passS.cycle ∧ p.stop = none) ∧
    (let s := { passS with clusters := passS.clusters.map (fun (k : Nat × Cluster) => (k.1, { k.2 with passes := k.2.passes.map (fun (p : Pass) => { p with stop := some 1 }) })) }
     (s.cluster 0).passes.length = 1 ∧ ∀ p ∈ (s.cluster 0).passes, p.commit < s.cycle ∧ p.stop = some 1) ∧ (∀ p ∈ (passS.cluster 0).passes, 20 ≤ p.commit) ∧ (passS.team? 2).isSome = true :=
  ⟨ex_of (by decide), ex_of (by decide), by decide, by decide, by decide, by decide, by decide, by decide, by decide⟩
/-- A drain of two rows, whose first row and second piece lie on a device page. -/
theorem witness_SlotPort_rows : (let r := mxReq .drain none .waiting
    r.rows.getLsbD 0 = true ∧ (∃ p, pageAt r.pages (r.rowAddr.getD 0 0 + 16 * 1) = some p ∧ (p.ptype == 0) = true) ∧
      16 * 1 < (drainedRow r ((mxS .drain none false).teamOf b0.cur) 0).length) := ⟨by decide, ex_of (by decide), by decide +kernel⟩
theorem witness_SlotPort : ∀ k ∈ [MxKind.zero, .wr, .rd, .drain], (∃ r, (mxS k none false).req? 9 = some r ∧
    (r.kind == k && r.stage == .waiting && !r.blocked ((mxS k none false).cluster (r.core / 4)).reqs && ((mxS k none false).team? r.team).any (fun t => smapWf 0 t.acc) &&
      ((mxS k none false).group? r.gid).any (fun g => smapWf 0 g.v) && decide (r.col < 64) && decide (r.reg + 3 < 256)) = true) := by
  intro k hk
  simp only [List.mem_cons, List.not_mem_nil, or_false] at hk
  rcases hk with rfl | rfl | rfl | rfl <;> exact ex_of (by decide)

/-! Task mode. -/

/-- The bench in task mode, with the Hamper in the scratchpad and one tile of 16 i32 sums; the group runs the root task. -/
def taskGrid : Grid := { benchGrid with task := true, hsp := true, hsize := 0x10000, vtiles := [{ valid := true, trap := false, op := 0, size := 64 }] }
def tg (t : Task) (l : SMap Word64) (d : Grid) : State := { b0 with cur := { b0.cur with task := some t, s := l }, grids := [d] }
def inScope1 : Task := { aTask with stack := [(1, 0)] }
def scope1 : Scope := { id := 1, owner := 1, ended := [], turn := 0, total := none, folded := false, aborted := false }
/-- A spawn descriptor: PC 1, no registers, mask 0. -/
def spawnS : State := tg inScope1 [(10, 1)] { taskGrid with scopes := [scope1] }

theorem witness_TaskModeCheckAndExit : b0.cur.live = true ∧ b0.cur.task = none ∧ (bg (fun g => { g with task := some aTask })).cur.task ≠ none ∧
    benchGrid.task = false ∧ taskQuiet b0 = true ∧ taskQuiet mLoad = false ∧ (prom3 none).cur.proms ≠ [] ∧ b0.cur.proms = [] ∧ gidsDiffer b0 := by
  refine ⟨rfl, rfl, by decide, rfl, by decide, by decide, by decide, rfl, ?_⟩
  unfold gidsDiffer; decide
theorem witness_SpawnScopeView : inTask spawnS { taskGrid with scopes := [scope1] } inScope1 ∧ spawnS.cur.stall = .none ∧ taskQuiet spawnS = true ∧
    inScope1.stack.getLast? = some (1, 0) ∧ spawnFits spawnS.cur 1 12 ∧ ¬ spawnFits spawnS.cur 2 12 ∧ 0 < 4096 ∧ taskGrid.liveTasks < 2 ^ 20 ∧
    hamperFit taskGrid (hamperOf spawnS taskGrid 2) (recSize 0 0 32) = some 0x80000 ∧
    hamperFit { taskGrid with hsize := 0 } (hamperOf spawnS { taskGrid with hsize := 0 } 2) (recSize 0 0 32) = none ∧
    inScope1.stack.length ≠ 8 ∧ taskGrid.scopes.length < 65535 ∧ taskGrid.vtiles[0]? = some { valid := true, trap := false, op := 0, size := 64 } ∧
    mayWriteS spawnS 5 = true ∧ (∀ w ∈ taskGrid.views, ¬ (w.task = 1 ∧ w.tile = 0 ∧ w.st = 1)) ∧
    hamperFit taskGrid (hamperOf spawnS taskGrid 2) (64 + 64) = some 0x80000 ∧ taskGrid.hsp = true ∧ taskGrid.vtiles[1]? = none := by
  unfold inTask spawnFits; decide
/-- The Hamper in device memory: on a page that stands, on one with a write that is not visible yet, on no page; and a tile that is not valid. -/
def farGrid (a : Nat) : Grid := { taskGrid with hsp := false, hamper := BitVec.ofNat 64 a, scopes := [scope1] }
def farS (a : Nat) : State := tg inScope1 [(10, 1)] (farGrid a)
def farPages (s : State) (a : Nat) : Except (Code × Nat) (List (Nat × Nat)) × State := viewPages s 0 0 (spans a (64 + 64))
theorem witness_SpawnScopeView_far : hamperFit (farGrid 0x4000) (hamperOf (farS 0x4000) (farGrid 0x4000) 2) (64 + 64) = some 0x4000 ∧ (farGrid 0x4000).hsp = false ∧
    (∃ l u, farPages (farS 0x4000) 0x4000 = (.ok l, u) ∧ (l == [(0x4000, 128)] && l.all (fun p => clearAt u p.1 p.2)) = true) ∧
    (∃ l u, farPages { farS 0x4000 with lastV := [(0x4008, 9)] } 0x4000 = (.ok l, u) ∧ (!l.all (fun p => clearAt u p.1 p.2)) = true) ∧
    (∃ e u, farPages (farS (2 ^ 50)) (2 ^ 50) = (.error e, u) ∧ true = true) ∧
    ({ taskGrid with vtiles := [{ valid := false, trap := false, op := 0, size := 0 }] }).vtiles[0]? = some { valid := false, trap := false, op := 0, size := 0 } ∧
    smapWf 0 ((spawnS.team? 2).getD Team.none_).scr = true := by
  refine ⟨by decide +kernel, rfl, ?_, ?_, bad_of (f := fun _ => true) (by decide +kernel), rfl, by decide⟩
  · exact goodS_of (f := fun (l : List (Nat × Nat)) u => l == [(0x4000, 128)] && l.all (fun p => clearAt u p.1 p.2)) (by decide +kernel)
  · exact goodS_of (f := fun (l : List (Nat × Nat)) u => !l.all (fun p => clearAt u p.1 p.2)) (by decide +kernel)
/-- The time of the release has come. -/
def late (s : State) : State := { s with gtc := 2 }
theorem witness_YieldTendClose : inTask (late spawnS) { taskGrid with scopes := [scope1] } inScope1 ∧ taskQuiet (late spawnS) = true ∧
    (late spawnS).cur.hd + 2 ≤ (late spawnS).timeOf (late spawnS).cur ∧ spawnS.timeOf spawnS.cur < spawnS.cur.hd + 2 ∧ gidsDiffer (late spawnS) ∧
    inTask (late (tg aTask [] taskGrid)) taskGrid aTask ∧ aTask.stack = [] ∧ (late (tg aTask [] taskGrid)).cur.proms = [] ∧
    (∃ p, (prom3 (some aTask)).cur.proms = [p]) ∧ mayWriteS (late spawnS) 5 = true ∧
    ({ taskGrid with scopes := [scope1] }).scope? 1 = some scope1 ∧ taskGrid.views = [] ∧ (late spawnS).turns = [] := by
  refine ⟨?_, by decide, by decide, by decide, ?_, ?_, rfl, rfl, ⟨_, rfl⟩, by decide, by decide, rfl, rfl⟩
  · unfold inTask; decide
  · unfold gidsDiffer; decide
  · unfold inTask; decide
/-- A record in the deque of the bench's team for an idle runner, or one that waits for the operation of its promise. -/
def rec7 (wait : Option Promise) : Rec := { id := 7, task := aTask, pc := 1, mask := 0, svals := [], vvals := [], wait := wait, home := 2, closing := false, stamp := 0 }
def runnerS (wait : Option Promise) : State :=
  { b0 with cur := { b0.cur with stall := .idle 0 }, grids := [{ taskGrid with recs := [rec7 wait] }], teams := b0.teams.map (fun (t : Team) => { t with deque := [7] }) }
theorem witness_RunnerEvents : (let s := runnerS none
      s.group? 3 = some s.cur ∧ s.grid? s.cur.grid = some { taskGrid with recs := [rec7 none] } ∧ atWork s s.cur = true ∧ taskGrid.task = true ∧
      ((s.team? s.cur.team).bind (fun m => m.deque.getLast?)) = some 7 ∧ s.gridOfRec 7 = some { taskGrid with recs := [rec7 none] } ∧
      ({ taskGrid with recs := [rec7 none] }).rec? 7 = some (rec7 none) ∧ (rec7 none).task.ns ≤ (rec7 none).svals.length) ∧
    (let p : Promise := { slot := 3, time := 0, ref := .twe 9 }
     let s := runnerS (some p)
     s.gridOfRec 7 = some { taskGrid with recs := [rec7 (some p)] } ∧ (rec7 (some p)).wait = some p ∧ refDone s p.ref = true ∧
      refDone (tweS copyDesc .cpy none false) p.ref = false ∧ (∃ m, s.team? 2 = some m ∧ decide (m.deque.length < 256) = true)) := by
  refine ⟨by decide, by decide, by decide, by decide, by decide, ex_of (by decide)⟩
/-- A record with one scalar, one lane value and a mask. -/
theorem witness_RunnerEvents_values : (let r : Rec := { rec7 none with task := { aTask with ns := 1, sbase := 10, nl := 1, lbase := 20, msel := 3 }, svals := [5], vvals := [[6, 7]], mask := 9 }
    r.task.ns ≤ r.svals.length ∧ 10 + 0 < 64 ∧ (∀ i, i < r.vvals.length → r.task.lbase + i < 256) ∧ r.vvals[0]? = some [6, 7] ∧ ([6, 7] : List Word32)[1]? = some 7 ∧ r.task.msel ≠ 0) := by
  refine ⟨by decide, by decide, ?_, rfl, rfl, by decide⟩
  intro i h; have : i < 1 := h; show 20 + i < 256; omega
/-- The turn of child 0 of scope 1. -/
def turn5 : Turn :=
  { id := 5, grid := 1, scope := 1, sidx := some 0, tile := 0, off := 0, who := { gid := 3, core := 0, pc := 0, gidx := 0, cid := 0, tx := 0, ty := 0, tz := 0 }, h := 0, stopped := false, cause := 0, faddr := 0, ready := 0 }
def viewOf (addr : Nat) (sidx st : Nat) : View := { tile := 0, task := 4, scope := 1, sidx := sidx, addr := addr, team := 2, st := st, acc := false }
def turnS (l : List View) (stopped : Bool) : State :=
  { b0 with grids := [{ taskGrid with scopes := [scope1], views := l }], turns := [{ turn5 with stopped := stopped }] }
theorem witness_MergeTurn : (∃ t, (turnS [] true).turns.find? (fun t => t.id == 5) = some t ∧ t.stopped = true) ∧
    (let d := { taskGrid with scopes := [scope1], views := [] }
     (turnS [] false).turns.find? (fun t => t.id == 5) = some turn5 ∧ (turnS [] false).grid? turn5.grid = some d ∧ turn5.stopped = false ∧ turnAway (turnS [] false) d turn5 = false ∧
      (turnViews d turn5).1 = none) ∧
    (let d := { taskGrid with scopes := [scope1], views := [viewOf 0x80000 0 2] }
     turnAway (turnS d.views false) d turn5 = false ∧ turnViews d turn5 = (some (viewOf 0x80000 0 2), none)) ∧
    (8 ≤ ({ turn5 with tile := 8 } : Turn).tile ∧ b0.gtc < turn5.h + 2 ∧ turn5.tile < 8) ∧ (taskGrid.hsp = true ∧ ((b0.team? 2).getD Team.none_).errs = []) ∧
    (∀ op ∈ [0, 1, 3, 5, 7, 9], op < 10 ∧ op ≠ 2 ∧ op ≠ 4 ∧ op ≠ 6 ∧ op ≠ 8) := by
  refine ⟨⟨_, rfl, rfl⟩, by decide, by decide, by decide, by decide, by decide⟩

/-- Both views are there, the left one the accumulator of the scope; without an error, and with one in the right view's first element. -/
def bothViews : List View := [viewOf 0x80000 0 2, { viewOf 0x80100 9 1 with acc := true }]
def bothGrid : Grid := { taskGrid with scopes := [scope1], views := bothViews }
def bothS (errs : List Nat) : State := let s := turnS bothViews false; { s with teams := s.teams.map (fun t => { t with errs := errs }) }
def folded (s : State) : Option (Nat × Nat) × Nat × Nat × State := foldElements bothGrid 0 { valid := true, trap := false, op := 0, size := 64 } (viewOf 0x80000 0 2) { viewOf 0x80100 9 1 with acc := true } 0 0 s 16
theorem witness_MergeTurn_both : turnViews bothGrid turn5 = (some (viewOf 0x80000 0 2), some { viewOf 0x80100 9 1 with acc := true }) ∧
    turnAway (bothS []) bothGrid turn5 = false ∧ (bothS []).grid? 1 = some bothGrid ∧ (folded (bothS [])).1 = none ∧ (folded (bothS [(0x80000 + 64) / 8])).1 = some (3, 0x80040) ∧
    0x80000 + 0 + 16 * elemSize 0 ≤ 0x80100 + 0 ∧ (∃ m, (bothS []).team? 2 = some m ∧ (m.errs.isEmpty && smapWf 0 m.scr) = true) :=
  ⟨by decide, by decide, by decide, by decide +kernel, by decide +kernel, by decide, ex_of (by decide)⟩

/-! Queues, packets, dispatch and the host's answers. -/

theorem queue_roof (s : State) (vf q : Nat) (h : (s.queue vf q).entries = []) : queueFree s vf q ≠ 0 := by
  unfold queueFree queueCap; rw [h]; simp
/-- A packet of an operation with P0 and P1, its block in memory at 0x100, and queue 0 of the bench's function when it is full. -/
def blk (op p0 p1 : Nat) : Nat := op + (p0 <<< 384) + (p1 <<< 448)
def fullVDev (n : Nat) : VDev :=
  { VDev.reset with bind := true, state := 1, root := 1, save := 0x10, savesz := 0x100, queues := [(0, { entries := List.replicate n 0, widx := 0 })] }
def fullS : State := { b0 with vdevs := [(0, fullVDev (queueCap 0 0))] }
theorem full_queue : queueFree fullS 0 0 = 0 := by
  have h : (fullS.queue 0 0).entries = List.replicate (queueCap 0 0) 0 := rfl
  unfold queueFree; rw [h]; simp
theorem witness_QueueWord : b0.cur.live = true ∧ earlierDone b0 b0.cur = true ∧ earlierDone mLoad mLoad.cur = false ∧ mayWriteS b0 5 = true ∧
    b0.timeOf b0.cur < b0.cur.hd + 2 ∧ (late b0).cur.hd + 2 ≤ (late b0).timeOf (late b0).cur ∧ (b0.cur.readS 5).toNat < 16 ∧ 16 ≤ ((bs [(5, 16)]).cur.readS 5).toNat ∧
    (∃ p u, readBlock (stalled (late b0) .none) 0x100 = (.ok p, u) ∧ (u.cur.live && u.cur.vf == 0 && u.others.isEmpty) = true) ∧
    (∃ e u, readBlock (stalled (late b0) .none) 0x104 = (.error e, u) ∧ true = true) ∧ queueFree b0 0 0 ≠ 0 ∧ queueFree fullS 0 0 = 0 ∧
    b0.grid? b0.cur.grid = some benchGrid :=
  ⟨rfl, by decide, by decide, by decide, by decide, by decide, by decide, by decide, goodS_of (f := fun _ u => u.cur.live && u.cur.vf == 0 && u.others.isEmpty) (by decide),
    bad_of (f := fun _ => true) (by decide), queue_roof b0 0 0 (by decide), full_queue, rfl⟩

/-- A group alone on its machine. -/
theorem alone_differs {s : State} (h : s.others.isEmpty = true) : gidsDiffer s := by
  unfold gidsDiffer
  rw [List.isEmpty_iff.mp h]
  split
  · exact List.pairwise_singleton _ _
  · exact List.Pairwise.nil
/-- A group that waits in `qpush`; a packet that stands at some point. -/
def pushS (s : State) : State := { s with cur := { s.cur with stall := .qpush 0 100 7 5 } }
def pkt9 (op p0 p1 : Nat) (st : PktState) : Pkt :=
  { id := 9, vf := 0, queue := 0, part := 0, bits := BitVec.ofNat 512 (blk op p0 p1), st := st, rejected := false, h := 0, recheck := 0, pa := 0x3000 }
def pktS (op p0 p1 : Nat) (st : PktState) : State :=
  { b0 with pkts := [pkt9 op p0 p1 st], parts := [(0, { b0.part 0 with ready := [(0, false, 9)] })] }
/-- The bench's queue is full, its oldest packet is of grid 8, whose team waits for the core that grid 1 holds: harvest leaves no other. -/
def heldS (n : Nat) : State :=
  pushS { fullS with
    grids := [{ benchGrid with ovfSize := 64, nextDefer := n }, { benchGrid with id := 8, pkt := 9, nextTeam := 0 }], pkts := [pkt9 2 0 0 .running]
    harvest := (List.range 31).map (· + 1) }
theorem witness_QueueEvents : (pushS b0).group? 3 = some (pushS b0).cur ∧ (pushS b0).cur.stall = .qpush 0 100 7 5 ∧ queueFree (pushS b0) 0 0 ≠ 0 ∧
    ((pushS b0).grid? 1).isSome = true ∧ queueFree (pushS fullS) 0 0 = 0 ∧ (pushS b0).timeOf (pushS b0).cur < 100 ∧
    100 ≤ ({ pushS b0 with gtc := 100 }).timeOf (pushS b0).cur ∧ queueFree (heldS 0) 0 0 = 0 ∧
    ((heldS 0).grid? 1 = some { benchGrid with ovfSize := 64 } ∧ heldBack (heldS 0) 0 0 1 = true ∧ 0 < 64 / 64) ∧
    (heldBack (heldS 1) 0 0 1 = true ∧ 64 / 64 ≤ 1) ∧ heldBack (pushS b0) 0 0 1 = false ∧ benchGrid.ended = false ∧
    (∃ d, ({ b0 with grids := [{ benchGrid with ended := true, deferred := [(0, 0, 7), (1, 0, 8)] }] }).grid? 1 = some d ∧ d.ended = true ∧
      ∃ n q p r, d.deferred = (n, q, p) :: r ∧ r ≠ []) ∧
    (∃ d, ({ b0 with grids := [{ benchGrid with ended := true }] }).grid? 1 = some d ∧ d.ended = true ∧ d.deferred = []) ∧
    gidsDiffer (pushS b0) ∧ (∀ t ∈ (pushS b0).teams, ∀ x ∈ t.saved, x.gid ≠ 3) ∧ tweOpen b0 1 = false ∧ tweOpen (tweS copyDesc .cpy none false) 1 = true :=
  ⟨rfl, rfl, queue_roof _ 0 0 (by decide), by decide, full_queue, by decide, by decide, full_queue, by decide, by decide, by decide, rfl,
    ⟨_, rfl, rfl, _, _, _, _, rfl, by decide⟩, ⟨_, rfl, rfl, rfl⟩, alone_differs rfl, by decide, by decide, by decide⟩
theorem page_of {α : Type} {r : Option α × State} {f : α → State → Bool} (h : (match r with | (some x, t) => f x t | _ => false) = true) :
    ∃ x t, r = (some x, t) ∧ f x t = true := by
  obtain ⟨a, t⟩ := r
  cases a with
  | some x => exact ⟨x, t, rfl, h⟩
  | none => exact absurd h Bool.false_ne_true
theorem nopage_of {α : Type} {r : Option α × State} (h : r.1.isNone = true) : ∃ t, r = (none, t) := by
  obtain ⟨a, t⟩ := r
  cases a with
  | none => exact ⟨t, rfl⟩
  | some x => exact absurd h Bool.false_ne_true
theorem witness_PacketExecution :
    (∀ op ∈ [0, 1, 3, 4, 5], (headPacket (pktS op 0x3000 5 .ready) 9 op).isSome = true) ∧
    (∃ p u, pktPage (pktS 1 0x3000 5 .ready) 0 .signal (pktP0 (pkt9 1 0x3000 5 .ready).bits) = (some p, u) ∧ (!hasErr u p.pa 8) = true) ∧
    (∃ u, pktPage (pktS 1 0x3004 5 .ready) 0 .signal (pktP0 (pkt9 1 0x3004 5 .ready).bits) = (none, u)) ∧
    (∃ p u, pktPage (pktS 5 0x3000 5 .ready) 0 .write (pktP0 (pkt9 5 0x3000 5 .ready).bits) = (some p, u) ∧ (p.ptype == 0) = true) ∧
    (let s := pktS 4 0x3000 5 .running; s.pkt? 9 = some (pkt9 4 0x3000 5 .running) ∧ pktOp (pkt9 4 0x3000 5 .running).bits = 4 ∧ 0 ≤ s.gtc) ∧
    (BitVec.ofNat 64 (ofBytes (homeBytes b0 0x3000 8)) - BitVec.ofNat 64 5).toInt < 0 ∧ 0 ≤ (BitVec.ofNat 64 (ofBytes (homeBytes b0 0x3000 8)) - BitVec.ofNat 64 0).toInt :=
  ⟨by decide +kernel, page_of (f := fun (p : Page) u => !hasErr u p.pa 8) (by decide +kernel), nopage_of (by decide +kernel), page_of (f := fun (p : Page) _ => p.ptype == 0) (by decide +kernel),
    by decide +kernel, by decide +kernel, by decide +kernel⟩
/-- A COPY packet whose descriptor stands at 0x3000. -/
def copyS (d : Nat) : State := { pktS 3 0x3000 0 .ready with mem := writeBytes b0.mem 0x3000 (toBytes 64 d) }
theorem witness_PacketExecution_copy :
    (∃ b u, readDesc (copyS copyDesc) 0 (pktP0 (pkt9 3 0x3000 0 .ready).bits) [64] = (.ok b, u) ∧ (let t := tileOf (BitVec.ofNat 512 (ofBytes b))
      tileFields .cpy (BitVec.ofNat 512 (ofBytes b)) && !t.sps && !t.spd && !t.gv && !t.bv && decide ((tweQueue u 0).length < 64)) = true) ∧
    (∃ b u, readDesc (copyS padDesc) 0 (pktP0 (pkt9 3 0x3000 0 .ready).bits) [64] = (.ok b, u) ∧ (tileOf (BitVec.ofNat 512 (ofBytes b))).spd = true) ∧
    (∃ b u, readDesc { copyS copyDesc with twe := List.replicate 64 (tweCmd copyDesc .cpy none false) } 0 0x3000 [64] = (.ok b, u) ∧ decide (64 ≤ (tweQueue u 0).length) = true) ∧
    (∃ e u, readDesc (pageless (copyS copyDesc)) 0 0x3000 [64] = (.error e, u) ∧ e.code.isNone = true) ∧ (∃ e u, readDesc (copyS copyDesc) 0 (2 ^ 50) [64] = (.error e, u) ∧ e.code.isSome = true) := by
  refine ⟨?_, ?_, ?_, bad_of (f := fun (e : Stop) => e.code.isNone) (by decide +kernel), bad_of (f := fun (e : Stop) => e.code.isSome) (by decide +kernel)⟩
  · exact goodS_of (f := fun b u => let t := tileOf (BitVec.ofNat 512 (ofBytes b)); tileFields .cpy (BitVec.ofNat 512 (ofBytes b)) && !t.sps && !t.spd && !t.gv && !t.bv &&
      decide ((tweQueue u 0).length < 64)) (by decide +kernel)
  · exact goodS_of (f := fun b _ => (tileOf (BitVec.ofNat 512 (ofBytes b))).spd) (by decide +kernel)
  · exact goodS_of (f := fun _ u => decide (64 ≤ (tweQueue u 0).length)) (by decide +kernel)
/-- A launch descriptor: one word of each code, one team of one group of 32 lanes, a lease of 64; and one with two many words of w2. -/
def launchDesc (w2 : Nat) : Nat :=
  (0x1000 <<< 0) + (0x2000 <<< 64) + (w2 <<< 128) + ((2 * 2 ^ 53) <<< 256) + ((64 * 2 ^ 37 + 32) <<< 320) + (1 <<< 448)
def launchS (w2 p0 : Nat) : State := { pktS 2 p0 0 .ready with mem := writeBytes b0.mem 0x3000 (toBytes 192 (launchDesc w2)) }
def launched (w2 : Nat) (b : List Byte) (u : State) : Bool :=
  let l := words8 24 b
  let k := pkt9 2 0x3000 0 .ready
  let d := gridOf u k u.nextId l
  descOk l && pktClass k.bits == d.prio && (gridReject u d).isNone && w2 == wd l 2
theorem witness_LaunchPacket : headPacket (launchS (2 ^ 24 + 1) 0x3000) 9 2 = some (pkt9 2 0x3000 0 .ready) ∧
    (∃ b u, readDesc (launchS (2 ^ 24 + 1) 0x3000) 0 (pktP0 (pkt9 2 0x3000 0 .ready).bits) (cuts (pktP0 (pkt9 2 0x3000 0 .ready).bits) 192) = (.ok b, u) ∧ launched (2 ^ 24 + 1) b u = true) ∧
    (∃ b u, readDesc (launchS 0 0x3000) 0 (pktP0 (pkt9 2 0x3000 0 .ready).bits) (cuts (pktP0 (pkt9 2 0x3000 0 .ready).bits) 192) = (.ok b, u) ∧ (!descOk (words8 24 b)) = true) ∧
    (∃ e u, readDesc (launchS 0 (2 ^ 50)) 0 (pktP0 (pkt9 2 (2 ^ 50) 0 .ready).bits) (cuts (pktP0 (pkt9 2 (2 ^ 50) 0 .ready).bits) 192) = (.error e, u) ∧ e.code.isSome = true) ∧
    (∃ e u, readDesc (pageless (launchS 0 0x3000)) 0 0x3000 (cuts 0x3000 192) = (.error e, u) ∧ e.code.isNone = true) := by
  refine ⟨by decide +kernel, goodS_of (f := launched _) (by decide +kernel), ?_, bad_of (f := fun (e : Stop) => e.code.isSome) (by decide +kernel), bad_of (f := fun (e : Stop) => e.code.isNone) (by decide +kernel)⟩
  exact goodS_of (f := fun b _ => !descOk (words8 24 b)) (by decide +kernel)
/-- A packet that waits for its counter, at index 4 of the wait table; and one that has one decrement, at 0x3000. -/
def waitPktS (m : Mem) : State := { pktS 0 0 0 .waiting with mem := m, pkts := [{ pkt9 0 0 0 .waiting with recheck := 1 }], parts := [(0, { b0.part 0 with table := [(4, 9)] })] }
def decPkt (n : Nat) : Pkt := { pkt9 0 0 0 (.completing n) with bits := BitVec.ofNat 512 (0x800 + (0x3000 <<< 128)) }
theorem witness_PacketFlow : b0.hub.bootState = 1 ∧ (∀ q, q < 16 → (b0.queue 0 q).entries = []) ∧
    (let s := waitPktS b0.mem
     (s.part 0).table = [(4, 9)] ∧ s.pkt? 9 = some { pkt9 0 0 0 .waiting with recheck := 1 } ∧ smapWf Part.reset s.parts = true ∧ s.gtc < 1 ∧ 1 ≤ (late s).gtc ∧ s.gtc < (s.part 0).lastCheck + 4096 ∧
      (BitVec.ofNat 64 (ofBytes (homeBytes s 0x3000 8))).toInt ≤ 0) ∧
    0 < (BitVec.ofNat 64 (ofBytes (homeBytes (waitPktS (writeBytes b0.mem 0x3000 [1])) 0x3000 8))).toInt ∧
    (∀ n ∈ [0, 1], ({ b0 with pkts := [decPkt n] }).pkt? 9 = some (decPkt n) ∧ b0.gtc < (decPkt n).h + 2 ∧ (decPkt n).h + 2 ≤ (late b0).gtc) ∧
    0 < min 4 (pktNdec (decPkt 0).bits) ∧ min 4 (pktNdec (decPkt 1).bits) ≤ 1 ∧
    (∃ p u, pktPage ({ late b0 with pkts := [decPkt 0] }.modPkt 9 (fun p => { p with st := .completing 1 })) 0 .signal (pktDec (decPkt 0).bits 0) = (some p, u) ∧
      (!hasErr u p.pa 8) = true) :=
  ⟨by decide, by decide, by decide +kernel, by decide +kernel, by decide +kernel, by decide +kernel, by decide +kernel, page_of (f := fun (p : Page) u => !hasErr u p.pa 8) (by decide +kernel)⟩
/-- Queue 0 of function 0 has a head that may go, or may not because a WAIT of the queue is open; queue 0 of function 4 is in the next band. -/
def headS (l : List Pkt) : State := { b0 with vdevs := [(0, fullVDev 1)], pkts := l }
theorem witness_PacketFlow_pass : (headS []).hub.bootState = 1 ∧ smapWf VDev.reset (headS []).vdevs = true ∧ 0 / 64 = (headS []).hub.firmwarePass % 32 ∧ 64 / 64 ≠ (headS []).hub.firmwarePass % 32 ∧
    ((headS []).queue 0 0).entries = [0] ∧ headGoes (headS []) 0 0 0 ∧ ¬ headGoes (headS [pkt9 4 0x3000 5 .running]) 0 0 0 ∧ roomForPass (headS []) 0 ∧
    (∀ vf, smapWf Queue.reset ((headS []).vdev vf).queues = true) := by
  refine ⟨by decide, by decide, by decide, by decide, rfl, ⟨by decide, by decide, fun k h => absurd h List.not_mem_nil⟩, ?_, ?_, ?_⟩
  · intro h; exact (h.2.2 _ List.mem_cons_self rfl rfl (by decide)).1 (by decide +kernel)
  · unfold roomForPass; decide
  · intro vf
    by_cases h : vf = 0
    · subst h; decide
    · have e : (headS []).vdev vf = VDev.reset := by
        show sget [(0, fullVDev 1)] VDev.reset vf = _
        unfold sget
        rw [if_neg h]
        split <;> rfl
      rw [e]; decide
/-- A placed grid, and a head for class 2. -/
theorem witness_DispatchRound : ((b0.part 0).state = 1 ∧ b0.power.eff ≠ 7 ∧ b0.power.fail = none ∧ b0.power.stopped = false) ∧ (b0.part 1).state ≠ 1 ∧
    (∀ r ∈ (b0.part 0).ready, r.1 ≠ 2) ∧ (∀ r ∈ (b0.part 0).restore, r.1 ≠ 2) := by decide
/-- A group held by an ACCESS, its halt record the oldest of its function. -/
def heldGroup : State := let s := takeFault (run1 .tend b0) 3; { s with vdevs := [(0, { s.vdev 0 with halts := [{ addr := 0x4000, gid := 3, merge := false, turn := 0, grid := 1, team := 0, ctx := architected s.cur }] })] }
theorem witness_HostAnswersHalt : (heldGroup.vdev 0).halts ≠ [] ∧ (b0.vdev 0).halts = [] ∧ smapWf (0 : Word64) (b0.cur.s) = true ∧
    heldGroup.group? 3 = some heldGroup.cur ∧ heldGroup.cur.heldFaults = [] ∧ heldGroup.power.stopped = false ∧
    (∃ fr, heldGroup.cur.fault = some fr ∧ (fr.src == .scalar && fr.code != .detPower) = true) :=
  ⟨by decide +kernel, by decide, by decide, by decide +kernel, by decide +kernel, by decide +kernel, ex_of (by decide +kernel)⟩

/-! Saving, partitions, virtual devices, power. -/

/-- The bench's partition or function with changes. -/
def pS (f : Part → Part) : State := { b0 with parts := [(0, f (b0.part 0))] }
def dS (f : VDev → VDev) : State := { b0 with vdevs := [(0, f (b0.vdev 0))] }
/-- The bench's team to be saved, with a second group. -/
def savingS : State :=
  { bg (fun g => { g with preempt := true }) with
    teams := b0.teams.map (fun (t : Team) => { t with saving := some 0 }), others := [{ benchGroup with gid := 4 }] }
theorem witness_SaveOfTeam : (∃ t, b0.team? 2 = some t ∧ (t.saving.isNone && t.savedAt.isNone && !b0.power.stopped) = true) ∧ b0.clusters = [] ∧ gidsDiffer b0 ∧
    (∃ t, savingS.team? 2 = some t ∧ t.saving.isSome = true) ∧ savingS.group? 3 = some savingS.cur ∧ savingS.clusters = [] ∧ gidsDiffer savingS ∧
    atSavePoint savingS savingS.cur = true ∧ atSavePoint b0 b0.cur = false ∧ (∃ h ∈ savingS.groups, h.team = savingS.cur.team ∧ h.gid ≠ 3) := by
  refine ⟨ex_of (by decide), rfl, ?_, ex_of (by decide), rfl, rfl, ?_, by decide, by decide, by decide⟩ <;> (unfold gidsDiffer; decide)
/-- Partition 1 of quadrants 2 and 3 is free to make, of quadrant 0 it is not. -/
theorem witness_PartitionLife : tablesOk b0 ∧ (b0.part 1).state = 0 ∧ cfgFits b0 1 0x8000000000000021 ∧ ¬ cfgFits b0 1 0x8000000000000000 ∧
    (0x8000000000000021 : Word64).getLsbD 63 = true ∧ (b0.part 0).resetAt = none ∧ (b0.part 0).state = 1 ∧
    b0.power.stopped = false ∧ smapWf false b0.hub.pba = true ∧ ((pS (fun p => { p with resetAt := some 5, heldDown := true })).part 0).heldDown = true ∧
    (∀ down, tablesOk (pS (fun p => { p with resetAt := some 5, teardown := down })) ∧ ((pS (fun p => { p with resetAt := some 5, teardown := down })).part 0).resetAt = some 5 ∧
      ((pS (fun p => { p with resetAt := some 5, teardown := down })).part 0).teardown = down) := by
  refine ⟨by unfold tablesOk; decide, by decide, ?_, ?_, by decide, by decide, by decide, by decide, by decide, by decide, ?_⟩
  · refine ⟨by decide, by decide, by decide⟩
  · rintro ⟨_, _, h⟩
    exact h 0 (by decide) (by decide) (by decide) ⟨by decide, by decide⟩
  · intro down; cases down <;> (unfold tablesOk; decide)
theorem witness_BindUnbindDoorbell : tablesOk b0 ∧ b0.partOfVf 0 = some 0 ∧ saveOk b0 0 0 = true ∧ (b0.vdev 0).bind = true ∧
    b0.hub.bootState = 1 ∧ b0.power.stopped = false ∧ b0.power.image = [] ∧ ((dS (fun v => { v with bind := false })).vdev 0).bind = false ∧
    (dS (fun v => { v with bind := false })).partOfVf 0 = some 0 ∧ saveOk (dS (fun v => { v with bind := false })) 0 0 = true ∧
    saveOk (dS (fun v => { v with savesz := 0 })) 0 0 = false ∧ b0.partOfVf 8 = none ∧ (b0.part 0).state ≠ 2 ∧ queueFree b0 0 0 ≠ 0 :=
  ⟨by unfold tablesOk; decide, by decide, by decide, by decide, by decide, by decide, by decide, by decide, by decide, by decide, by decide, by decide, by decide,
    queue_roof b0 0 0 (by decide)⟩
/-- Two bound functions of partition 0, the second collapsed. -/
theorem witness_BindUnbindDoorbell_gate : (let s := { b0 with vdevs := [(0, b0.vdev 0), (1, { b0.vdev 0 with state := 3 })] }
    tablesOk s ∧ smapWf Port.reset s.ports = true ∧ (s.vdev 0).bind = true ∧ s.power.stopped = false ∧ s.partOfVf 0 = some 0 ∧ (s.part 0).state = 1 ∧ boundIn s 0 1 ∧
      ∀ v, v ≠ 0 → boundIn s 0 v → (s.vdev v).state = 3) := by
  refine ⟨by unfold tablesOk; decide, by decide, by decide, by decide, by decide, by decide, by unfold boundIn; decide, ?_⟩
  intro v h0 ⟨h1, _, h3⟩
  have h : ∀ v < 128, v ≠ 0 → ((({ b0 with vdevs := [(0, b0.vdev 0), (1, { b0.vdev 0 with state := 3 })] } : State).vdev v).bind = true) →
      (({ b0 with vdevs := [(0, b0.vdev 0), (1, { b0.vdev 0 with state := 3 })] } : State).vdev v).state = 3 := by decide +kernel
  exact h v h1 h0 h3
/-- The bench with nothing at work for its function. -/
def idleS (f : VDev → VDev) : State := { dS f with teams := [], cur := Group.empty, grids := [] }
theorem witness_CollapseAndWake : vfIdle b0 0 = false ∧ (tablesOk (idleS id) ∧ ((idleS id).vdev 0).state = 1 ∧ vfIdle (idleS id) 0 = true ∧ idleOver (idleS id) 0 = false) ∧
    idleOver ({ idleS (fun v => { v with idle := 1 }) with gtc := 128000 }) 0 = true ∧
    (let s := idleS (fun v => { v with state := 2, moveAt := 9 })
     tablesOk s ∧ s.partOfVf 0 = some 0 ∧ (s.vdev 0).state = 2 ∧ (s.vdev 0).bind = true ∧ s.gtc < (s.vdev 0).moveAt ∧ (s.vdev 0).moveAt ≤ ({ s with gtc := 9 }).gtc ∧
      (∀ t ∈ s.teams, t.vf ≠ 0) ∧ (∀ v, v < 128 → v ≠ 0 → s.partOfVf v = some 0 → (s.vdev v).bind = true → (s.vdev v).state = 3) ∧ (s.part 0).state = 1 ∧ s.power.eff ≠ 7) ∧
    (let s := idleS (fun v => { v with state := 4, moveAt := 9 }); tablesOk s ∧ (s.vdev 0).state = 4 ∧ s.gtc < (s.vdev 0).moveAt) ∧
    ({ b0 with power := { b0.power with eff := 7 } }).power.eff = 7 ∧ b0.power.stopped = false ∧ (b0.vdev 0).state ≠ 0 ∧ (b0.vdev 5).state = 0 := by
  refine ⟨by decide, ?_, by decide, ?_, ?_, rfl, by decide, by decide, by decide⟩
  · unfold tablesOk; decide
  · refine ⟨by unfold tablesOk; decide, by decide, by decide, by decide, by decide, by decide, by decide, ?_, by decide, by decide⟩
    intro v h0 h1 h2 h3
    have h : ∀ v < 128, v ≠ 0 → ((idleS (fun v => { v with state := 2, moveAt := 9 })).vdev v).bind = false := by decide +kernel
    rw [h v h0 h1] at h3; exact absurd h3 Bool.false_ne_true
  · unfold tablesOk; decide
/-- The power controller of the bench with changes. -/
def wS (f : Power → Power) : State := { b0 with power := f b0.power }
theorem witness_PowerSteps : (8 : Byte).toNat < 9 ∧ (7 : Byte).toNat < 8 ∧ 3400 < (3401 : BitVec 16).toNat ∧ (3400 : BitVec 16).toNat ≤ 3400 ∧ 9 * 3400 ≤ 10 * (3060 : BitVec 16).toNat ∧
    10 * (3059 : BitVec 16).toNat < 9 * 3400 ∧ b0.power.eff = 0 ∧ b0.power.tstep < 16 ∧ b0.power.lowSince = none ∧
    ((wS (fun w => { w with tstep := 16 })).power.tstep = 16 ∧ ({ wS (fun w => { w with tstep := 16 }) with teams := [] }).teams = []) ∧
    (let s := { wS (fun w => { w with lowSince := some 0, tstep := 4, deadline := some 7 }) with gtc := 100000 }
     s.power.lowSince = some 0 ∧ 0 + 100000 ≤ s.gtc ∧ s.power.tstep ≠ 0 ∧ s.power.deadline = some 7 ∧ 7 ≤ s.gtc ∧ b0.gtc < 7 ∧ s.power.eff ≠ 7) := by decide
theorem witness_SagAndDrain : b0.power.sag = false ∧ (wS (fun w => { w with sag := true })).power.sag = true ∧ b0.power.fail = none ∧ b0.power.stopped = false ∧
    (∀ n, n < 16 → ({ b0 with parts := [] }).part n = Part.reset) ∧ Part.reset.valid = false ∧ tablesOk b0 ∧ (b0.part 0).valid = true ∧ (b0.part 0).prot = false ∧
    (∀ m, m < 16 → m ≠ 0 → (b0.part m).valid = false) ∧ (wS (fun w => { w with fail := some 0 })).power.fail ≠ none ∧ (wS (fun w => { w with stopped := true })).power.stopped = true := by
  refine ⟨by decide, by decide, by decide, by decide, by decide, by decide, by unfold tablesOk; decide, by decide, by decide, by decide, by decide, by decide⟩
/-- What is left of the drain after a cold reset (R418, R419). -/
def resetDrain (s : State) : Option (Bool × Nat) := after (execColdReset s) (fun t => (t.power.drainValid, t.power.drainSize.toNat))
theorem bootRom_power (s : State) : (bootRom s).power = s.power := by
  unfold bootRom State.signal
  dsimp only
  split
  · split <;> rfl
  · split
    · split <;> rfl
    · split
      · split <;> rfl
      · rfl
/-- R419: a cold reset while the drain is still writing leaves no image. -/
theorem test_cold_reset_abandons_drain : resetDrain (wS (fun w => { w with fail := some 0, drainValid := true, drainSize := 3 })) = some (false, 0) ∧
    resetDrain (wS (fun w => { w with fail := some 0, stopped := true, drainValid := true, drainSize := 3 })) = some (true, 3) := by
  refine ⟨?_, ?_⟩ <;> (unfold resetDrain after execColdReset; simp only [bootRom_power]; rfl)
theorem witness_ColdResetAndBoot : ({ b0 with hub := { b0.hub with bootState := 2 } }).hub.bootState = 2 ∧ b0.hub.bootState ≠ 2 ∧ b0.power.fail = none ∧ b0.power.stopped = false ∧
    (let s := wS (fun w => { w with fail := some 0, drainValid := true }); s.power.fail ≠ none ∧ s.power.stopped = false ∧ s.power.drainValid = true) ∧
    (wS (fun w => { w with fail := some 0, stopped := true })).power.stopped = true := by decide
/-- The check value of CRC-32C over the bytes of "123456789", as published for that polynomial. -/
theorem test_crc32c : crc32c [0x31, 0x32, 0x33, 0x34, 0x35, 0x36, 0x37, 0x38, 0x39] = 0xE3069283 := by decide +kernel

/-! The host, the links, the clocks, the counters and the side port. -/

/-- FIPS 202's digest of the empty message, least significant byte first (R403). -/
theorem test_sha3 : (sha3 []).toNat = 0x4A43F8804B0AD882FA493BE44DFF80F562D661A05647C15166D71EBFF8C6FFA7 := by decide +kernel

/-- The hub of the bench with changes. -/
def hS (f : Hub → Hub) : State := { b0 with hub := f b0.hub }
theorem witness_RegisterWrite : b0.power.stopped = false ∧ (wS (fun w => { w with stopped := true })).power.stopped = true ∧ b0.hub.bootState = 1 ∧
    State.reset.hub.bootState ≠ 1 ∧ State.reset.power.stopped = false ∧ ((dS (fun v => { v with bind := false })).vdev 0).bind = false ∧
    (policyWord 0xF7654321076543F0).extractLsb' 60 4 = 6 ∧ 15 < 16 ∧ 127 < 128 := by decide
/-- Offsets that nothing lists, the MSI-X table of a function with a pending vector, and without. -/
theorem witness_RegisterWrite_offsets : 0x0104 < 0x10000 ∧ ¬ pfListed 0x0104 ∧ 0x20000 ≤ 0x20000 ∧ 0x58 < 512 ∧ ¬ vdevListed 0x58 ∧ 0xEC < 0xF0 ∧ 0xEC % 4 = 0 ∧ 0x7FC < 0x800 ∧ 0x7FC % 4 = 0 ∧
    0x1000 ≤ 0x1098 ∧ (0x1098 < 0x1800 ∨ 0x18F0 ≤ 0x1098 ∨ 0x1098 % 4 ≠ 0) ∧ (0x1080 ≤ 0x1098 ∨ 0x1098 % 8 ≠ 0) ∧ smapWf 0 b0.hub.msix = true ∧
    sget (hS (fun h => { h with pba := [(65536, true)] })).hub.pba false (1 * 65536 + 0 / 16) = true ∧ sget b0.hub.pba false 0 = false := by
  refine ⟨by decide, ?_, by decide, by decide, ?_, by decide, by decide, by decide, by decide, by decide, by decide, by decide, by decide, by decide, by decide⟩
  · unfold pfListed; decide
  · unfold vdevListed; decide
/-- The bench's partition 0 gated at W2, or all its teams gone; sector 3 of memory in error. -/
def noTeams : State := { b0 with teams := [] }
theorem witness_HostMemoryAccess : hostPlace b0 .pf 0x100 8 = .mem 0x100 ∧ hasErr b0 0x100 8 = false ∧ hasErr { b0 with errs := [0x10] } 0x100 8 = true ∧
    hostPlace State.reset .pf 0x100 8 = .none ∧ hostPlace (hS (fun h => { h with bootState := 2 })) .pf 0x100 8 = .flash 0x100 ∧
    (let s := pS (fun p => { p with state := 3, depth := 2 }); hostPlace s .pf 0x100 8 = .held 0 ∧ (s.part 0).state = 3 ∧ 2 ≤ (s.part 0).depth.toNat) ∧
    hostPlace noTeams .pf 0x108 8 = .mem 0x108 ∧ noTeams.teams = [] ∧ 0x108 % 16 + 8 ≤ 16 ∧ (b0.part 1).valid = false ∧ (b0.part 0).valid = true ∧
    b0.hub.bootState = 1 ∧ b0.power.stopped = false ∧ partPlace b0 (some 0) 0x100 8 = .mem 0x100 ∧ 0x104 % 8 ≠ 0 ∧ ([1, 2, 3, 4, 5, 6, 7, 8] : List Byte).length = 8 := by decide +kernel
theorem witness_HostAtomicOperation : 0x104 % (64 / 8) ≠ 0 ∧ 0x104 % (32 / 8) = 0 ∧ hostPlace State.reset .pf 0x104 (32 / 8) = .none ∧ hostPlace b0 .pf 0x104 (32 / 8) = .mem 0x104 ∧
    hostPlace b0 .pf 0x108 (64 / 8) = .mem 0x108 ∧ hasErr b0 0x104 4 = false ∧ hasErr b0 0x108 8 = false := by decide +kernel
/-- A fence token, or a flush read, for which a group waits. -/
def tok7 (flush : Bool) : Token := { id := 7, flush := flush, port := 0, part := 0, count := 1, ready := 0, behind := 0 }
theorem witness_LinksAndClocks : (∀ f ∈ [false, true], (tokenS [tok7 f]).tokens.find? (fun t => t.id == 7 && (t.flush == f)) = some (tok7 f)) ∧
    ((tokenS [tok7 false]).port 0).down = false ∧ (({ tokenS [tok7 false] with ports := [(0, { (b0.port 0) with down := true })] }).port 0).down = true ∧
    ((tokenS []).part 0).retrainAt ≤ b0.gtc ∧ (tokenS []).cur.live = true ∧ (tokenS []).cur.stall = .fenceSys [7] ∧ 7 ∈ [7] ∧
    ([1, -1, 0, 1] : List Int).length = 4 ∧ (∀ x ∈ ([1, -1, 0, 1] : List Int), -1 ≤ x ∧ x ≤ 1) ∧ (∃ x ∈ ([1, -2, 0, 1] : List Int), x < -1 ∨ 1 < x) ∧
    (tablesOk b0 ∧ (b0.part 0).state = 1 ∧ (b0.part 0).resetAt = none ∧ ∃ q, q < 16 ∧ q / 4 ∈ [0] ∧ b0.partOfQuad q = some 0) := by
  refine ⟨by decide, by decide, by decide, by decide, by decide, by decide, by decide, by decide, by decide, by decide, ?_, by decide, by decide, 0, by decide, by decide, by decide⟩
  unfold tablesOk; decide
/-- A scalar load of a peer page, and a TIMESTAMP to it, when its port is down. -/
def downS (s : State) : State := { s with ports := [(0, { Port.reset with down := true, upAt := 9 })] }
def peerPage : Page := { pa := 0x1000, ptype := 2, nc := false, nl := false, at_ := true, w := true, rd := true }
theorem witness_LinksAndClocks_down : (∃ x, readyLane (downS { b0 with ops := [{ laneOp 0 [{ lane := 0, ea := 0x1000, xl := .ok peerPage, data := [], cmp := [], rd := [], stage := .wait }] true with seq := 0 }] }) 9 0 = some x ∧
      (x.2.2.2.ptype == 2 && ((downS b0).port (portOf b0 x.2.2.2.pa)).down) = true) ∧
    (let s := downS { pktS 5 0x3000 5 .ready with mem := writeBytes b0.mem benchTable [0x7B] }
     (headPacket s 9 5).isSome = true ∧ ∃ p u, pktPage s 0 .write (pktP0 (pkt9 5 0x3000 5 .ready).bits) = (some p, u) ∧ (p.ptype == 2 && (u.port (portOf u p.pa)).down) = true) ∧
    (∃ q, q < 16 ∧ (([-2, 0, 0, 0] : List Int).getD (q / 4) 0 < -1 ∨ 1 < ([-2, 0, 0, 0] : List Int).getD (q / 4) 0) ∧ b0.partOfQuad q = some 0) := by
  refine ⟨ex_of (by decide), ⟨by decide +kernel, page_of (f := fun (p : Page) u => p.ptype == 2 && (u.port (portOf u p.pa)).down) (by decide +kernel)⟩, 0, by decide, by decide, by decide⟩
theorem witness_Snapshots : b0.power.stopped = false ∧ smapWf (0 : Word64) b0.hub.copies = true ∧ (∀ d, d < 4 → 0 < b0.timeNext d) ∧ b0.hub.armed = none ∧ (hS (fun h => { h with armed := some 0 })).hub.armed = some 0 ∧ b0.hub.latched = 0 ∧ 0 ≤ b0.gtc ∧
    (∀ d, d < 4 → 0 ≤ b0.time d) ∧ smapWf (0 : Word64) b0.hub.counters = true ∧ (∀ e ∈ b0.hub.counters, e.1 < 2 ^ 20) ∧
    (hS (fun h => { h with snapPin := true })).hub.snapPin = true := by
  refine ⟨by decide, by decide, by decide, by decide, rfl, by decide, by decide, fun d _ => Nat.zero_le _, by decide, by decide, rfl⟩
theorem witness_ResponderSidePortAndErrors : b0.power.stopped = false ∧ (wS (fun w => { w with stopped := true })).power.stopped = true ∧ noMemory 0x1000 = false ∧
    (∃ t, b0.team? 2 = some t ∧ true = true) ∧ 0x100 < 2 ^ 19 ∧
    (∃ w, firstWrite (run1 (.hostBar4Write .pf 0x100 [1]) b0) = some w ∧ (w.keep.isEmpty && w.ref == .host) = true) :=
  ⟨by decide, rfl, by decide, ex_of (f := fun _ => true) (by decide), by decide, ex_of (by decide +kernel)⟩

/-! Steps and encodings. -/

/-- `add s5, s6, s7` where the bench fetches, and an Issuing run of `iadd`. -/
def scalarS : State := State.reset.withFetchWord 32 0b000000_000101_000110_000111_00000000
/-- A decoding that is this instruction. -/
theorem decoded_of {r : Except Illegal Instr} {i : Instr} (h : (match r with | .ok x => decide (x = i) | .error _ => false) = true) : r = .ok i := by
  cases r with
  | error e => exact absurd h Bool.false_ne_true
  | ok x => exact congrArg Except.ok (of_decide_eq_true h)
/-- A fetch whose word has a property. -/
theorem fetched_of {r : Except State (BitVec 32 × State)} {f : BitVec 32 → State → Bool} (h : (match r with | .ok x => f x.1 x.2 | .error _ => false) = true) :
    ∃ w u, r = .ok (w, u) ∧ f w u = true := by
  cases r with
  | error e => exact absurd h Bool.false_ne_true
  | ok x => exact ⟨x.1, x.2, rfl, h⟩
/-- The same with s6 still to come. -/
def busyScalar : State := { scalarS with cur := { scalarS.cur with sboard := [(6, 100)] } }
theorem witness_ScalarEncoding : wf (.add 5 6 7) = true ∧ encodeScalar (.add 5 6 7) = some 0b000000_000101_000110_000111_00000000#32 ∧
    decodeScalar 0b000000_000101_000110_000111_00000000#32 = .ok (.add 5 6 7) ∧ wf (.bCc 1 15 0x8000) = true ∧ (encodeScalar (.bCc 1 15 0x8000)).isSome = true :=
  ⟨by decide +kernel, by decide +kernel, decoded_of (by decide +kernel), by decide +kernel, by decide +kernel⟩
theorem witness_LaneEncoding : wf (.iadd l2) = true ∧ (encodeLane (.iadd l2)).isSome = true ∧
    (∃ w i, decodeLane w = .ok i ∧ encodeLane (.iadd l2) = some w) ∧ slotsOf { tok := 7, regs := [255, 0], masks := [15] } := by
  refine ⟨by decide +kernel, by decide +kernel, ⟨encLaneOp 0 l2, .iadd l2, decoded_of (by decide +kernel), by decide +kernel⟩, ?_⟩
  unfold slotsOf; decide
theorem witness_StepRunsWord_scalar : wordsNext scalarS ∧ firstAtWork scalarS scalarS.cur ∧ lanePlan scalarS scalarS.cur = none ∧ scalarTurn scalarS scalarS.cur = true ∧
    (scalarS.focus scalarS.cur.gid).cur.detPend = false ∧
    (∃ w u, fetchScalar (scalarS.focus scalarS.cur.gid) = .ok (w, u) ∧ (w == 0b000000_000101_000110_000111_00000000 && scalarReady u u.cur (.add 5 6 7)) = true) ∧
    (∃ w u, fetchScalar (busyScalar.focus busyScalar.cur.gid) = .ok (w, u) ∧ (scalarReady u u.cur (.add 5 6 7) == false) = true) ∧ wordsNext busyScalar ∧
    scalarTurn busyScalar busyScalar.cur = true ∧ barrierWaits scalarS (.add 5 6 7) = false ∧ barrierWaits { scalarS with phase := 20 } (.barArr 1 2) = true ∧
    (let s := State.reset.withFetchWord 32 0xFFFFFFFF; wordsNext s ∧ ∃ w u, fetchScalar (s.focus s.cur.gid) = .ok (w, u) ∧ (w == 0xFFFFFFFF) = true) := by
  refine ⟨?_, ⟨⟨[], [], rfl, fun h hh => absurd hh List.not_mem_nil⟩, by decide +kernel⟩, by decide +kernel, by decide +kernel, by decide +kernel,
    fetched_of (f := fun w u => w == 0b000000_000101_000110_000111_00000000 && scalarReady u u.cur (.add 5 6 7)) (by decide +kernel),
    fetched_of (f := fun _ u => scalarReady u u.cur (.add 5 6 7) == false) (by decide +kernel), ?_, by decide +kernel, by decide +kernel, by decide +kernel, ?_, fetched_of (f := fun w _ => w == 0xFFFFFFFF) (by decide +kernel)⟩
  · unfold wordsNext; decide +kernel
  · unfold wordsNext; decide +kernel
  · unfold wordsNext; decide +kernel
theorem witness_StepRunsWord_lane : wordsNext (br (.iadd l2)) ∧ firstAtWork (br (.iadd l2)) (br (.iadd l2)).cur ∧
    (∃ p, lanePlan (br (.iadd l2)) (br (.iadd l2)).cur = some p ∧ (match p with | .word _ _ => true | _ => false) = true) ∧
    (∃ r, (br (.iadd l2)).cur.runs = [r] ∧ r.parked = false ∧ ∃ d, turnOf (br (.iadd l2)) (br (.iadd l2)).cur r = some d ∧
      (d.words[d.wi]? == some (.iadd l2) && decide ((together (br (.iadd l2)) r.stream d).length ≤ 1)) = true) := by
  refine ⟨?_, ⟨⟨[], [], rfl, fun h hh => absurd hh List.not_mem_nil⟩, by decide +kernel⟩, ex_of (by decide +kernel), _, rfl, by decide +kernel, ex_of (by decide +kernel)⟩
  unfold wordsNext; decide +kernel
theorem witness_StepRunsWord_table : 0b000000_000101_000110_000111_00000000 < 2 ^ 32 ∧ decodeTableWord 32 0b000000_000101_000110_000111_00000000 = some (.add 5 6 7) := by decide +kernel
/-- An answered step with a property of what it leaves. -/
theorem next_of {r : Host.Outcome State Fault Refusal} {f : State → Bool} (h : (match r with | .next t => f t | _ => false) = true) : ∃ t, r = .next t ∧ f t = true := by
  cases r with
  | next t => exact ⟨t, rfl, h⟩
  | fault c => exact absurd h Bool.false_ne_true
  | refused c => exact absurd h Bool.false_ne_true
theorem witness_MemoryStaysCanonical : scalarS.canonical ∧ (∃ t, step scalarS = .next t ∧ (t.cur.pc == 1) = true) := by
  refine ⟨?_, next_of (f := fun t => t.cur.pc == 1) (by decide +kernel)⟩
  unfold State.canonical; decide +kernel
/-- The word that a plan executes. -/
def planned (p : Plan) : Option Instr := match p with | .word i _ => some i | .next _ => none
theorem word_of {p : Plan} {i : Instr} (h : planned p = some i) : ∃ u, p = .word i u := by
  cases p with
  | word j u => exact ⟨u, congrArg (Plan.word · u) (Option.some.inj h)⟩
  | next t => cases h
theorem witness_ClockOnlyAdvances : (∃ t, step (br (.iadd l2)) = .next t ∧ (t.gtc == 0) = true) ∧
    (let s := { scalarS with gtc := 5, inputs := [(5, .coldReset)] }
     lanesAreWords s ∧ ∃ u, plan s = .word .coldReset u) := by
  exact ⟨next_of (f := fun t => t.gtc == 0) (by decide +kernel), by unfold lanesAreWords; decide +kernel, word_of (by decide +kernel)⟩

/-! Where Firefly words and further events complete. -/

/-- Operands of the Firefly words at the ends of their ranges: the register values x and y. -/
def ffaOperands : List (Word64 × Word64) :=
  [(0x100, 0x8000000000013FFF), (0x100, 0x80000000000103FF), (0x888, 0), (1023, 3), (65535, 0), (0xFFFFFFFF001FF101, 0x3FFFFF), (0, 0x100000), (0x102, 0x80000000000103FF),
   (0x1000, 0), (0x103FF, 0), (1023, 0x8000000081FF03FF)]
/-- The Firefly command of a row, with its operands. -/
def ffaKinds : List FfaKind := ((List.range 11).zip ffaOperands).filterMap (fun e => (fireflyWords (bs [(1, e.2.1), (2, e.2.2)]) 1 2)[e.1]?.map (fun r => r.2.1))
theorem ffaKinds_eq : ffaKinds = [.ldj 0x100 0x8000000000013FFF, .ldh 0x100 0x80000000000103FF, .ldc 0x888, .clamp 1023 3, .beta 65535, .mode 0xFFFFFFFF001FF101 0x3FFFFF,
    .sweep 0x100000, .rdc 0x102 0x80000000000103FF, .rds 0x1000, .zc 0x103FF, .bnd 1023 0x8000000081FF03FF] := by decide
/-- Pages gathered with no failure. -/
theorem gathered_of {α β : Type} {r : α × List β × State} (h : r.2.1.isEmpty = true) : ∃ x u, r = (x, [], u) := by
  obtain ⟨a, l, u⟩ := r
  cases l with
  | nil => exact ⟨a, u, rfl⟩
  | cons x l => exact absurd h Bool.false_ne_true
theorem witness_FireflyWordsComplete : b0.cur.live = true ∧ (∃ f, (b0.teamOf b0.cur).ffa = some f ∧ decide (f.queue.length < 16) = true) ∧ earlierDone b0 b0.cur = true ∧ mayWriteS b0 1 = true ∧
    lowestFree b0.cur.proms 1 ∧ ffaKinds.length = 11 ∧ (∀ k ∈ ffaKinds, valuesOk k ∧ arrayHeld b0 b0.cur k = false) ∧
    (∀ k ∈ ffaKinds, (∀ a, k ≠ .rds a) → reaches b0 k [] b0) ∧
    (∃ x u, gatherDevice b0 b0.cur needWrite (spans 0x1000 128) = (x, [], u)) := by
  refine ⟨rfl, ex_of (by decide), by decide, by decide, ⟨by decide, by decide, fun p h => absurd h List.not_mem_nil, fun m h1 h2 => by omega⟩, by decide, ?_, ?_, ?_⟩
  · intro k hk
    rw [ffaKinds_eq] at hk
    simp only [List.mem_cons, List.not_mem_nil, or_false] at hk
    rcases hk with rfl | rfl | rfl | rfl | rfl | rfl | rfl | rfl | rfl | rfl | rfl <;> exact ⟨by simp only [valuesOk, couplingOk, nodesOk] <;> decide, by decide⟩
  · intro k hk ha
    rw [ffaKinds_eq] at hk
    simp only [List.mem_cons, List.not_mem_nil, or_false] at hk
    rcases hk with rfl | rfl | rfl | rfl | rfl | rfl | rfl | rfl | rfl | rfl | rfl <;> first
      | exact ⟨rfl, rfl⟩
      | exact ⟨by decide, by decide, rfl, rfl⟩
      | exact ((ha _) rfl).elim
  · exact gathered_of (by decide)

/-- Arrays with a load of one coupling, or a read of one count, from and to the scratchpad, or at the end of a sweep. -/
def loadJ : State := ffaS [ffaCmd (.ldj 0x100 0x8000000000010005) none] []
def readC : State := ffaS [ffaCmd (.rdc 0x100 0x8000000000010000) none] []
def lastSweep : State := ffaS [{ ffaCmd (.sweep 1) none with ended := true }] []
theorem witness_EventsTakeEffect_run : (let u := ageHeads readyState 0
      (u.core 0).grant = false ∧ groupsOn u 0 = [u.cur] ∧ u.group? 3 = some u.cur ∧ (readyHead u u.cur).isSome = true ∧ u.cur.runs = [] ∧ (u.core 0).capDrop ≤ 46 ∧ u.cur.width = 32) ∧
    (∀ c ∈ [code1 (.iadd l2)], c.words ≠ []) := by decide
theorem witness_EventsTakeEffect_array : (∃ x, ffaHead loadJ 2 = some x ∧ (!x.2.2.performed && smapWf 0 x.2.1.coup && x.2.2.kind == .ldj 0x100 0x8000000000010005 &&
      !(ffaSource loadJ x.1 x.2.2).2.1) = true) ∧ couplingOk 0x8000000000010005 ∧
    (∃ x, ffaHead readC 2 = some x ∧ (!x.2.2.performed && x.2.2.kind == .rdc 0x100 0x8000000000010000 && smapWf 0 x.1.scr) = true) ∧ (0x8000000000010000 : Word64).getLsbD 63 = true ∧
    (∃ x, ffaHead lastSweep 2 = some x ∧ (x.2.2.kind == .sweep 1 && x.2.2.latched.isNone && x.2.2.ended && sweepReady lastSweep x.1 x.2.1 x.2.2) = true) := by
  refine ⟨ex_of (by decide), by simp only [couplingOk]; decide, ex_of (by decide), by decide, ex_of (by decide)⟩
theorem witness_EventsTakeEffect_other : (let d := { taskGrid with scopes := [scope1], views := [] }
     (turnS [] false).grid? turn5.grid = some d ∧ turnAway (turnS [] false) d turn5 = false ∧ turn5.tile < 8 ∧ (turnViews d turn5).1 = none) ∧
    (∃ h rest, (heldGroup.vdev 0).halts = h :: rest ∧ h.merge = false ∧ (heldGroup.grid? h.grid).isSome = true ∧ heldGroup.power.stopped = false) ∧
    (∃ p, (passS.cluster 0).passes = [p] ∧ p.commit < passS.cycle) ∧ smapWf Cluster.reset passS.clusters = true := by
  refine ⟨by decide, ⟨_, _, rfl, rfl, by decide +kernel, by decide +kernel⟩, ⟨_, rfl, by decide⟩, by decide⟩
/-- The check of a matrix word at its last pass on the bench. -/
def mxCheck (s : State) (i : Instr) (w : LaneOp) (pairs : Bool)
    (f : Issue → List LaneReq → State → Except (Option MxFault) (Nat → BitVec 8 → MxReq) × State) : Except (Option MxFault) (Nat → BitVec 8 → MxReq) × State :=
  match issueOf s i with
  | some q => let ls := readLanes q (mxLane s.cur w pairs); f (onLanes q ls) ls s
  | none => (.error none, s)
def mxq : LaneOp := { la with a := .mrf 4, b := .special 0 10, c := .special 0 11 }
/-- The bench with a format block of bf16 on both sides, B columns of 32 bytes, and K = 16 (R231, R232). -/
def fmtS (i : Instr) : State :=
  { br i with
    cur := { (br i).cur with s := [(10, 0x1000)] }
    teams := (br i).teams.map (fun (t : Team) => { t with scr := writeBytes t.scr 0 (toBytes 32 (2 ^ 133 + 5 * 2 ^ 160 + 5 * 2 ^ 176)) }) }
theorem witness_MatrixWord_q : (∃ mk u, mxCheck (fmtS (.mxQ mxq)) (.mxQ mxq) mxq false (checkQ mxq) = (.ok mk, u) ∧ true = true) ∧
    ∃ q, issues (fmtS (.mxQ mxq)) (.mxQ mxq) q ∧ q.final = true :=
  ⟨good_of (f := fun _ => true) (by decide +kernel), stands_issues (f := fun q => q.final) (by decide)⟩
theorem witness_MatrixWord_check : (∃ mk u, mxCheck (br (.mxZero mxz)) (.mxZero mxz) mxz false (plainReq (fun _ r => r) .zero mxz) = (.ok mk, u) ∧ true = true) ∧
    (∃ e u, mxCheck (br (.mxQ mxq)) (.mxQ mxq) mxq false (checkQ mxq) = (.error e, u) ∧ e.isSome = true) ∧
    (∃ e u, mxCheck (pageless (br (.mxDrain mxd))) (.mxDrain mxd) mxd true (checkDrain mxd) = (.error e, u) ∧ e.isNone = true) ∧
    (∃ mk u, mxCheck (br (.mxDrain mxd)) (.mxDrain mxd) mxd true (checkDrain mxd) = (.ok mk, u) ∧ true = true) ∧
    (∀ o ∈ octets 8 0xFF, slotBase mxz + o.1 < (b0.teamOf b0.cur).nslots) :=
  ⟨good_of (f := fun _ => true) (by decide +kernel), bad_of (f := Option.isSome) (by decide +kernel), bad_of (f := Option.isNone) (by decide +kernel), good_of (f := fun _ => true) (by decide +kernel), by decide⟩
end Sys2Proof.Tests
end

/-! The scalar words that compute: R105 to R108. Shared facts first (the fields of a word, what a scalar write leaves, the model's
word operations as arithmetic), then the statements. -/

namespace Sys2Proof.Proofs
open Sys2Proof.Machine Sys2Proof.Spec

/-! The fields of a word of format S.R, S.I and S.L (R68). -/

section Fields
variable (op d a b : BitVec 6) (f : BitVec 8) (i : BitVec 14) (j : BitVec 20)
open BitVec

theorem fOp_formatR : fOp (op ++ d ++ a ++ b ++ f) = op :=
  (extractLsb'_append_eq_of_le (by decide)).trans <| (extractLsb'_append_eq_of_le (by decide)).trans <|
    (extractLsb'_append_eq_of_le (by decide)).trans extractLsb'_append_eq_left
theorem fD_formatR : fD (op ++ d ++ a ++ b ++ f) = d :=
  (extractLsb'_append_eq_of_le (by decide)).trans <| (extractLsb'_append_eq_of_le (by decide)).trans <|
    (extractLsb'_append_eq_of_le (by decide)).trans extractLsb'_append_eq_right
theorem fA_formatR : fA (op ++ d ++ a ++ b ++ f) = a :=
  (extractLsb'_append_eq_of_le (by decide)).trans <| (extractLsb'_append_eq_of_le (by decide)).trans extractLsb'_append_eq_right
theorem fB_formatR : fB (op ++ d ++ a ++ b ++ f) = b := (extractLsb'_append_eq_of_le (by decide)).trans extractLsb'_append_eq_right
theorem fFn8_formatR : fFn8 (op ++ d ++ a ++ b ++ f) = f := extractLsb'_append_eq_right

theorem fOp_formatI : fOp (op ++ d ++ a ++ i) = op :=
  (extractLsb'_append_eq_of_le (by decide)).trans <| (extractLsb'_append_eq_of_le (by decide)).trans extractLsb'_append_eq_left
theorem fD_formatI : fD (op ++ d ++ a ++ i) = d :=
  (extractLsb'_append_eq_of_le (by decide)).trans <| (extractLsb'_append_eq_of_le (by decide)).trans extractLsb'_append_eq_right
theorem fA_formatI : fA (op ++ d ++ a ++ i) = a := (extractLsb'_append_eq_of_le (by decide)).trans extractLsb'_append_eq_right
theorem fImm14_formatI : fImm14 (op ++ d ++ a ++ i) = i := extractLsb'_append_eq_right

theorem fOp_formatL : fOp (op ++ d ++ j) = op := (extractLsb'_append_eq_of_le (by decide)).trans extractLsb'_append_eq_left
theorem fD_formatL : fD (op ++ d ++ j) = d := (extractLsb'_append_eq_of_le (by decide)).trans extractLsb'_append_eq_right
theorem fImm20_formatL : fImm20 (op ++ d ++ j) = j := extractLsb'_append_eq_right
end Fields

/-! The decoder's acceptance. -/

theorem accept_legal {i : Instr} (h : illegal i = none) : accept i = .ok i := by rw [accept, h]

/-- A word that needs b6 = 0 is no other instruction. -/
theorem acceptZero_toOption {i : Instr} (b : BitVec 6) (h : illegal i = none) :
    (acceptZero (b == 0) i).toOption = if b = 0 then some i else none := by
  by_cases hb : b = 0
  · rw [acceptZero, if_pos (beq_iff_eq.mpr hb), accept_legal h, if_pos hb]; rfl
  · rw [acceptZero, if_neg (mt beq_iff_eq.mp hb), if_neg hb]; rfl

/-- A shift whose amount is checked is an instruction below 64 (R107). -/
theorem accept_toOption_shift {i : Instr} {n : Nat} (h : illegal i = if n < 64 then none else some .shift) :
    (accept i).toOption = if 64 ≤ n then none else some i := by
  by_cases hn : n < 64
  · rw [if_pos hn] at h
    rw [accept_legal h, if_neg (by omega)]; rfl
  · rw [if_neg hn] at h
    rw [accept, h, if_pos (by omega)]; rfl

/-! What a scalar word leaves. -/

theorem onCur_result (s : State) (d : BitVec 6) (v : Word64) (lat : Nat) :
    s.onCur (·.result s.cycle d v lat) = wrote s d v lat := by
  by_cases hd : d = 0
  · subst hd; rfl
  · simp only [State.onCur, Group.result, Group.writeS, Group.next, wrote, if_neg hd]

theorem scalarWrite_wrote {s : State} {d : BitVec 6} {v w : Word64} {lat : Nat} (h : mayComplete s d) (hv : v = w) :
    scalarWrite s d v lat = .next (wrote s d w lat) := by
  rw [scalarWrite_done v lat h.1 h.2, onCur_result, hv]

/-! The word operations of the model as arithmetic. -/

theorem ofNat_toNat_word (x : Word64) : BitVec.ofNat 64 x.toNat = x := by rw [BitVec.ofNat_toNat, BitVec.setWidth_eq]

theorem sub_eq_ofInt (x y : Word64) : x - y = BitVec.ofInt 64 (x.toNat - y.toNat : Int) := by
  rw [Int.sub_eq_add_neg, BitVec.ofInt_add, BitVec.ofInt_neg, BitVec.ofInt_natCast, BitVec.ofInt_natCast, ofNat_toNat_word,
    ofNat_toNat_word, BitVec.sub_eq_add_neg]

theorem shiftLeft_eq_ofNat (x : Word64) (n : Nat) : x <<< n = BitVec.ofNat 64 (x.toNat * 2 ^ n) := by
  apply BitVec.eq_of_toNat_eq
  rw [BitVec.toNat_shiftLeft, BitVec.toNat_ofNat, Nat.shiftLeft_eq]

theorem ushiftRight_eq_ofNat (x : Word64) (n : Nat) : x >>> n = BitVec.ofNat 64 (x.toNat / 2 ^ n) := by
  rw [← Nat.shiftRight_eq_div_pow, ← BitVec.toNat_ushiftRight, ofNat_toNat_word]

theorem sshiftRight_eq_ofInt (x : Word64) (n : Nat) : x.sshiftRight n = BitVec.ofInt 64 (x.toInt / 2 ^ n) := by
  rw [BitVec.sshiftRight, Int.shiftRight_eq_div_pow, Int.natCast_pow]; rfl

theorem mul_eq_ofInt (x y : Word64) : x * y = BitVec.ofInt 64 (x.toInt * y.toInt) := by
  rw [BitVec.ofInt_mul, BitVec.ofInt_toInt, BitVec.ofInt_toInt]

/-- A word chosen of two is the word of the number chosen of theirs, under a reading `f` of words as numbers that `g` undoes. -/
theorem chosen_eq {α : Type} {f : Word64 → α} {g : α → Word64} (hg : ∀ x, g (f x) = x) {p : Prop} [Decidable p] {x y : Word64} {m : α}
    (hy : p → m = f y) (hx : ¬ p → m = f x) : (if p then y else x) = g m := by
  split
  · next h => rw [hy h, hg]
  · next h => rw [hx h, hg]

theorem ite_of_iff {α : Type} {p q : Prop} [Decidable p] [Decidable q] {x y : α} (h : p ↔ q) :
    (if p then x else y) = if q then x else y := ite_congr (propext h) (fun _ => rfl) (fun _ => rfl)

theorem bit64_eq_flag {p q : Bool} (h : p = q) : bit64 p = flag q := h ▸ rfl

/-! R105: the op6 0x00 family. -/

theorem decodeScalar_op00 (d a b : BitVec 6) (f : BitVec 8) :
    decodeScalar (0x00#6 ++ d ++ a ++ b ++ f) = decR0 (0x00#6 ++ d ++ a ++ b ++ f) := by
  unfold decodeScalar; rw [fOp_formatR]; rfl

theorem decR0_toOption (op d a b : BitVec 6) (f : BitVec 8) :
    (decR0 (op ++ d ++ a ++ b ++ f)).toOption = (aluWords d a b)[f.toNat]? := by
  simp only [decR0, fD_formatR, fA_formatR, fB_formatR, fFn8_formatR]
  match f.toNat with
  | 0 | 1 | 2 | 3 | 4 | 5 | 6 | 7 | 8 | 9 | 10 | 11 | 12 | 13 | 14 | 15 => rfl
  | _ + 16 => rfl

/-- Every word of the family, in the order of its fn8, writes the value that R105 gives. -/
theorem exec_aluWords {s : State} {d a b : BitVec 6} {i : Instr} {v : Word64} (h : mayComplete s d)
    (hm : (i, v) ∈ (aluWords d a b).zip (alu (s.cur.readS a) (s.cur.readS b))) : exec i s = .next (wrote s d v 1) := by
  simp only [aluWords, alu, List.zip_cons_cons, List.zip_nil_right, List.mem_cons, List.not_mem_nil, or_false, Prod.mk.injEq] at hm
  rcases hm with ⟨rfl, rfl⟩ | ⟨rfl, rfl⟩ | ⟨rfl, rfl⟩ | ⟨rfl, rfl⟩ | ⟨rfl, rfl⟩ | ⟨rfl, rfl⟩ | ⟨rfl, rfl⟩ | ⟨rfl, rfl⟩ |
    ⟨rfl, rfl⟩ | ⟨rfl, rfl⟩ | ⟨rfl, rfl⟩ | ⟨rfl, rfl⟩ | ⟨rfl, rfl⟩ | ⟨rfl, rfl⟩ | ⟨rfl, rfl⟩ | ⟨rfl, rfl⟩
  · exact scalarWrite_wrote h (BitVec.add_def _ _)
  · exact scalarWrite_wrote h (sub_eq_ofInt _ _)
  · exact scalarWrite_wrote h rfl
  · exact scalarWrite_wrote h rfl
  · exact scalarWrite_wrote h rfl
  · exact scalarWrite_wrote h rfl
  · exact scalarWrite_wrote h (shiftLeft_eq_ofNat _ _)
  · exact scalarWrite_wrote h (ushiftRight_eq_ofNat _ _)
  · exact scalarWrite_wrote h (sshiftRight_eq_ofInt _ _)
  · exact scalarWrite_wrote h (chosen_eq (fun _ => BitVec.ofInt_toInt) (by omega) (by omega))
  · exact scalarWrite_wrote h (chosen_eq (fun _ => BitVec.ofInt_toInt) (by omega) (by omega))
  · exact scalarWrite_wrote h (chosen_eq ofNat_toNat_word (by omega) (by omega))
  · exact scalarWrite_wrote h (chosen_eq ofNat_toNat_word (by omega) (by omega))
  · exact scalarWrite_wrote h (bit64_eq_flag rfl)
  · exact scalarWrite_wrote h rfl
  · exact scalarWrite_wrote h rfl

/-- Settles O1: the decoder's table row by row, and the value of each word. -/
theorem scalarAluResult : Obligations.ScalarAluResult := by
  unfold Obligations.ScalarAluResult
  refine ⟨fun s d a b i v h hm => exec_aluWords h hm, fun d a b f => ?_⟩
  rw [decodeScalar_op00, decR0_toOption]

/-! R106: multiplications, divisions, bit counts, `sext`. -/

theorem decodeScalar_op01 (d a b : BitVec 6) (f : BitVec 8) :
    decodeScalar (0x01#6 ++ d ++ a ++ b ++ f) = decR1 (0x01#6 ++ d ++ a ++ b ++ f) := by
  unfold decodeScalar; rw [fOp_formatR]; rfl

theorem decR1_toOption (op d a b : BitVec 6) (f : BitVec 8) :
    (decR1 (op ++ d ++ a ++ b ++ f)).toOption = (longWords d a b)[f.toNat]?.join := by
  simp only [decR1, fD_formatR, fA_formatR, fB_formatR, fFn8_formatR]
  match f.toNat with
  | 0 | 1 | 2 | 3 | 4 | 5 | 6 | 10 => rfl
  | 7 | 8 | 9 => exact acceptZero_toOption b rfl
  | _ + 11 => rfl

theorem exec_products {s : State} {d a b : BitVec 6} {r : Instr × Word64} (h : mayComplete s d)
    (hr : r ∈ products d a b (s.cur.readS a) (s.cur.readS b)) : exec r.1 s = .next (wrote s d r.2 4) := by
  simp only [products, List.mem_cons, List.not_mem_nil, or_false] at hr
  rcases hr with rfl | rfl | rfl
  · exact scalarWrite_wrote h (mul_eq_ofInt _ _)
  · exact scalarWrite_wrote h rfl
  · exact scalarWrite_wrote h rfl

/-! Significant bits and the bit counts. -/

theorem significant_sigBits (n : Nat) : significant n (sigBits n) := by
  unfold significant sigBits
  split
  · next h => exact ⟨by rw [h]; decide, .inl rfl⟩
  · next h => exact ⟨Nat.lt_log2_self, .inr (Nat.log2_self_le h)⟩

/-- The highest 1 bit of a number of b significant bits is bit b − 1. -/
theorem leads_of_significant {x : Word64} {b : Nat} (h : significant x.toNat b) (hb : b ≤ 64) : leads x (64 - b) := by
  obtain ⟨hlt, hge⟩ := h
  refine ⟨Nat.sub_le _ _, fun j hj => ?_, fun hn => ?_⟩
  · exact Nat.testBit_lt_two_pow (Nat.lt_of_lt_of_le hlt (Nat.pow_le_pow_right Nat.two_pos (by omega)))
  · have hge := hge.resolve_left (by omega)
    rw [show 63 - (64 - b) = b - 1 by omega]
    exact Nat.testBit_of_two_pow_le_and_two_pow_add_one_gt hge (by rwa [Nat.sub_add_cancel (by omega)])

theorem sigBits_le {n w : Nat} (h : n < 2 ^ w) : sigBits n ≤ w := by
  unfold sigBits
  split
  · exact Nat.zero_le _
  · next h0 => exact (Nat.log2_lt h0).mpr h

theorem leads_leadingZeros (x : Word64) : leads x (leadingZeros 64 x.toNat) := by
  rw [leadingZeros, Nat.mod_eq_of_lt x.isLt]
  exact leads_of_significant (significant_sigBits _) (sigBits_le x.isLt)

theorem trails_trailingZeros (x : Word64) : trails x (trailingZeros x) := by
  unfold trailingZeros
  cases h : (List.range 64).find? (fun i => x.getLsbD i) with
  | none =>
    exact ⟨Nat.le_refl _, fun j hj => Bool.eq_false_iff.mpr (List.find?_eq_none.mp h j (List.mem_range.mpr hj)), fun hn => absurd hn (Nat.lt_irrefl _)⟩
  | some n =>
    obtain ⟨hn, hm, hbelow⟩ := List.find?_range_eq_some.mp h
    exact ⟨Nat.le_of_lt (List.mem_range.mp hm), fun j hj => by simpa only [Bool.not_eq_eq_eq_not, Bool.not_true] using hbelow j hj, fun _ => hn⟩

theorem popcount_eq_countP (x : Word64) : popcount x = (List.range 64).countP (fun i => x.getLsbD i) :=
  List.countP_eq_length_filter.symm

/-- Bit p of the source stands in every bit of the result from p up (R106). -/
theorem getLsbD_sext (x : Word64) (p : BitVec 6) (i : Nat) (hi : i < 64) :
    ((x <<< (63 - p.toNat)).sshiftRight (63 - p.toNat)).getLsbD i = x.getLsbD (min i p.toNat) := by
  have hp := p.isLt
  simp only [BitVec.getLsbD_sshiftRight, BitVec.msb_eq_getLsbD_last, BitVec.getLsbD_shiftLeft]
  have h64 : ¬ 64 ≤ i := by omega
  by_cases h : i ≤ p.toNat
  · have hlt : 63 - p.toNat + i < 64 := by omega
    have hge : ¬ 63 - p.toNat + i < 63 - p.toNat := by omega
    simp only [h64, hlt, hge, decide_false, decide_true, Bool.not_false, Bool.and_self, Bool.true_and, if_true, Nat.add_sub_cancel_left,
      Nat.min_eq_left h]
  · have hlt : ¬ 63 - p.toNat + i < 64 := by omega
    have hge : ¬ 64 - 1 < 63 - p.toNat := by omega
    have hbit : 64 - 1 - (63 - p.toNat) = p.toNat := by omega
    have hlast : 64 - 1 < 64 := by decide
    simp only [h64, hlt, hge, hbit, hlast, decide_false, decide_true, Bool.not_false, Bool.and_self, Bool.true_and, if_false,
      Nat.min_eq_right (by omega : p.toNat ≤ i)]

/-! Division (R59, R60). -/

/-- The status bits of a division that sets DZ, OV. -/
def divStatus (dz ov : Bool) : BitVec 7 := (if dz then stDZ else 0) ||| (if ov then stOV else 0)

theorem divStatus_none : divStatus false false = 0 := by decide
theorem divStatus_zero : divStatus true false = stDZ := by decide
theorem divStatus_dz (dz ov : Bool) : (divStatus dz ov &&& stDZ != 0) = dz := by decide +revert
theorem divStatus_ov (dz ov : Bool) : (divStatus dz ov &&& stOV != 0) = ov := by decide +revert
theorem divStatus_any (dz ov : Bool) : (divStatus dz ov != 0) = (dz || ov) := by decide +revert

/-- What `divided` gives, as `divide` answers it: quotient and remainder as numbers, DZ and OV as a status. -/
def divNat (r : Word64 × Word64 × Bool × Bool) : Nat × Nat × BitVec 7 := (r.1.toNat, r.2.1.toNat, divStatus r.2.2.1 r.2.2.2)

theorem signedOf_toNat (x : Word64) : signedOf 64 x.toNat = x.toInt := by
  rw [signedOf, BitVec.toInt_eq_toNat_cond, Nat.mod_eq_of_lt x.isLt]
  exact ite_of_iff (by omega)

theorem bitsOfInt_eq_toNat (z : Int) : bitsOfInt 64 z = (BitVec.ofInt 64 z).toNat := (BitVec.toNat_ofInt z).symm

theorem divide_zero (signed : Bool) (x y : Word64) (h : y = 0) :
    divide signed 64 x.toNat y.toNat = divNat (BitVec.allOnes 64, x, true, false) := by
  have hy : y.toNat % 2 ^ 64 = 0 := by rw [h]; rfl
  rw [divide, if_pos hy, Nat.mod_eq_of_lt x.isLt, divNat, BitVec.toNat_allOnes, divStatus_zero]

theorem divide_overflow (x y : Word64) (h : x = BitVec.intMin 64 ∧ y = BitVec.allOnes 64) :
    divide true 64 x.toNat y.toNat = divNat (BitVec.intMin 64, 0, false, true) := by
  rw [h.1, h.2]; decide

theorem divide_signed (x y : Word64) (h0 : y ≠ 0) (h : ¬ (x = BitVec.intMin 64 ∧ y = BitVec.allOnes 64)) :
    divide true 64 x.toNat y.toNat = divNat (BitVec.ofInt 64 (x.toInt.tdiv y.toInt),
      BitVec.ofInt 64 (x.toInt - x.toInt.tdiv y.toInt * y.toInt), false, false) := by
  have hy : ¬ y.toNat = 0 := fun hz => h0 (BitVec.eq_of_toNat_eq hz)
  have ho : ¬ (true && x.toNat == 2 ^ 63 && y.toNat == 2 ^ 64 - 1) = true := by
    simp only [Bool.true_and, Bool.and_eq_true, beq_iff_eq]
    exact fun ⟨hx, hy⟩ => h ⟨BitVec.eq_of_toNat_eq hx, BitVec.eq_of_toNat_eq hy⟩
  have hm : x.toInt - x.toInt.tdiv y.toInt * y.toInt = x.toInt.tmod y.toInt := by rw [Int.tmod_def, Int.mul_comm]
  rw [divide, Nat.mod_eq_of_lt x.isLt, Nat.mod_eq_of_lt y.isLt, if_neg hy, if_neg ho, if_pos rfl, signedOf_toNat, signedOf_toNat,
    bitsOfInt_eq_toNat, bitsOfInt_eq_toNat, hm, divNat, divStatus_none]

theorem divide_unsigned (x y : Word64) (h0 : y ≠ 0) :
    divide false 64 x.toNat y.toNat = divNat (BitVec.ofNat 64 (x.toNat / y.toNat),
      BitVec.ofNat 64 (x.toNat - x.toNat / y.toNat * y.toNat), false, false) := by
  have hy : ¬ y.toNat = 0 := fun h => h0 (BitVec.eq_of_toNat_eq h)
  have ho : ¬ (false && x.toNat == 2 ^ 63 && y.toNat == 2 ^ 64 - 1) = true := Bool.false_ne_true
  have hq : x.toNat / y.toNat < 2 ^ 64 := Nat.lt_of_le_of_lt (Nat.div_le_self _ _) x.isLt
  have hr : x.toNat % y.toNat < 2 ^ 64 := Nat.lt_of_le_of_lt (Nat.mod_le _ _) x.isLt
  have hm : x.toNat - x.toNat / y.toNat * y.toNat = x.toNat % y.toNat := by rw [Nat.mul_comm, ← Nat.mod_eq_sub]
  rw [divide, Nat.mod_eq_of_lt x.isLt, Nat.mod_eq_of_lt y.isLt, if_neg hy, if_neg ho, if_neg Bool.false_ne_true, divNat, hm,
    BitVec.toNat_ofNat, BitVec.toNat_ofNat, Nat.mod_eq_of_lt hq, Nat.mod_eq_of_lt hr, divStatus_none]

theorem divide_toNat (signed : Bool) (x y : Word64) : divide signed 64 x.toNat y.toNat = divNat (divided signed x y) := by
  unfold divided
  split
  · next h => exact divide_zero signed x y h
  · next h0 =>
    cases signed with
    | false => exact divide_unsigned x y h0
    | true =>
      rw [if_pos rfl]
      split
      · next h => exact divide_overflow x y h
      · next h => exact divide_signed x y h0 h

theorem divTakes_divLatency (signed : Bool) (x y : Word64) :
    divTakes signed x y (divLatency signed x.toNat (divNat (divided signed x y)).2.2) := by
  unfold divTakes divLatency
  rw [divNat, divStatus_any, signedOf_toNat]
  split
  · rfl
  · exact ⟨_, significant_sigBits _, rfl⟩

theorem gstat_result (g : Group) (cycle : Nat) (d : BitVec 6) (v : Word64) (lat : Nat) : (g.result cycle d v lat).gstat = g.gstat := by
  by_cases hd : d = 0
  · subst hd; rfl
  · simp only [Group.result, Group.writeS, Group.next, if_neg hd]

theorem onCur_result_setGstat (s : State) (d : BitVec 6) (v : Word64) (lat : Nat) (dz ov : Bool) :
    s.onCur (fun g => (g.result s.cycle d v lat).setGstat (divStatus dz ov)) = wroteDiv s d v dz ov lat := by
  rw [wroteDiv, ← onCur_result]
  simp only [State.onCur, Group.setGstat, divStatus_dz, divStatus_ov, gstat_result]

theorem scalarTrap_divStatus (gctl : Word64) (dz ov : Bool) : scalarTrap gctl (divStatus dz ov) =
    if dz && gctl.getLsbD 3 then some .divZero else if ov && gctl.getLsbD 4 then some .intOvf else none := by
  rw [scalarTrap, divStatus_dz, divStatus_ov, Bool.and_comm, Bool.and_comm ov]

/-- The state after the effects of a division word, before its trap (R59, R60, R103). -/
def divDone (s : State) (signed quotient : Bool) (d a b : BitVec 6) : State :=
  let r := divided signed (s.cur.readS a) (s.cur.readS b)
  wroteDiv s d (if quotient then r.1 else r.2.1) r.2.2.1 r.2.2.2 (divLatency signed (s.cur.readS a).toNat (divNat r).2.2)

theorem ofNat_divNat (quotient : Bool) (r : Word64 × Word64 × Bool × Bool) :
    BitVec.ofNat 64 (if quotient then (divNat r).1 else (divNat r).2.1) = if quotient then r.1 else r.2.1 := by
  cases quotient <;> exact ofNat_toNat_word _

section
variable {s : State} {d a b : BitVec 6} {signed quotient : Bool}

theorem scalarDivide_completes (h : mayComplete s d)
    (ht : scalarTrap s.cur.gctl (divNat (divided signed (s.cur.readS a) (s.cur.readS b))).2.2 = none) :
    scalarDivide s signed quotient d a b = .next (divDone s signed quotient d a b) := by
  rw [scalarDivide, divide_toNat, withCur_live _ h.1, if_pos h.2, ht, ofNat_divNat, divDone, ← onCur_result_setGstat]
  rfl

/-- The trap comes after the effects, at the PC of the word (R60, R175). -/
theorem scalarDivide_traps {c : Code} (h : mayComplete s d)
    (ht : scalarTrap s.cur.gctl (divNat (divided signed (s.cur.readS a) (s.cur.readS b))).2.2 = some c) :
    scalarDivide s signed quotient d a b = .next (
      let t := divDone s signed quotient d a b
      raiseDone { t with cur := { t.cur with pc := s.cur.pc } } c) := by
  rw [scalarDivide, divide_toNat, withCur_live _ h.1, if_pos h.2, ht, ofNat_divNat, divDone, ← onCur_result_setGstat]
  rfl

theorem scalarDivide_eq (h : mayComplete s d) :
    let r := divided signed (s.cur.readS a) (s.cur.readS b)
    let t := divDone s signed quotient d a b
    scalarDivide s signed quotient d a b = .next (
      if r.2.2.1 && s.cur.gctl.getLsbD 3 then raiseDone { t with cur := { t.cur with pc := s.cur.pc } } .divZero
      else if r.2.2.2 && s.cur.gctl.getLsbD 4 then raiseDone { t with cur := { t.cur with pc := s.cur.pc } } .intOvf
      else t) := by
  intro r t
  have ht : scalarTrap s.cur.gctl (divNat r).2.2 = _ := scalarTrap_divStatus s.cur.gctl r.2.2.1 r.2.2.2
  split
  · next hz => exact scalarDivide_traps h (ht.trans (if_pos hz))
  · next hz =>
    rw [if_neg hz] at ht
    split
    · next ho => exact scalarDivide_traps h (ht.trans (if_pos ho))
    · next ho => exact scalarDivide_completes h (ht.trans (if_neg ho))
end

/-- Each division word is `scalarDivide` with its row's signedness and result. -/
theorem exec_divWords {s : State} {d a b : BitVec 6} {w : Instr × Bool × Bool} (hw : w ∈ divWords d a b) :
    exec w.1 s = scalarDivide s w.2.1 w.2.2 d a b := by
  simp only [divWords, List.mem_cons, List.not_mem_nil, or_false] at hw
  rcases hw with rfl | rfl | rfl | rfl <;> rfl

/-- Settles O2: the decoder's table row by row, then the words by kind. -/
theorem scalarMultiplyDivideResult : Obligations.ScalarMultiplyDivideResult := by
  unfold Obligations.ScalarMultiplyDivideResult
  refine ⟨fun d a b f => ?_, fun s d a b p h => ?_⟩
  · rw [decodeScalar_op01, decR1_toOption]
  intro x y
  refine ⟨fun r hr => exec_products h hr, ?_, ?_, ?_, ?_, ?_⟩
  · exact scalarWrite_wrote h (congrArg _ (popcount_eq_countP x))
  · exact ⟨_, leads_leadingZeros x, scalarWrite_wrote h rfl⟩
  · exact ⟨_, trails_trailingZeros x, scalarWrite_wrote h rfl⟩
  · exact ⟨_, getLsbD_sext x p, scalarWrite_wrote h rfl⟩
  · intro w hw
    exact ⟨_, divTakes_divLatency w.2.1 x y, (exec_divWords hw).trans (scalarDivide_eq h)⟩

/-! R107: the immediate forms. -/

theorem decodeScalar_immediate (d a : BitVec 6) (i : BitVec 14) (n : Nat) (hn : n < 9) :
    (decodeScalar (BitVec.ofNat 6 (2 + n) ++ d ++ a ++ i)).toOption =
      if 4 ≤ n ∧ n ≤ 6 ∧ 64 ≤ i.toNat then none else (immOrder d a i)[n]? := by
  unfold decodeScalar
  rw [fOp_formatI, fD_formatI, fA_formatI, fImm14_formatI]
  match n with
  | 0 | 1 | 2 | 3 | 7 | 8 => rfl
  | 4 | 5 | 6 => exact (accept_toOption_shift (n := i.toNat) rfl).trans (ite_of_iff (by omega))

theorem exec_immWords {s : State} {d a : BitVec 6} {i : BitVec 14} {r : Instr × Word64} (h : mayComplete s d)
    (hr : r ∈ immWords d a i (s.cur.readS a)) : exec r.1 s = .next (wrote s d r.2 1) := by
  have hi : (i.signExtend 64).toInt = i.toInt := BitVec.toInt_signExtend_of_le (by decide)
  simp only [immWords, List.mem_cons, List.not_mem_nil, or_false] at hr
  rcases hr with rfl | rfl | rfl | rfl | rfl | rfl
  · exact scalarWrite_wrote h (by rw [BitVec.ofInt_add, BitVec.ofInt_toInt]; rfl)
  · exact scalarWrite_wrote h rfl
  · exact scalarWrite_wrote h rfl
  · exact scalarWrite_wrote h rfl
  · exact scalarWrite_wrote h (bit64_eq_flag (by rw [hi]))
  · exact scalarWrite_wrote h rfl

/-- A shift by an immediate writes below 64 and is an ILLEGAL_OP from there (R107). -/
theorem shiftImm_eq {s : State} {d a : BitVec 6} {i : BitVec 14} {f : Word64 → Nat → Word64} {v : Word64} (h : mayComplete s d)
    (hv : f (s.cur.readS a) i.toNat = v) :
    shiftImm s d a i f = .next (if i.toNat < 64 then wrote s d v 1 else raiseScalar s .illegalOp 0) := by
  unfold shiftImm
  split
  · exact scalarWrite_wrote h hv
  · exact withCur_live _ h.1

theorem exec_shiftWords {s : State} {d a : BitVec 6} {i : BitVec 14} {r : Instr × Word64} (h : mayComplete s d)
    (hr : r ∈ shiftWords d a i (s.cur.readS a)) :
    exec r.1 s = .next (if i.toNat < 64 then wrote s d r.2 1 else raiseScalar s .illegalOp 0) := by
  simp only [shiftWords, List.mem_cons, List.not_mem_nil, or_false] at hr
  rcases hr with rfl | rfl | rfl
  · exact shiftImm_eq h (shiftLeft_eq_ofNat _ _)
  · exact shiftImm_eq h (ushiftRight_eq_ofNat _ _)
  · exact shiftImm_eq h (sshiftRight_eq_ofInt _ _)

/-- Settles O3: the decoder's rows 0x02 to 0x0A, then the words that are no shift, then the shifts on both sides of 64. -/
theorem scalarImmediateResult : Obligations.ScalarImmediateResult := by
  unfold Obligations.ScalarImmediateResult
  exact ⟨decodeScalar_immediate, fun s d a i h => ⟨fun r hr => exec_immWords h hr, fun r hr => exec_shiftWords h hr⟩⟩

/-! R108: constants and addresses. -/

theorem decodeScalar_constant (d : BitVec 6) (i : BitVec 20) (n : Nat) (hn : n < 4) :
    (decodeScalar (BitVec.ofNat 6 (0x0B + n) ++ d ++ i)).toOption = [Instr.li d i, .lhi d i, .lxi d i, .pcrel d i][n]? := by
  unfold decodeScalar
  rw [fOp_formatL, fD_formatL, fImm20_formatL]
  match n with
  | 0 | 1 | 2 | 3 => rfl

theorem getLsbD_append_append {l m n : Nat} (x : BitVec l) (y : BitVec m) (z : BitVec n) (k : Nat) :
    (x ++ y ++ z).getLsbD k = if k < n then z.getLsbD k else if k < n + m then y.getLsbD (k - n) else x.getLsbD (k - n - m) := by
  rw [BitVec.getLsbD_append, BitVec.getLsbD_append]
  by_cases hk : k < n
  · rw [if_pos hk, if_pos hk]
  · rw [if_neg hk, if_neg hk]
    exact ite_of_iff (by omega)

/-- `lhi` replaces bits 39 to 20 (R108). -/
theorem lhi_value (x : Word64) (i : BitVec 20) :
    (x &&& ~~~0xFFFFF00000#64) ||| (i.zeroExtend 64 <<< 20) = x.extractLsb' 40 24 ++ i ++ x.extractLsb' 0 20 := by
  have hmask : 0xFFFFF00000#64 = (BitVec.allOnes 20).zeroExtend 64 <<< 20 := by decide
  refine BitVec.eq_of_getLsbD_eq fun k hk => .trans ?_ (getLsbD_append_append (x.extractLsb' 40 24) i (x.extractLsb' 0 20) k).symm
  rw [hmask]
  simp only [BitVec.getLsbD_or, BitVec.getLsbD_and, BitVec.getLsbD_not, BitVec.getLsbD_shiftLeft, BitVec.getLsbD_setWidth,
    BitVec.getLsbD_allOnes, BitVec.getLsbD_extractLsb', hk]
  rcases (by omega : k < 20 ∨ 20 ≤ k ∧ k < 40 ∨ 40 ≤ k) with h | ⟨h, h'⟩ | h
  · simp only [h, decide_true, if_true, Bool.not_true, Bool.not_false, Bool.and_true, Bool.true_and, Bool.false_and, Bool.and_false,
      Bool.or_false, Nat.zero_add]
  · have h20 : ¬ k < 20 := by omega
    have hi : k - 20 < 20 := by omega
    have h64 : k - 20 < 64 := by omega
    simp only [h20, hi, h64, (h' : k < 20 + 20), decide_true, decide_false, if_true, if_false, Bool.not_true, Bool.not_false,
      Bool.and_self, Bool.true_and, Bool.and_false, Bool.false_or]
  · have h20 : ¬ k < 20 := by omega
    have h40 : ¬ k < 20 + 20 := by omega
    have hi : ¬ k - 20 < 20 := by omega
    have hx : k - 20 - 20 < 24 := by omega
    have hk40 : 40 + (k - 20 - 20) = k := by omega
    simp only [h20, h40, hi, hx, hk40, BitVec.getLsbD_of_ge i (k - 20) (by omega), decide_true, decide_false, if_false, Bool.not_false,
      Bool.and_self, Bool.true_and, Bool.and_true, Bool.and_false, Bool.or_false]

/-- `lxi` replaces bits 63 to 40: 59 to 40 by the constant, 63 to 60 by 0 (R108). -/
theorem lxi_value (x : Word64) (i : BitVec 20) :
    (x &&& 0xFFFFFFFFFF#64) ||| (i.zeroExtend 64 <<< 40) = 0#4 ++ i ++ x.extractLsb' 0 40 := by
  have hmask : 0xFFFFFFFFFF#64 = (BitVec.allOnes 40).zeroExtend 64 := by decide
  refine BitVec.eq_of_getLsbD_eq fun k hk => .trans ?_ (getLsbD_append_append 0#4 i (x.extractLsb' 0 40) k).symm
  rw [hmask]
  simp only [BitVec.getLsbD_or, BitVec.getLsbD_and, BitVec.getLsbD_shiftLeft, BitVec.getLsbD_setWidth, BitVec.getLsbD_allOnes,
    BitVec.getLsbD_extractLsb', BitVec.getLsbD_zero, hk]
  rcases (by omega : k < 40 ∨ 40 ≤ k ∧ k < 60 ∨ 60 ≤ k) with h | ⟨h, h'⟩ | h
  · simp only [h, decide_true, if_true, Bool.not_true, Bool.and_true, Bool.true_and, Bool.false_and, Bool.and_false, Bool.or_false,
      Nat.zero_add]
  · have h40 : ¬ k < 40 := by omega
    have h64 : k - 40 < 64 := by omega
    simp only [h40, h64, (h' : k < 40 + 20), decide_true, decide_false, if_true, if_false, Bool.not_false, Bool.and_self,
      Bool.true_and, Bool.and_false, Bool.false_or]
  · have h40 : ¬ k < 40 := by omega
    have h60 : ¬ k < 40 + 20 := by omega
    simp only [h40, h60, BitVec.getLsbD_of_ge i (k - 40) (by omega), decide_false, if_false, Bool.and_false, Bool.or_self]

theorem pcrel_value (scb : Word64) (pc : Nat) (i : BitVec 20) :
    scb + 4 * (BitVec.ofNat 64 pc + i.signExtend 64) = BitVec.ofInt 64 (scb.toNat + 4 * (pc + i.toInt)) := by
  rw [BitVec.ofInt_add, BitVec.ofInt_mul, BitVec.ofInt_add, BitVec.ofInt_natCast, BitVec.ofInt_natCast, ofNat_toNat_word]
  rfl

theorem exec_placeWords {s : State} {d : BitVec 6} {i : BitVec 20} {r : Instr × Word64} (h : mayComplete s d)
    (hr : r ∈ placeWords s d i (s.cur.readS d)) : exec r.1 s = .next (wrote s d r.2 1) := by
  simp only [placeWords, List.mem_cons, List.not_mem_nil, or_false] at hr
  rcases hr with rfl | rfl | rfl | rfl
  · exact scalarWrite_wrote h rfl
  · exact scalarWrite_wrote h (lhi_value _ _)
  · exact scalarWrite_wrote h (lxi_value _ _)
  · exact scalarWrite_wrote h (pcrel_value _ _ _)

/-- Settles O4: the values of the four words, and the decoder's rows 0x0B to 0x0E. -/
theorem scalarConstantResult : Obligations.ScalarConstantResult := by
  unfold Obligations.ScalarConstantResult
  exact ⟨fun s d i r h hr => exec_placeWords h hr, decodeScalar_constant⟩

end Sys2Proof.Proofs

/-! Integer lane words: R131 to R135. What a word of fixed latency lands first, then the integers that a type holds, then the statements. -/

namespace Sys2Proof.Proofs
open Sys2Proof.Machine Sys2Proof.Spec

/-! What a word of fixed latency lands (R125, R126). Its latency λ, whether it sets LSTAT and whether it clears LSTAT stand together as
one equation of three, which is closed by computation for each word. -/

section
variable {s : State} {i : Instr} {w : LaneOp} {q : Issue} {lam : Nat} {sets : Bool}

theorem landing_values_eq_results (o : Operand) (wide : Bool) (vals : List (Nat × Word64 × BitVec 7)) (hc : isClst i = false) :
    (landing s s.cur q i).values s.cur o wide vals = results s q (latencyOf s.cur.width i) (setsStatus i) o wide vals := by
  simp only [Landing.values, landing, results, hc, Bool.or_false]

/-- A word of fixed latency that issues lands what its function gives for each active lane. -/
theorem landsIn_fixedWord {o : Operand} {wide : Bool} {f : Team → Nat → Word64 × BitVec 7} {g : Nat → Word64 × BitVec 7} (h : issues s i q)
    (hx : exec i s = fixedWord i o wide s f) (hk : (latencyOf s.cur.width i, setsStatus i, isClst i) = (lam, sets, false))
    (hv : ∀ j, f (s.teamOf s.cur) j = g j) : landsIn s i q lam sets o wide g := by
  obtain ⟨hlive, hq, hf⟩ := h
  simp only [Prod.mk.injEq] at hk
  obtain ⟨rfl, rfl, hc⟩ := hk
  rw [landsIn, hx, fixedWord_runs o wide f hlive hq hf, landing_values_eq_results o wide _ hc, perLane, funext hv]

/-- `intWord3` lands an integer function of its operands' values, without status (R131). -/
theorem landsIn_intWord3 {f g : Int → Int → Int → Int} (h : issues s i q) (hx : exec i s = intWord3 i w s f)
    (hk : (latencyOf s.cur.width i, setsStatus i, isClst i) = (lam, false, false)) (hv : ∀ a b c, f a b c = g a b c) :
    landsIn s i q lam false w.d w.typ.is64 (fun j => (intRaw w.typ (g (intOf w.typ (operand s w w.a j)) (intOf w.typ (operand s w w.b j))
      (intOf w.typ (operand s w w.c j))), 0)) := by
  rw [intWord3] at hx
  exact landsIn_fixedWord h hx hk fun _ => congrArg (fun x => (intRaw w.typ x, 0)) (hv _ _ _)

/-- `bitWord` reads A and B in the word's type (R134, R135). -/
theorem landsIn_bitWord {f g : Word64 → Word64 → Word64} (h : issues s i q) (hx : exec i s = bitWord i w s f)
    (hk : (latencyOf s.cur.width i, setsStatus i, isClst i) = (lam, false, false)) (hv : ∀ x y, f x y = g x y) :
    landsIn s i q lam false w.d w.typ.is64 (fun j => (g (operand s w w.a j) (operand s w w.b j), 0)) := by
  rw [bitWord] at hx
  exact landsIn_fixedWord h hx hk fun _ => congrArg (·, 0) (hv _ _)

/-- `shiftWord` reads A in the word's type and B as one register (R134, R135). -/
theorem landsIn_shiftWord {f g : Word64 → Nat → Word64} (h : issues s i q) (hx : exec i s = shiftWord i w s f)
    (hk : (latencyOf s.cur.width i, setsStatus i, isClst i) = (lam, false, false)) (hv : ∀ x n, f x n = g x n) :
    landsIn s i q lam false w.d w.typ.is64 (fun j => (g (operand s w w.a j) (operand32 s w.b j), 0)) := by
  rw [shiftWord] at hx
  exact landsIn_fixedWord h hx hk fun _ => congrArg (·, 0) (hv _ _)
end

/-! The integers of w bits: `signedOf` and `bitsOfInt` as the two readings of a bit vector (R49). -/

theorem signedOf_eq_toInt (w x : Nat) : signedOf w x = (BitVec.ofNat w x).toInt := by
  cases w with
  | zero => rw [BitVec.eq_nil (BitVec.ofNat 0 x), signedOf, Nat.pow_zero, Nat.mod_one]; rfl
  | succ w =>
    rw [signedOf, BitVec.toInt_eq_toNat_cond, BitVec.toNat_ofNat, Nat.add_sub_cancel, Int.natCast_pow]
    exact ite_of_iff (by omega)

theorem bitsOfInt_eq_toNat_ofInt (w : Nat) (x : Int) : bitsOfInt w x = (BitVec.ofInt w x).toNat := by
  rw [BitVec.toNat_ofInt, Int.natCast_pow]; rfl

theorem signedOf_bitsOfInt (w : Nat) (x : Int) : signedOf w (bitsOfInt w x) = (BitVec.ofInt w x).toInt := by
  rw [signedOf_eq_toInt, bitsOfInt_eq_toNat_ofInt, BitVec.ofNat_toNat, BitVec.setWidth_eq]

theorem le_signedOf (w x : Nat) : -(2 ^ (w - 1)) ≤ signedOf w x := signedOf_eq_toInt w x ▸ BitVec.le_toInt _
theorem signedOf_lt (w x : Nat) : signedOf w x < 2 ^ (w - 1) := signedOf_eq_toInt w x ▸ BitVec.toInt_lt

theorem natCast_bitsOfInt (w : Nat) (x : Int) : (bitsOfInt w x : Int) = x % 2 ^ w :=
  Int.toNat_of_nonneg (Int.emod_nonneg _ (Int.pow_ne_zero (by decide)))

theorem bitsOfInt_lt (w : Nat) (x : Int) : (bitsOfInt w x : Int) < 2 ^ w :=
  natCast_bitsOfInt w x ▸ Int.emod_lt_of_pos _ (Int.pow_pos (by decide))

theorem signedOf_bitsOfInt_emod (w : Nat) (x : Int) : signedOf w (bitsOfInt w x) % 2 ^ w = x % 2 ^ w := by
  have h : x.bmod (2 ^ w) % (2 ^ w : Nat) = x % (2 ^ w : Nat) := Int.bmod_emod
  rwa [Int.natCast_pow, ← BitVec.toInt_ofInt, ← signedOf_bitsOfInt] at h

/-! fit(x) (R132). -/

theorem intMin_le_intMax (t : LType) : intMin t ≤ intMax t := by cases t <;> decide

theorem intMin_le_wrapTo (t : LType) (x : Int) : intMin t ≤ wrapTo t x := by
  unfold intMin wrapTo
  split
  · exact le_signedOf _ _
  · exact Int.natCast_nonneg _

theorem wrapTo_le_intMax (t : LType) (x : Int) : wrapTo t x ≤ intMax t := by
  unfold intMax wrapTo
  split
  · exact Int.le_sub_one_of_lt (signedOf_lt _ _)
  · exact Int.le_sub_one_of_lt (bitsOfInt_lt _ _)

/-- Reading x modulo 2^w back in the type keeps it modulo 2^w. -/
theorem wrapTo_emod (t : LType) (x : Int) : wrapTo t x % 2 ^ LType.width t = x % 2 ^ LType.width t := by
  unfold wrapTo
  split
  · exact signedOf_bitsOfInt_emod _ _
  · rw [natCast_bitsOfInt, Int.emod_emod_of_dvd _ (Int.dvd_refl _)]

theorem fits_iff (w : LaneOp) (x y : Int) : fits w x y ↔ intMin w.typ ≤ y ∧ y ≤ intMax w.typ ∧
    if w.mod.getLsbD 5 then (x < intMin w.typ → y = intMin w.typ) ∧ (intMax w.typ < x → y = intMax w.typ) ∧
      (intMin w.typ ≤ x → x ≤ intMax w.typ → y = x)
    else (y - x) % 2 ^ LType.width w.typ = 0 := Iff.rfl

theorem fits_clampTo {w : LaneOp} (x : Int) (hs : w.mod.getLsbD 5 = true) : fits w x (clampTo w.typ x) := by
  have hlo := intMin_le_intMax w.typ
  rw [fits_iff, if_pos hs, clampTo]
  omega

theorem fits_wrapTo {w : LaneOp} (x : Int) (hs : w.mod.getLsbD 5 = false) : fits w x (wrapTo w.typ x) := by
  rw [fits_iff, hs, if_neg Bool.false_ne_true]
  exact ⟨intMin_le_wrapTo _ _, wrapTo_le_intMax _ _, Int.emod_eq_emod_iff_emod_sub_eq_zero.mp (wrapTo_emod _ _)⟩

theorem fits_fit (w : LaneOp) (x : Int) : fits w x (fit w.typ (LaneOp.sat w) x) := by
  unfold fit LaneOp.sat
  split
  · next hs => exact fits_clampTo x hs
  · next hs => exact fits_wrapTo x (Bool.eq_false_iff.mpr hs)

/-! R132: the arithmetic words. -/

theorem natAbs_eq_ite (a : Int) : (a.natAbs : Int) = if a < 0 then -a else a := by split <;> omega

/-- Each word of the table computes fit(x) of its row's exact result x. -/
theorem exec_exactWords {w : LaneOp} {r : Instr × Nat × Nat × (Int → Int → Int → Int)} (hr : r ∈ exactWords w) (s : State) :
    exec r.1 s = intWord3 r.1 w s (fun a b c => fit w.typ (LaneOp.sat w) (r.2.2.2 a b c)) := by
  simp only [exactWords, List.mem_cons, List.not_mem_nil, or_false] at hr
  rcases hr with rfl | rfl | rfl | rfl | rfl
  · rfl
  · rfl
  · rfl
  · rfl
  · simp only [← natAbs_eq_ite]; rfl

/-- Each word of the table takes its row's latency and leaves LSTAT. -/
theorem timing_exactWords {w : LaneOp} {r : Instr × Nat × Nat × (Int → Int → Int → Int)} (hr : r ∈ exactWords w) (n : Nat) :
    (latencyOf n r.1, setsStatus r.1, isClst r.1) = (if w.typ.is64 then r.2.2.1 else r.2.1, false, false) := by
  simp only [exactWords, List.mem_cons, List.not_mem_nil, or_false] at hr
  rcases hr with rfl | rfl | rfl | rfl | rfl <;> rfl

theorem exec_imulh (w : LaneOp) (s : State) : exec (.imulh w) s = execImulh w s := rfl
theorem exec_imin (w : LaneOp) (s : State) : exec (.imin w) s = execImin w s := rfl
theorem exec_imax (w : LaneOp) (s : State) : exec (.imax w) s = execImax w s := rfl

/-- Settles O8: each word lands an integer function of its operands; fit(x) is bounded and congruent, or clamped. -/
theorem laneIntegerArithmetic : Obligations.LaneIntegerArithmetic := by
  unfold Obligations.LaneIntegerArithmetic
  intro s w q lam rd ends
  refine ⟨fun r hr h => ?_, fun h => ?_, fun h => ?_, fun h => ?_⟩
  · exact ⟨_, fun _ _ _ => fits_fit w _, landsIn_intWord3 (g := fun a b c => fit w.typ (LaneOp.sat w) (r.2.2.2 a b c)) h
      (exec_exactWords hr s) (timing_exactWords hr _) (fun _ _ _ => rfl)⟩
  · exact ⟨_, fun _ _ _ => fits_wrapTo (w := { w with mod := 0 }) _ BitVec.getLsbD_zero,
      landsIn_intWord3 (g := fun a b _ => wrapTo w.typ (a * b / 2 ^ LType.width w.typ)) h (exec_imulh w s) rfl (fun _ _ _ => rfl)⟩
  · exact landsIn_intWord3 (g := fun a b _ => if a ≤ b then a else b) h (exec_imin w s) rfl (fun a b _ => Int.min_def a b)
  · exact landsIn_intWord3 (g := fun a b _ => if a ≤ b then b else a) h (exec_imax w s) rfl (fun a b _ => Int.max_def a b)

/-! R133, R134: divisions, bitwise words, shifts and counts. -/

/-- The two divisions of the lanes: the word, and whether it lands the quotient. -/
def laneDivWords (w : LaneOp) : List (Instr × Bool) := [(.idiv w, true), (.irem w, false)]

theorem exec_laneDivWords {w : LaneOp} {r : Instr × Bool} (hr : r ∈ laneDivWords w) (s : State) : exec r.1 s = laneDivide r.1 w s r.2 := by
  simp only [laneDivWords, List.mem_cons, List.not_mem_nil, or_false] at hr
  rcases hr with rfl | rfl <;> rfl

theorem timing_laneDivWords {w : LaneOp} {r : Instr × Bool} (hr : r ∈ laneDivWords w) (n : Nat) :
    (latencyOf n r.1, setsStatus r.1, isClst r.1) = (if w.typ.is64 then 32 else 16, true, false) := by
  simp only [laneDivWords, List.mem_cons, List.not_mem_nil, or_false] at hr
  rcases hr with rfl | rfl <;> rfl

/-- A division lands quotient or remainder, and the status of `divide` (R133). -/
theorem landsIn_laneDivide {s : State} {i : Instr} {w : LaneOp} {q : Issue} {lam : Nat} {quotient : Bool} (h : issues s i q)
    (hx : exec i s = laneDivide i w s quotient) (hk : (latencyOf s.cur.width i, setsStatus i, isClst i) = (lam, true, false)) :
    landsIn s i q lam true w.d w.typ.is64 (fun j =>
      let e := divide (LType.signed w.typ) (LType.width w.typ) (operand s w w.a j).toNat (operand s w w.b j).toNat
      (intRaw w.typ (wrapTo w.typ (if quotient then e.1 else e.2.1 : Nat)), e.2.2)) := by
  rw [laneDivide] at hx
  exact landsIn_fixedWord h hx hk fun _ => rfl

theorem exec_bitWords {w : LaneOp} {r : Instr × (Word64 → Word64 → Word64)} (hr : r ∈ bitWords w) (s : State) :
    exec r.1 s = bitWord r.1 w s r.2 := by
  simp only [bitWords, List.mem_cons, List.not_mem_nil, or_false] at hr
  rcases hr with rfl | rfl | rfl | rfl <;> rfl

theorem timing_bitWords {w : LaneOp} {r : Instr × (Word64 → Word64 → Word64)} (hr : r ∈ bitWords w) (n : Nat) :
    (latencyOf n r.1, setsStatus r.1, isClst r.1) = (1, false, false) := by
  simp only [bitWords, List.mem_cons, List.not_mem_nil, or_false] at hr
  rcases hr with rfl | rfl | rfl | rfl <;> rfl

theorem exec_laneShl (w : LaneOp) (s : State) : exec (.laneShl w) s = execLaneShl w s := rfl
theorem exec_laneShr (w : LaneOp) (s : State) : exec (.laneShr w) s = execLaneShr w s := rfl
theorem exec_laneSra (w : LaneOp) (s : State) : exec (.laneSra w) s = execLaneSra w s := rfl
theorem exec_lanePopc (w : LaneOp) (s : State) : exec (.lanePopc w) s = execLanePopc w s := rfl
theorem exec_laneClz (w : LaneOp) (s : State) : exec (.laneClz w) s = execLaneClz w s := rfl
theorem exec_bfe (w : LaneOp) (s : State) : exec (.bfe w) s = execBfe w s := rfl
theorem exec_bfi (w : LaneOp) (s : State) : exec (.bfi w) s = execBfi w s := rfl

theorem sigBits_eq_zero {x : Nat} (h : sigBits x = 0) : x = 0 := by
  have hlt := (significant_sigBits x).1
  rw [h] at hlt
  exact Nat.lt_one_iff.mp hlt

/-- What stands below the leading zeros are the significant bits (R135). -/
theorem leadingZeros_bounds {w x : Nat} (hx : x < 2 ^ w) :
    leadingZeros w x ≤ w ∧ x < 2 ^ (w - leadingZeros w x) ∧ (x ≠ 0 → 2 ^ (w - leadingZeros w x - 1) ≤ x) := by
  obtain ⟨hlt, hge⟩ := significant_sigBits x
  have hz : w - leadingZeros w x = sigBits x := by
    rw [leadingZeros, Nat.mod_eq_of_lt hx, Nat.sub_sub_self (sigBits_le hx)]
  rw [hz]
  exact ⟨Nat.sub_le _ _, hlt, fun h0 => hge.resolve_left (mt sigBits_eq_zero h0)⟩

theorem leadingZeros_mod (w x : Nat) : leadingZeros w x = leadingZeros w (x % 2 ^ w) := by
  rw [leadingZeros, leadingZeros, Nat.mod_mod]

theorem landsIn_bfi {s : State} {w : LaneOp} {q : Issue} (h : issues s (.bfi w) q) :
    landsIn s (.bfi w) q (if w.typ.is64 then 3 else 2) false w.d w.typ.is64 (fun j =>
      let c := operand32 s w.c j
      (BitVec.ofNat 64 (insertField (LType.width w.typ) (operand s w w.a j).toNat (operand s w w.b j).toNat (c % 256) (c / 256 % 256)), 0)) := by
  have hx := exec_bfi w s
  rw [execBfi] at hx
  exact landsIn_fixedWord h hx rfl fun _ => rfl

/-- R133 to R135: each word lands its function of its operands. -/
theorem laneBitsAndDivision : LaneBitsAndDivision := by
  unfold LaneBitsAndDivision
  intro s w q wide n lam
  refine ⟨fun r hr h => ?_, fun r hr h => ?_, fun h => ?_, fun h => ?_, fun h => ?_, fun h => ?_, fun h => ?_, fun h => ?_, fun h => ?_⟩
  · exact landsIn_laneDivide h (exec_laneDivWords hr s) (timing_laneDivWords hr _)
  · exact landsIn_bitWord (g := r.2) h (exec_bitWords hr s) (timing_bitWords hr _) (fun _ _ => rfl)
  · exact landsIn_shiftWord (g := fun x m => BitVec.ofNat 64 (x.toNat * 2 ^ (m % n))) h (exec_laneShl w s) rfl (fun _ _ => rfl)
  · exact landsIn_shiftWord (g := fun x m => BitVec.ofNat 64 (x.toNat / 2 ^ (m % n))) h (exec_laneShr w s) rfl
      (fun x m => ushiftRight_eq_ofNat x (m % n))
  · exact landsIn_shiftWord (g := fun x m => BitVec.ofInt 64 (signedOf n x.toNat / 2 ^ (m % n))) h (exec_laneSra w s) rfl (fun _ _ => rfl)
  · exact landsIn_bitWord (g := fun x _ => BitVec.ofNat 64 ((List.range 64).countP (fun i => x.getLsbD i))) h (exec_lanePopc w s) rfl
      (fun x _ => congrArg _ (popcount_eq_countP x))
  · exact ⟨leadingZeros n, fun _ => leadingZeros_bounds, landsIn_bitWord (g := fun x _ => BitVec.ofNat 64 (leadingZeros n (x.toNat % 2 ^ n))) h
      (exec_laneClz w s) rfl (fun x _ => congrArg _ (leadingZeros_mod n x.toNat))⟩
  · exact landsIn_shiftWord (g := fun x m => intRaw w.typ (wrapTo w.typ (extractField w.typ x.toNat (m % 256) (m / 256 % 256)))) h
      (exec_bfe w s) rfl (fun _ _ => rfl)
  · exact landsIn_bfi h

/-! R59: division at every width. -/

theorem divide_by_zero {w a : Nat} (signed : Bool) (ha : a < 2 ^ w) : divide signed w a 0 = (2 ^ w - 1, a, stDZ) := by
  rw [divide, Nat.zero_mod, if_pos rfl, Nat.mod_eq_of_lt ha]

section
variable {w a b : Nat} (ha : a < 2 ^ w) (hb : b < 2 ^ w)

include ha hb in
theorem divide_unsigned_eq (h0 : b ≠ 0) : divide false w a b = (a / b, a % b, 0) := by
  rw [divide, Nat.mod_eq_of_lt ha, Nat.mod_eq_of_lt hb, if_neg h0, Bool.false_and, Bool.false_and, if_neg Bool.false_ne_true,
    if_neg Bool.false_ne_true]

include ha in
theorem signedOf_eq_min_iff (hw : 1 ≤ w) : signedOf w a = -(2 ^ (w - 1)) ↔ a = 2 ^ (w - 1) := by
  have hp := Nat.two_pow_pred_add_two_pow_pred hw
  have hc : (2 : Int) ^ w = (2 ^ w : Nat) := (Int.natCast_pow 2 w).symm
  have hd : (2 : Int) ^ (w - 1) = (2 ^ (w - 1) : Nat) := (Int.natCast_pow 2 (w - 1)).symm
  rw [signedOf, Nat.mod_eq_of_lt ha, hc, hd]
  split <;> omega

include hb in
theorem signedOf_eq_neg_one_iff (hw : 1 ≤ w) : signedOf w b = -1 ↔ b = 2 ^ w - 1 := by
  have hp := Nat.two_pow_pred_add_two_pow_pred hw
  have hc : (2 : Int) ^ w = (2 ^ w : Nat) := (Int.natCast_pow 2 w).symm
  rw [signedOf, Nat.mod_eq_of_lt hb, hc]
  split <;> omega

include ha hb in
/-- The case that overflows: the smallest number divided by −1. -/
theorem divide_signed_eq (hw : 1 ≤ w) (h0 : b ≠ 0) : divide true w a b =
    if signedOf w a = -(2 ^ (w - 1)) ∧ signedOf w b = -1 then (2 ^ (w - 1), 0, stOV)
    else (bitsOfInt w ((signedOf w a).tdiv (signedOf w b)), bitsOfInt w ((signedOf w a).tmod (signedOf w b)), 0) := by
  rw [divide, Nat.mod_eq_of_lt ha, Nat.mod_eq_of_lt hb, if_neg h0, if_pos (rfl : true = true)]
  exact ite_of_iff (by rw [signedOf_eq_min_iff ha hw, signedOf_eq_neg_one_iff hb hw, Bool.true_and, Bool.and_eq_true, beq_iff_eq, beq_iff_eq])
end

/-- Unless it overflows, a quotient of two values of a width is one (R59). -/
theorem signedOf_quotient {w a b : Nat} (h : ¬ (signedOf w a = -(2 ^ (w - 1)) ∧ signedOf w b = -1)) (hw : 1 ≤ w) :
    signedOf w (bitsOfInt w ((signedOf w a).tdiv (signedOf w b))) = (signedOf w a).tdiv (signedOf w b) := by
  have hlt : 2 ^ (w - 1) < 2 ^ w := Nat.pow_lt_pow_right (by decide) (by omega)
  have hmin : (BitVec.intMin w).toInt = -(2 ^ (w - 1)) := by rw [BitVec.toInt_intMin, Nat.mod_eq_of_lt hlt, Int.natCast_pow]; rfl
  have hneg : (-1#w).toInt = -1 := by rw [BitVec.neg_one_eq_allOnes, BitVec.toInt_allOnes]; exact if_pos hw
  rw [signedOf_eq_toInt w a, signedOf_eq_toInt w b, ← hmin, ← hneg, BitVec.toInt_inj, BitVec.toInt_inj] at h
  rw [signedOf_bitsOfInt, signedOf_eq_toInt w a, signedOf_eq_toInt w b,
    ← BitVec.toInt_sdiv_of_ne_or_ne _ _ (Decidable.not_and_iff_not_or_not.mp h), BitVec.ofInt_toInt]

theorem signedOf_remainder (w a b : Nat) :
    signedOf w (bitsOfInt w ((signedOf w a).tmod (signedOf w b))) = (signedOf w a).tmod (signedOf w b) := by
  rw [signedOf_bitsOfInt, signedOf_eq_toInt w a, signedOf_eq_toInt w b, ← BitVec.toInt_srem, BitVec.ofInt_toInt]

/-- A remainder is 0 or has the sign of the dividend (R59). -/
theorem tmod_neg_iff (x y : Int) : x.tmod y = 0 ∨ (x.tmod y < 0 ↔ x < 0) := by
  have hs := Int.sign_tmod x y
  split at hs
  · exact .inl (Int.sign_eq_zero_iff_zero.mp hs)
  · exact .inr (by rw [← Int.sign_eq_neg_one_iff_neg, hs, Int.sign_eq_neg_one_iff_neg])

theorem signedOf_ne_zero {w b : Nat} (hb : b < 2 ^ w) (h0 : b ≠ 0) : signedOf w b ≠ 0 := by
  have hc : (2 : Int) ^ w = (2 ^ w : Nat) := (Int.natCast_pow 2 w).symm
  rw [signedOf, Nat.mod_eq_of_lt hb, hc]
  split <;> omega

/-- R59, case by case. -/
theorem divisionRule : DivisionRule := by
  unfold DivisionRule
  intro w a b hw ha hb
  refine ⟨fun h signed => ?_, fun h0 => ?_, fun h0 hmin hneg _ => ?_, fun h0 h _ => ?_⟩
  · rw [h, divide_by_zero signed ha]
  · exact ⟨a / b, a % b, divide_unsigned_eq ha hb h0, (Nat.div_add_mod' a b).symm, Nat.mod_lt a (Nat.pos_of_ne_zero h0)⟩
  · rw [divide_signed_eq ha hb hw h0, if_pos ⟨hmin, hneg⟩]
  · refine ⟨_, _, (divide_signed_eq ha hb hw h0).trans (if_neg h), ?_⟩
    rw [signedOf_quotient h hw, signedOf_remainder, Int.natAbs_tmod]
    exact ⟨(Int.tdiv_mul_add_tmod _ _).symm, Nat.mod_lt _ (Int.natAbs_pos.mpr (signedOf_ne_zero hb h0)), tmod_neg_iff _ _⟩

/-! R135: the bit fields. -/

/-- The field of m bits at a position that `insertField` takes out; none for m = 0. -/
theorem bitsOf_field (a pos m : Nat) : bitsOf a (pos + m - 1) pos * 2 ^ pos * (if m = 0 then 0 else 1) = 2 ^ pos * (a / 2 ^ pos % 2 ^ m) := by
  split
  · next h => rw [h, Nat.pow_zero, Nat.mod_one]; rfl
  · next h => rw [bitsOf, Nat.mul_one, Nat.mul_comm, show pos + m - 1 + 1 - pos = m by omega]

/-- A field taken out of a number and another put in its place leaves the bits below and above it. -/
theorem replace_field (x y pos m : Nat) : x - 2 ^ pos * (x / 2 ^ pos % 2 ^ m) + y * 2 ^ pos =
    2 ^ pos * (2 ^ m * (x / 2 ^ pos / 2 ^ m) + y) + x % 2 ^ pos := by
  have h1 := Nat.div_add_mod x (2 ^ pos)
  have h2 : 2 ^ pos * (2 ^ m * (x / 2 ^ pos / 2 ^ m)) + 2 ^ pos * (x / 2 ^ pos % 2 ^ m) = 2 ^ pos * (x / 2 ^ pos) := by
    rw [← Nat.mul_add, Nat.div_add_mod]
  rw [Nat.mul_add, Nat.mul_comm y]
  omega

theorem insertField_inside {w pos : Nat} (a b len : Nat) (h : pos < w) : insertField w a b pos len =
    2 ^ pos * (2 ^ min len (w - pos) * (a % 2 ^ w / 2 ^ pos / 2 ^ min len (w - pos)) + b % 2 ^ min len (w - pos)) + a % 2 ^ w % 2 ^ pos := by
  have hf : a / 2 ^ pos % 2 ^ min len (w - pos) = a % 2 ^ w / 2 ^ pos % 2 ^ min len (w - pos) := by
    refine Nat.eq_of_testBit_eq fun i => ?_
    simp only [Nat.testBit_mod_two_pow, Nat.testBit_div_two_pow]
    by_cases hi : i < min len (w - pos)
    · rw [decide_eq_true (by omega : i + pos < w), Bool.true_and]
    · rw [decide_eq_false hi, Bool.false_and, Bool.false_and]
  rw [insertField, if_neg (Nat.not_le.mpr h), bitsOf_field, hf, replace_field]

/-- The bits of B in the field, those of A below bit w elsewhere, 0 from bit w. -/
theorem testBit_insertField (w a b pos len i : Nat) : (insertField w a b pos len).testBit i =
    (decide (i < w) && if pos ≤ i ∧ i < pos + len then b.testBit (i - pos) else a.testBit i) := by
  by_cases hw : w ≤ pos
  · rw [insertField, if_pos hw, Nat.testBit_mod_two_pow]
    by_cases hi : i < w
    · rw [if_neg (by omega)]
    · rw [decide_eq_false hi, Bool.false_and, Bool.false_and]
  · have hpos := Nat.not_le.mp hw
    rw [insertField_inside a b len hpos, Nat.testBit_two_pow_mul_add _ (Nat.mod_lt _ (Nat.two_pow_pos _)),
      Nat.testBit_two_pow_mul_add _ (Nat.mod_lt _ (Nat.two_pow_pos _))]
    simp only [Nat.testBit_mod_two_pow, Nat.testBit_div_two_pow]
    by_cases h1 : i < pos
    · rw [if_pos h1, if_neg (by omega), decide_eq_true h1, Bool.true_and]
    · rw [if_neg h1]
      by_cases h2 : i - pos < min len (w - pos)
      · rw [if_pos h2, if_pos (by omega), decide_eq_true h2, decide_eq_true (by omega : i < w)]
      · rw [if_neg h2, show i - pos - min len (w - pos) + min len (w - pos) + pos = i by omega]
        by_cases hi : i < w
        · rw [if_neg (by omega)]
        · rw [decide_eq_false hi, Bool.false_and, Bool.false_and]

theorem insertField_lt (w a b pos len : Nat) : insertField w a b pos len < 2 ^ w :=
  Nat.lt_pow_two_of_testBit _ fun i hi => by rw [testBit_insertField, decide_eq_false (Nat.not_lt.mpr hi), Bool.false_and]

/-- The number whose bits `bfe` reads: A in the type. -/
def fieldSource (t : LType) (a : Nat) : Int :=
  if LType.signed t then signedOf (LType.width t) a else (a % 2 ^ LType.width t : Nat)

theorem extractField_zero (t : LType) (a pos : Nat) : extractField t a pos 0 = 0 := rfl

theorem extractField_pos (t : LType) (a pos : Nat) {len : Nat} (h : 0 < len) : extractField t a pos len =
    if LType.signed t then signedOf len (bitsOfInt len (fieldSource t a / 2 ^ pos)) else bitsOfInt len (fieldSource t a / 2 ^ pos) :=
  if_neg (Nat.ne_of_gt h)

/-- Bit p of A in the type: that of A below bit w, and its sign from there. -/
theorem testBit_fieldSource (t : LType) (a : Nat) {p v : Nat} (hp : p < v) : (bitsOfInt v (fieldSource t a)).testBit p =
    if p < LType.width t then a.testBit p else (LType.signed t && a.testBit (LType.width t - 1)) := by
  have hw : 0 < LType.width t := by cases t <;> decide
  have hlast : LType.width t - 1 < LType.width t := by omega
  rw [bitsOfInt_eq_toNat_ofInt, BitVec.testBit_toNat, fieldSource]
  split
  · next hs =>
    rw [signedOf_eq_toInt, ← BitVec.signExtend, BitVec.getLsbD_signExtend, BitVec.msb_eq_getLsbD_last,
      BitVec.getLsbD_ofNat, BitVec.getLsbD_ofNat, hs,
      decide_eq_true hp, decide_eq_true hlast, Bool.true_and, Bool.true_and]
    exact ite_congr rfl (fun h => by rw [decide_eq_true h, Bool.true_and]) (fun _ => rfl)
  · next hs =>
    rw [BitVec.ofInt_natCast, BitVec.getLsbD_ofNat, Nat.testBit_mod_two_pow, decide_eq_true hp, Bool.true_and,
      Bool.eq_false_iff.mpr hs, Bool.false_and]
    split
    · next h => rw [decide_eq_true h, Bool.true_and]
    · next h => rw [decide_eq_false h, Bool.false_and]

/-- A shift commutes with the choice of the low bits. -/
theorem bitsOfInt_ediv (x : Int) (pos len : Nat) : bitsOfInt len (x / 2 ^ pos) = bitsOfInt (pos + len) x / 2 ^ pos := by
  have hp : (2 : Int) ^ pos ≠ 0 := Int.pow_ne_zero (by decide)
  refine Int.ofNat_inj.mp ?_
  rw [Int.natCast_ediv, Int.natCast_pow, natCast_bitsOfInt, natCast_bitsOfInt]
  calc x / 2 ^ pos % 2 ^ len
      = x / 2 ^ pos + -(2 ^ len * (x / 2 ^ pos / 2 ^ len)) := Int.emod_def _ _
    _ = (x + 2 ^ pos * -(2 ^ len * (x / 2 ^ pos / 2 ^ len))) / 2 ^ pos := (Int.add_mul_ediv_left _ _ hp).symm
    _ = x % 2 ^ (pos + len) / 2 ^ pos := by
      rw [Int.ediv_ediv_of_nonneg (Int.pow_nonneg (by decide)), Int.mul_neg, ← Int.mul_assoc, ← Int.pow_add,
        ← Int.sub_eq_add_neg, ← Int.emod_def]

/-- The low bits of a shifted number are its bits from there on. -/
theorem testBit_bitsOfInt_ediv (x : Int) (pos len i : Nat) :
    (bitsOfInt len (x / 2 ^ pos)).testBit i = (bitsOfInt (pos + len) x).testBit (pos + i) := by
  rw [bitsOfInt_ediv, Nat.testBit_div_two_pow, Nat.add_comm i]

theorem testBit_extractField (t : LType) (a pos : Nat) {len i : Nat} (h : i < len) :
    (extractField t a pos len % 2 ^ len).toNat.testBit i =
      if pos + i < LType.width t then a.testBit (pos + i) else (LType.signed t && a.testBit (LType.width t - 1)) := by
  have hb : extractField t a pos len % 2 ^ len = (fieldSource t a / 2 ^ pos) % 2 ^ len := by
    rw [extractField_pos t a pos (Nat.zero_lt_of_lt h)]
    split
    · exact signedOf_bitsOfInt_emod _ _
    · rw [natCast_bitsOfInt, Int.emod_emod_of_dvd _ (Int.dvd_refl _)]
  rw [hb, ← bitsOfInt, testBit_bitsOfInt_ediv, testBit_fieldSource t a (Nat.add_lt_add_left h pos)]

theorem extractField_bounds (t : LType) (a pos : Nat) {len : Nat} (h : 0 < len) :
    if LType.signed t then -(2 ^ (len - 1)) ≤ extractField t a pos len ∧ extractField t a pos len < 2 ^ (len - 1)
    else 0 ≤ extractField t a pos len ∧ extractField t a pos len < 2 ^ len := by
  rw [extractField_pos t a pos h]
  split
  · exact ⟨le_signedOf _ _, signedOf_lt _ _⟩
  · exact ⟨Int.natCast_nonneg _, bitsOfInt_lt _ _⟩

/-- R135, bit by bit. -/
theorem bitFieldRule : BitFieldRule := by
  unfold BitFieldRule
  intro t a b pos len _ _ n
  refine ⟨fun i hi => ?_, insertField_lt _ _ _ _ _, fun h => ?_, fun i hi => testBit_extractField t a pos hi, extractField_bounds t a pos⟩
  · rw [testBit_insertField, decide_eq_true hi, Bool.true_and]
  · rw [h, extractField_zero]

/-- Settles O9: what each word lands, the division they share with the scalar code, and the two field functions bit by bit. -/
theorem laneBitsAndFields : Obligations.LaneBitsAndFields := ⟨laneBitsAndDivision, divisionRule, bitFieldRule⟩

end Sys2Proof.Proofs
